-- ==== Sys2Proof/Word.lean ====
section
/-! DEFINITION. The plain words of the model: bytes, byte strings as little-endian numbers (R6), and bit ranges of a
number written [high:low] (Conventions of 00_scope.md). Only the plainest arithmetic stands here. -/
namespace Sys2Proof

/-- One byte. -/
abbrev Byte := BitVec 8

/-- A run of bytes, lowest address first. -/
abbrev Bytes := List (BitVec 8)

/-- The `w` bits of `n` that begin at bit `lo`, as the number they spell. -/
def bitsAt (n lo w : Nat) : Nat := (n >>> lo) % 2 ^ w

/-- Bit `i` of `n`. -/
def bitAt (n i : Nat) : Bool := bitsAt n i 1 == 1

/-- The number a byte string spells, little-endian (R6). -/
def leNat : Bytes → Nat
  | [] => 0
  | b :: bs => b.toNat + 256 * leNat bs

/-- The `k` bytes of `n`, little-endian (R6). -/
def leBytes : Nat → Nat → Bytes
  | 0, _ => []
  | k + 1, n => BitVec.ofNat 8 n :: leBytes k (n / 256)

/-- The two's-complement reading of the low `w` bits of `n`. -/
def signedOf (w n : Nat) : Int :=
  let u := n % 2 ^ w
  if 2 * u < 2 ^ w then (u : Int) else (u : Int) - (2 ^ w : Nat)

/-- The low `w` bits of a signed number, as the number they spell. -/
def unsignedOf (w : Nat) (i : Int) : Nat := (i % ((2 ^ w : Nat) : Int)).toNat

/-- Places each `(low bit, width, value)` of a field table; a field holds the low bits of its value. -/
def packFields (fs : List (Nat × Nat × Nat)) : Nat :=
  fs.foldr (fun f acc => acc + (f.2.2 % 2 ^ f.2.1) <<< f.1) 0

/-- The listed `(low bit, width)` ranges of `n` are all zero: the reserved bits of a record (R8, R9, R94). -/
def zeroIn (n : Nat) (ranges : List (Nat × Nat)) : Bool :=
  ranges.all fun r => bitsAt n r.1 r.2 == 0

end Sys2Proof
end

