-- ==== Sys2Proof/Syntax.lean ====
section
/-! DEFINITION. The commands of the block: one constructor of `Instr` for each row of spec/opcode_table.json, in its
order, with what reaches the part from outside as operands. Frames and mailbox entries are carried as the bits the
spec lays out (Tables 4.2, 4.5, 14.3), rows of a port as the blocks of its eight data positions (Table 11.1); measured facts (a decode's outcome, a rail's crossing) are data of the row. -/
namespace Sys2Proof

/-- A frame: header of Table 4.2, payload, trailer of Table 4.5 (R93). -/
structure Frame where
  header : BitVec 256
  payload : Bytes
  trailer : BitVec 128
deriving DecidableEq, Repr

/-- A command as the mailbox engine takes it from a ring (R303): the pair, the 256-byte entry, the input buffer as the
owner's endpoint delivers it, the host-block data a command reads, and whether each bus transfer succeeds (R305, R323). -/
structure Command where
  pair : Nat
  entry : BitVec 2048
  buffer : Bytes
  bufferOk : Bool
  data : Bytes
  dataOk : Bool
deriving DecidableEq, Repr

/-- Who writes a register over PCIe: the endpoint (0 MP0, 1 MP1) and the requester ID (R299). -/
structure Access where
  endpoint : Nat
  requester : Nat
deriving DecidableEq, Repr

/-- What has become of a stack's arrays since a row last reported it: symbols that now read wrong, as (line, symbol of the codeword, difference)
(R266); 32-byte sectors that on-die ECC reports uncorrectable (R268); pseudo-channels that have stopped answering (R271) (log 10). -/
structure ArrayFaults where
  symbols : List (Nat × Nat × Nat) := []
  sectors : List Nat := []
  silent : List Nat := []
deriving DecidableEq, Repr

/-- Results of the tests at a release of RESET_N: pairs that pass (R17, R388), crossbar dies that pass (R202),
pseudo-channels that fail (R271), and failing columns of projection arrays as (die, array, count) (R186). -/
structure ResetTests where
  pairsPass : BitVec 30
  xdPass : BitVec 4
  pchFail : List (Nat × Nat)
  columns : List (Nat × Nat × Nat)
deriving DecidableEq, Repr

/-- What the trust die's comparators report of a rail (R332-R334). -/
inductive RailEvent where
  | rise10 | rise90 | fall90 | fall10 | below8 | above8 | back
deriving DecidableEq, Repr

/-- The outcome of a hand-over: done, or rolled back by the processor of a die (R368). -/
inductive HandoverOutcome where
  | done
  | rolledBack (die : Nat)
deriving DecidableEq, Repr

/-- Why a crossbar die is declared failed: three heartbeats missed, one of its 63 die-to-die links out of lock (0-31 lane chiplets, 32-61 ledger dies,
62 MD), or an uncorrectable error in its queue records or scheduler state (R200). -/
inductive XdCause where
  | heartbeat
  | linkLost (link : Nat)
  | stateError
deriving DecidableEq, Repr

/-- A crossbar die that is declared failed, and why (R200). -/
structure XdFailure where
  xd : Nat
  cause : XdCause := .heartbeat
deriving DecidableEq, Repr

/-- The timebase die that takes a mark, and the stream records in which uncorrectable errors have been found since, as (die, stream) (Table 18.1,
log 104). -/
structure MarkRead where
  tb : Nat
  lost : List (Nat × Nat) := []
deriving DecidableEq, Repr

/-- A debug access of DBG_MEM: which memory, where, and the bytes written (none for a read) (R376). -/
inductive DebugSpace where
  | sram (die : Nat)
  | hbm (stack : Nat)
  | cell
deriving DecidableEq, Repr

/-- What DBG_CTRL asks of a firmware processor (R376). -/
inductive DebugAction where
  | halt | resume | step
  | readReg (reg : Nat)
  | writeReg (reg value : Nat)
deriving DecidableEq, Repr

/-- The commands of the block, one per row of spec/opcode_table.json. -/
inductive Instr where
  -- mailbox commands (15_command_reference.md)
  | query (c : Command)
  | fieldbookRead (c : Command)
  | parcelCreate (c : Command)
  | setPlat (c : Command)
  | parcelRemove (c : Command)
  | platSet (c : Command)
  | traverseOpen (c : Command)
  | traverseClose (c : Command)
  | traverseCloseForce (c : Command)
  | genOpen (c : Command)
  | tallySet (c : Command)
  | tallySetFree (c : Command)
  | ledgerAllocCreate (c : Command)
  | ledgerAllocChange (c : Command)
  | ledgerAllocFree (c : Command)
  | ledgerLoad (c : Command)
  | ledgerLoadZero (c : Command)
  | ledgerSave (c : Command)
  | apply (c : Command)
  | applyDiscard (c : Command)
  | normReadLocal (c : Command)
  | normReadRead (c : Command)
  | serveArm (c : Command)
  | serveDisarm (c : Command)
  | basisLoad (c : Command)
  | basisBind (c : Command)
  | mapSelectImmediate (c : Command)
  | mapSelectAction (c : Command)
  | mapSelectDelete (c : Command)
  | routeStage (c : Command)
  | routeCommit (c : Command)
  | mirrorSet (c : Command)
  | mirrorSetPart (c : Command)
  | budgetSet (c : Command)
  | stationSource (c : Command)
  | stationSourceOff (c : Command)
  | memberRemap (c : Command)
  | admitRestartOnly (c : Command)
  | admitWarm (c : Command)
  | easementGrant (c : Command)
  | easementRevoke (c : Command)
  | fwStage (c : Command)
  | fwHandover (c : Command)
  | fwHandoverCancel (c : Command)
  | debugOpen (c : Command)
  | auditReadPool (c : Command)
  | auditReadLedger (c : Command)
  | auditReadScheduled (c : Command)
  | commandEffectEnd (seq : Nat)
  -- registers and rings (14_mailboxes_and_field_book.md)
  | pairEnable (a : Access) (pair : Nat) (value : BitVec 32)
  | pairDisable (a : Access) (pair : Nat) (value : BitVec 32)
  | cmdDoorbell (a : Access) (pair : Nat) (value : BitVec 32)
  | cmpDoorbell (a : Access) (pair : Nat) (value : BitVec 32)
  | registerWrite (a : Access) (offset : Nat) (value : BitVec 32)
  | mgmtCommandFrame
  | mgmtRegRead
  | mgmtRegWrite
  -- switch core (04, 09, 10, 13)
  | laneFrameIngress (port : Nat) (rows : List (List (BitVec 256)))
  | allocRetry (input : Nat) (vc : Nat)
  | outputFrameStart (output : Nat)
  | outputFrameEnd (output : Nat) (readError : Option Nat)
  | epochDrained
  | sprayJoin (port : Nat)
  | descriptorAgeDrop (queue : Nat)
  | bufferThresholdUpdate
  | telemetryPeriod
  -- resequencers (R106-R108, R220)
  | reseqFrameArrival (die : Nat)
  | holeSkip (die srcPart srcPort flow : Nat)
  | seqFlowRetire (die srcPart srcPort flow : Nat)
  | egReseqFrameArrival (chiplet : Nat)
  | egHoleSkip (chiplet srcPart srcPort flow : Nat)
  -- collectives (03, 04, 06)
  | ledgerFrameReceive (die : Nat)
  | surveyFrame (die : Nat)
  | openFrame (die : Nat)
  | datumFrame (die : Nat)
  | doneFrame (die : Nat)
  | abortCommonFrame (die : Nat)
  | abortReqFrame (die : Nat)
  | resultFrame
  | serveRequest (die : Nat)
  | layerGenerationOpen (traverse : Nat)
  | verdictQueryFrame (die : Nat)
  | releaseQueryFrame (die : Nat)
  | genMemberTimeout (traverse : Nat) (gen : BitVec 32) (entry : Nat)
  | broadcastMemberTimeout (traverse : Nat) (gen : BitVec 32) (entry : Nat)
  | verdictWaitTimeout (tally : Bool) (index : Nat) (gen : BitVec 32)
  | contextDrop (traverse : Nat)
  | bindingPrevClear (traverse : Nat)
  -- tallies (R81-R85)
  | tallyArrival (die : Nat)
  | tallyRelease (die : Nat)
  | tallyMemberLate (tally : Nat)
  | timeoutReqFrame (die : Nat)
  -- chainage (05)
  | stationMark (mark : MarkRead)
  | stationInWord (word : BitVec 128)
  | handoverEnd (outcome : HandoverOutcome)
  | actionConfirm (ordinal : BitVec 32)
  | replicaSync
  | stationTimeout (tb stream : Nat)
  -- memories (12, 13, 18)
  | spillStart (die : Nat)
  | spillAck (die traverse : Nat) (gen : BitVec 32) (chain : Nat)
  | fillDone (die traverse : Nat) (gen : BitVec 32) (chain : Nat)
  | scatterAdd (die : Nat)
  | patrolScrubLine (stack : Nat) (faults : ArrayFaults)
  | mapoutStart (stack : Nat)
  | mapoutDone (stack : Nat) (faults : ArrayFaults)
  | poolAuditDone
  | ledgerAuditDone (faults : List (Nat × ArrayFaults))
  -- projection (07)
  | basisReady (slot : Nat)
  | arraySelftestDone (die : Nat) (columns : List (Nat × Nat))
  -- links (10, 11)
  | linkControlWord (port : Nat) (overhead : List (BitVec 16))
  | rateRecovery (port : Nat)
  | goingIdleExpiry (port : Nat)
  | bringupIdleEnd (port : Nat)
  | ckWindowSwitch (port : Nat)
  | ckLock (port : Nat)
  | losCheckPass (port : Nat)
  | trainingRow (port : Nat) (row : List (BitVec 272))
  | bringupStepTimeout (port : Nat)
  | losAssert (port position : Nat)
  | losClear (port position : Nat)
  | lossOfLock (port position : Nat)
  | lockRegained (port : Nat)
  -- clocks, dies, watchdogs (01, 09, 17, 18)
  | refclkInputLost (input : Nat)
  | xdHeartbeatMiss (failure : XdFailure)
  | ledgerHeartbeatMiss (pair : Nat) (stackSilent : Bool)
  | mdHeartbeatMiss
  | mgmtWatchdogExpiry (core : Nat)
  | seqWatchdogExpiry (die : Nat)
  | laneWatchdogExpiry (chiplet : Nat)
  | timebaseWatchdogExpiry (tb : Nat)
  | deadmanExpiry
  -- supplies, reset, boot (16, 17)
  | supplyRailEvent (rail : Nat) (event : RailEvent)
  | vddAonRise
  | resetNAssert (lowNs : Nat)
  | resetNRelease
  | resetReleaseEffective (tests : ResetTests)
  | bootVerifyDone (flashFound selfTest : Bool)
  | bootReady
  | mpPerstAssert (endpoint : Nat)
  | mpPerstRelease (endpoint : Nat)
  -- power and thermal (16)
  | powerStateEntry (group : Nat)
  | powerExitDone (group : Nat)
  | wakePoint (group : Nat)
  | powerLoopTick (watts : List Nat) (celsius : List (Nat × Int))
  | hwThrottle (die : Nat)
  | thermtrip (die : Nat)
  -- test access port (17)
  | extest (shiftIn : List Bool)
  | samplePreload (pins shiftIn : List Bool)
  | idcode
  | clamp
  | highz
  | bypass (code : BitVec 8) (shiftIn : Bool)
  | supplyRec
  | tdState
  | bootLog
  | monumentRead
  | attest (nonce : BitVec 384)
  | lcTransition (record : Bytes)
  | dbgTrace (dieId : Nat)
  | dbgMem (space : DebugSpace) (address : Nat) (write : Option Byte)
  | dbgCtrl (dieId processor : Nat) (action : DebugAction)
  -- scheduler, timebase, power, zeroing, rings, restarts
  | cellSlot
  | timebaseHeartbeatMiss (tb : Nat)
  | refclkInputReturn (input : Nat)
  | powerStateEntryDone (group : Nat)
  | zeroingLine (stack : Nat)
  | ringMemoryWrite (a : Access) (offset : Nat) (bytes : Bytes)
  | pairAbandoned
  | tapReset
  | mdFirmwareFault
deriving DecidableEq, Repr

end Sys2Proof
end

