-- ==== Sys2Proof/Decode.lean ====
section
/-! DEFINITION. The decoder of table words. The spec's opcode table gives no row any bits (a command reaches the block as a
mailbox entry, a frame, a register access or an event), so no word spells a command. -/
namespace Sys2Proof

/-- The command a table word spells: none, since no row of spec/opcode_table.json has bits. -/
def decodeTableWord (_nbits _w : Nat) : Option Instr := none

end Sys2Proof
end

