-- ==== Sys2Proof/Config.lean ====
section
/-! DEFINITION. What one member of the family fixes (Tables 0.1, 1.1), and the free values: constants without a body,
so that a proof about them holds whatever they are (log 6). -/
namespace Sys2Proof.Config

/-- P of R4: ledger pairs of the LV-X128 and of its grade LV-X128-28 (Table 0.1). -/
def pairs : Nat := 30
/-- Half of P, the distance between a record or stripe and its copy (R4, R16, R133). -/
def half : Nat := pairs / 2
/-- External ports (Table 0.1). -/
def ports : Nat := 128
/-- Lane chiplets (Table 1.1). -/
def chiplets : Nat := 32
/-- Crossbar ports: 0-127 external, 128-157 ledger dies, 158 MD (R13). -/
def xports : Nat := 159
/-- The crossbar port of MD. -/
def mdPort : Nat := 158
/-- The crossbar port of ledger die `i` (01_package_and_dies.md, Crossbar dies). -/
def diePort (i : Nat) : Nat := 128 + i
/-- DEV_ID.MEMBER of the LV-X128 (Table 14.2). -/
def memberCode : Nat := 2
/-- Die groups: 0-7 DG-L, 8 DG-X, 9-18 DG-D, 19 DG-M, as GROUPS of BUDGET_SET numbers them (Table 15.6). -/
def groups : Nat := 20
/-- Supply rails (Table 16.1). -/
def rails : Nat := 47
/-- Traverse and tally indices (R54, R81). -/
def indices : Nat := 4096

/-- Element `i` of an MX block of BF16 codes that holds a NaN or an infinity, in a format code of Table 3.3: R30 gives its scale code and no
element. The same block gives the same bits whenever it is served (R127, log 6). -/
opaque mxElement : Nat → List Nat → Nat → Nat
/-- A fresh value the spec leaves open; the argument is the counter the step has reached (log 6). -/
opaque freeNat : Nat → Nat
/-- Cell slots between two credits of a VC while the power loop throttles a port's group: R24 and R232 give no rate (log 89). -/
opaque throttleGap : Nat
/-- The check bytes of the one line of a stack that holds its own: the spec gives the cycle no start (R267, log 93). -/
opaque ownCheck : Nat → Bytes
/-- Lines a map-out copy of a stack has moved by a time after its start: R274 bounds its end alone (log 94). -/
opaque copyPointer : Nat → Nat → Nat
/-- An SRAM bank from 2 on of a ledger die holds tables, records, accumulators or resequencer state: the firmware places them (R279, R282, log 95). -/
opaque bankHolds : Nat → Nat → Bool
/-- The signature ATTEST makes with an identity key over a digest: FIPS 186-5 leaves its nonce free (R358, log 6). -/
opaque attestSignature : Nat → Nat → Nat
/-- What a firmware register or a trace buffer holds; the spec gives no layout (R376, log 6). -/
opaque debugWord : Nat → Nat → Nat

end Sys2Proof.Config
end

