-- ==== Sys2Proof/Machine/Number.lean ====
section
/-! DEFINITION. Floating point, exactly (02_number_formats.md): decoding by the value an encoding represents (R26),
rounding once to nearest even, the vector unit's operations (R32), the expansions of R28 and the MX formats (R30). -/
namespace Sys2Proof.Machine

/-- The value an encoding represents: (-1)^neg * m * 2^e, an infinity, or not a number. -/
inductive Num where
  | fin (neg : Bool) (m : Nat) (e : Int)
  | inf (neg : Bool)
  | nan
deriving DecidableEq, Repr, Inhabited

/-- A binary floating-point format: exponent bits, fraction bits, and whether it is E4M3-like (R27: no infinities, one NaN
magnitude) or E2M1-like (no infinities, no NaN). -/
structure Fp where
  eb : Nat
  fb : Nat
  kind : Nat := 0
deriving DecidableEq, Repr, Inhabited

def Fp.fp64 : Fp := { eb := 11, fb := 52 }
def Fp.fp32 : Fp := { eb := 8, fb := 23 }
def Fp.fp16 : Fp := { eb := 5, fb := 10 }
def Fp.bf16 : Fp := { eb := 8, fb := 7 }
def Fp.e4m3 : Fp := { eb := 4, fb := 3, kind := 1 }
def Fp.e5m2 : Fp := { eb := 5, fb := 2 }
def Fp.e2m1 : Fp := { eb := 2, fb := 1, kind := 2 }

def Fp.bias (f : Fp) : Nat := 2 ^ (f.eb - 1) - 1
def Fp.width (f : Fp) : Nat := 1 + f.eb + f.fb
/-- Sign bit as a number. -/
def Fp.signBit (f : Fp) : Nat := 2 ^ (f.eb + f.fb)
/-- Greatest finite magnitude code. -/
def Fp.maxMag (f : Fp) : Nat :=
  if f.kind = 0 then (2 ^ f.eb - 1) * 2 ^ f.fb - 1 else if f.kind = 1 then 2 ^ (f.eb + f.fb) - 2 else 2 ^ (f.eb + f.fb) - 1
/-- Canonical quiet NaN (R32, R38); E4M3 has the single NaN 0x7F. -/
def Fp.nanCode (f : Fp) : Nat :=
  if f.kind = 0 then (2 ^ f.eb - 1) * 2 ^ f.fb + 2 ^ (f.fb - 1) else 2 ^ (f.eb + f.fb) - 1
/-- The magnitude code of an infinite result: 0x7F in E4M3 (R27). -/
def Fp.infMag (f : Fp) : Nat := f.maxMag + 1

/-- The value of an encoding (R26). -/
def Fp.decode (f : Fp) (code : Nat) : Num :=
  let neg := bitAt code (f.eb + f.fb)
  let mag := code % f.signBit
  let ex := mag / 2 ^ f.fb
  let fr := mag % 2 ^ f.fb
  if mag > f.maxMag then (if f.kind = 0 ∧ fr = 0 then .inf neg else .nan)
  else if ex = 0 then .fin neg fr (1 - (f.bias : Int) - f.fb)
  else .fin neg (2 ^ f.fb + fr) ((ex : Int) - f.bias - f.fb)

/-- Number of significant bits of `m`. -/
def bitLen (m : Nat) : Nat := if m = 0 then 0 else Nat.log2 m + 1

/-- `m / 2^sh` rounded to nearest even. -/
def shiftRne (m sh : Nat) : Nat :=
  if sh = 0 then m
  else
    let q := m >>> sh
    let r := m % 2 ^ sh
    let half := 2 ^ (sh - 1)
    if r > half ∨ (r = half ∧ q % 2 = 1) then q + 1 else q

/-- The magnitude code of m * 2^e rounded to nearest even with an unbounded exponent above: it may exceed maxMag. -/
def Fp.roundMag (f : Fp) (m : Nat) (e : Int) : Nat :=
  if m = 0 then 0
  else
    let lowest : Int := 1 - (f.bias : Int) - f.fb
    let u : Int := max (e + bitLen m - (f.fb + 1 : Nat)) lowest
    let q := if u ≤ e then m <<< (e - u).toNat
             else if (u - e).toNat > bitLen m + 1 then 0 else shiftRne m (u - e).toNat
    (u - lowest).toNat * 2 ^ f.fb + q

/-- Rounds to nearest even into the format. With `sat` an overflow in an FP8 format gives the largest finite value (R27). -/
def Fp.encode (f : Fp) (sat : Bool) : Num → Nat
  | .nan => f.nanCode
  | .inf neg => if f.kind = 0 then f.infMag + (if neg then f.signBit else 0) else f.nanCode
  | .fin neg m e =>
    let mag := f.roundMag m e
    let sgn := if neg then f.signBit else 0
    if mag ≤ f.maxMag then mag + sgn
    else if sat && f.width == 8 then f.maxMag + sgn
    else if f.kind = 0 then f.infMag + sgn else f.nanCode

/-- Encoding without saturation. -/
def Fp.put (f : Fp) (n : Num) : Nat := f.encode false n

/-! ### Exact operations on values -/

/-- Exact product of two values. -/
def Num.mul : Num → Num → Num
  | .nan, _ => .nan
  | _, .nan => .nan
  | .inf a, .inf b => .inf (a != b)
  | .inf a, .fin b m _ => if m = 0 then .nan else .inf (a != b)
  | .fin a m _, .inf b => if m = 0 then .nan else .inf (a != b)
  | .fin a m e, .fin b n k => .fin (a != b) (m * n) (e + k)

/-- Exact sum; an exact zero is +0 unless both terms are -0 (round to nearest even). -/
def Num.add : Num → Num → Num
  | .nan, _ => .nan
  | _, .nan => .nan
  | .inf a, .inf b => if a = b then .inf a else .nan
  | .inf a, .fin _ _ _ => .inf a
  | .fin _ _ _, .inf b => .inf b
  | .fin a m e, .fin b n k =>
    let u := min e k
    let x : Int := (if a then -1 else 1) * ((m <<< (e - u).toNat : Nat) : Int)
    let y : Int := (if b then -1 else 1) * ((n <<< (k - u).toNat : Nat) : Int)
    let z := x + y
    if z = 0 then .fin (a && b) 0 0 else .fin (z < 0) z.natAbs u

def Num.neg : Num → Num
  | .nan => .nan
  | .inf a => .inf (!a)
  | .fin a m e => .fin (!a) m e

/-- A quotient with enough bits, and a sticky bit, to be rounded once into any format here. -/
def Num.div : Num → Num → Num
  | .nan, _ => .nan
  | _, .nan => .nan
  | .inf _, .inf _ => .nan
  | .inf a, .fin b _ _ => .inf (a != b)
  | .fin a _ _, .inf b => .fin (a != b) 0 0
  | .fin a m e, .fin b n k =>
    if n = 0 then (if m = 0 then .nan else .inf (a != b))
    else
      let sh := 70 + bitLen n
      let q := (m <<< sh) / n
      let r := (m <<< sh) % n
      .fin (a != b) (2 * q + (if r = 0 then 0 else 1)) (e - k - sh - 1)

/-- Bits `k - 1` to 0 of the integer square root of `n`, added to the root `r` found so far. -/
def isqrtStep (n : Nat) : Nat → Nat → Nat
  | 0, r => r
  | k + 1, r =>
    let c := r + 2 ^ k
    isqrtStep n k (if c * c ≤ n then c else r)

/-- Floor of the square root. -/
def isqrt (n : Nat) : Nat := isqrtStep n (bitLen n / 2 + 1) 0

/-- A square root with enough bits, and a sticky bit, to be rounded once. -/
def Num.sqrt : Num → Num
  | .nan => .nan
  | .inf a => if a then .nan else .inf false
  | .fin a m e =>
    if m = 0 then .fin a 0 0
    else if a then .nan
    else
      let sh := 130 + (if (e % 2 = 0) then 0 else 1)
      let w := m <<< sh
      let r := isqrt w
      .fin false (2 * r + (if r * r = w then 0 else 1)) ((e - sh) / 2 - 1)

/-! ### The vector unit (R32): operations on encodings, rounded once -/

def Fp.add (f : Fp) (a b : Nat) : Nat := f.put ((f.decode a).add (f.decode b))
def Fp.sub (f : Fp) (a b : Nat) : Nat := f.put ((f.decode a).add (f.decode b).neg)
def Fp.mul (f : Fp) (a b : Nat) : Nat := f.put ((f.decode a).mul (f.decode b))
def Fp.div (f : Fp) (a b : Nat) : Nat := f.put ((f.decode a).div (f.decode b))
def Fp.sqrt (f : Fp) (a : Nat) : Nat := f.put (f.decode a).sqrt
def Fp.fma (f : Fp) (a b c : Nat) : Nat := f.put (((f.decode a).mul (f.decode b)).add (f.decode c))
/-- a < b on encodings; false when either is NaN. -/
def Fp.lt (f : Fp) (a b : Nat) : Bool :=
  match (f.decode b).add (f.decode a).neg, f.decode a, f.decode b with
  | _, .nan, _ => false
  | _, _, .nan => false
  | _, .inf x, .inf y => x && !y
  | .fin n m _, _, _ => !n && m != 0
  | .inf n, _, _ => !n
  | .nan, _, _ => false
def Fp.isNan (f : Fp) (a : Nat) : Bool := f.decode a == .nan

/-! ### Formats by code (Table 3.3) -/

/-- The floating-point format of a code of Table 3.3 that names a plain one. -/
def fpOf : Nat → Option Fp
  | 0 => some .fp64 | 1 => some .fp32 | 2 => some .fp16 | 3 => some .bf16 | 4 => some .e4m3 | 5 => some .e5m2
  | _ => none

/-- Bits per element of a format code (Table 2.1). -/
def fmtBits : Nat → Nat
  | 0 => 64 | 1 => 32 | 2 => 16 | 3 => 16 | 4 => 8 | 5 => 8 | 6 => 8 | 7 => 8 | 8 => 4 | 9 => 8 | 10 => 4
  | _ => 8

/-- Elements per chain (Table 2.1). -/
def fmtElems : Nat → Nat
  | 0 => 512 | 1 => 1024 | 2 => 2048 | 3 => 2048 | 4 => 4096 | 5 => 4096 | 6 => 3968 | 7 => 3968 | 8 => 7680
  | 9 => 4096 | 10 => 8192 | _ => 0

/-- Contribution role (Table 2.1). -/
def fmtContributes (c : Nat) : Bool := c ≤ 5 || c == 9 || c == 10
/-- Result role (Table 2.1). -/
def fmtResults (c : Nat) : Bool := c ≤ 5
/-- Serve role (Table 2.1). -/
def fmtServes (c : Nat) : Bool := 2 ≤ c && c ≤ 8

/-- The 16-bit little-endian words of a byte string. -/
def words16 : Bytes → List Nat
  | x :: y :: r => (x.toNat + 256 * y.toNat) :: words16 r
  | _ => []

/-- The elements of a payload as encodings, low nibble first for 4-bit formats (R28). -/
def elemCodes (bits : Nat) (bs : Bytes) : List Nat :=
  if bits = 4 then bs.flatMap fun b => [b.toNat % 16, b.toNat / 16]
  else if bits = 8 then bs.map BitVec.toNat
  else if bits = 16 then words16 bs
  else
    let hs := words16 bs
    if bits = 32 then pairUp 16 hs else pairUp 32 (pairUp 16 hs)
where
  /-- Joins neighbouring words of `w` bits, low word first. -/
  pairUp (w : Nat) : List Nat → List Nat
    | x :: y :: r => (x + y <<< w) :: pairUp w r
    | _ => []

/-- Nibbles as bytes, low nibble first. -/
def nibbleBytes : List Nat → Bytes
  | c :: d :: r => BitVec.ofNat 8 (c % 16 + 16 * (d % 16)) :: nibbleBytes r
  | [c] => [BitVec.ofNat 8 (c % 16)]
  | [] => []

/-- Encodings as payload bytes. -/
def elemBytes (bits : Nat) (cs : List Nat) : Bytes :=
  if bits = 4 then nibbleBytes cs else cs.flatMap (leBytes (bits / 8))

/-- The value of an element of a contribution: plain, or by table or scale expansion (R28). -/
def expandElem (fmt expand : Nat) (table : List (BitVec 16)) (scale : BitVec 32) (zero : Int) (code : Nat) : Num :=
  match fpOf fmt with
  | some f => f.decode code
  | none =>
    if expand = 1 then Fp.bf16.decode (table.getD (code % 16) 0).toNat
    else
      let q := signedOf (fmtBits fmt) code - zero
      (Num.fin (q < 0) q.natAbs 0).mul (Fp.fp32.decode scale.toNat)

/-! ### MX formats (R30) -/

/-- floor(log2 |x|) of a finite nonzero value. -/
def Num.exponent : Num → Int
  | .fin _ m e => e + bitLen m - 1
  | _ => 0

def Num.finite : Num → Bool
  | .fin _ _ _ => true
  | _ => false

def Num.isZero : Num → Bool
  | .fin _ m _ => m == 0
  | _ => false

/-- The block scale exponent of R30, and the element format's emax. -/
def mxExponent (emax : Int) (xs : List Num) : Int :=
  let es := (xs.filter fun x => !x.isZero).map Num.exponent
  let top := es.foldl max (es.headD 0)
  min 127 (max (-127) (top - emax))

/-- One block of 32 BF16 codes as element codes of an MX format and a scale code (R30). The elements of a block with NaN or infinity are
not given by the spec: they are free values of the block (R127, log 6). -/
def mxBlock (fmt : Nat) (elem : Fp) (emax : Int) (codes : List Nat) : List Nat × Nat :=
  let xs := codes.map Fp.bf16.decode
  if xs.any (fun x => !x.finite) then
    ((List.range xs.length).map fun i => Config.mxElement fmt codes i % 2 ^ elem.width, 0xFF)
  else if xs.all Num.isZero then (xs.map elem.put, 0)
  else
    let e := mxExponent emax xs
    (xs.map fun x =>
      match x with
      | .fin s m k =>
        let mag := min (elem.roundMag m (k - e)) elem.maxMag
        mag + (if s then elem.signBit else 0)
      | _ => 0, (e + 127).toNat)

/-- Splits a list into runs of `n` (the last may be shorter), `fuel` runs at most. -/
def chunks {α : Type} (n : Nat) : Nat → List α → List (List α)
  | 0, _ => []
  | fuel + 1, xs => if xs.isEmpty then [] else xs.take n :: chunks n fuel (xs.drop n)

/-- Element format and emax of an MX format code (Table 3.3, R30). -/
def mxElem (fmt : Nat) : Fp × Int :=
  if fmt = 6 then (.e4m3, 8) else if fmt = 7 then (.e5m2, 15) else (.e2m1, 2)

/-- A serve chain of BF16 encodings in an MX format: elements, scales, zeros to 4,096 bytes (R30). -/
def mxChain (fmt : Nat) (codes : List Nat) : Bytes :=
  let (elem, emax) := mxElem fmt
  let blocks := (chunks 32 300 codes).map (mxBlock fmt elem emax)
  let es := elemBytes (fmtBits fmt) (blocks.flatMap (·.1))
  let ss := blocks.map fun b => BitVec.ofNat 8 b.2
  let out := es ++ ss
  out ++ List.replicate (4096 - out.length) 0

/-- A chain of BF16 encodings in a serve format (R155 uses R30 for MX; other formats by R38's rounding and R27). -/
def serveChain (fmt : Nat) (sat : Bool) (codes : List Nat) : Bytes :=
  match fpOf fmt with
  | some f => if fmt = 3 then elemBytes 16 codes else elemBytes f.width (codes.map fun c => f.encode sat (Fp.bf16.decode c))
  | none => mxChain fmt codes

end Sys2Proof.Machine
end

