-- ==== Sys2Proof/Machine/State.lean ====
section
/-! DEFINITION. The state of the block, as plain data, and the state right after reset. A field's default is its reset
value. "log 3" marks a value the spec does not give; "model" marks the model's own bookkeeping (log 2, 5, 6, 7, 12). -/
namespace Sys2Proof.Machine

/-- Why a command cannot run at all. Raised by the meanings through Ops.guardUnit. -/
inductive Fault where
  /-- An operand names a port, die, pair, rail, slot or offset that the spec says does not exist (R11-R14, R298,
  Table 16.1). Raised by every meaning with such an operand. Safe: the machine stops where no hardware exists. -/
  | noSuchUnit
deriving DecidableEq, Repr

/-- Why a command has no meaning here. -/
inductive Refusal where
  /-- The named row of the opcode table has no meaning yet. Raised by exec's refused arms only. Safe. -/
  | notModelled (mnemonic : String)
deriving DecidableEq, Repr

/-! ### Numbers with a meaning -/

/-- Classes of an LX96 value, Table 2.3. -/
inductive Cls where
  | finite | posInf | negInf | nan
deriving DecidableEq, Repr, Inhabited

/-- An LX96 value: N and CLASS (R34). -/
structure Lx where
  n : BitVec 96 := 0
  cls : Cls := .finite
deriving DecidableEq, Repr, Inhabited

/-! ### Traverses and generations (03) -/

/-- KIND of a traverse, Table 3.2. -/
inductive Kind where
  | reduce | broadcast | permute
deriving DecidableEq, Repr, Inhabited

/-- POSITION of a part in a tree, Table 3.2. -/
inductive Position where
  | leaf | interior | root
deriving DecidableEq, Repr, Inhabited

/-- RMODE, Table 3.2. -/
inductive RMode where
  | lx96 | canon64 | arrive
deriving DecidableEq, Repr, Inhabited

/-- DMODE, Table 3.2. -/
inductive DMode where
  | fixed | survey | carried
deriving DecidableEq, Repr, Inhabited

/-- ROLE of a member entry, Table 3.4. -/
inductive Role where
  | endpoint | child | region | dest
deriving DecidableEq, Repr, Inhabited

/-- A member-table entry, Table 3.4. -/
structure Member where
  port : Nat := 0xFF
  role : Role := .endpoint
  rankFirst : Nat := 0
  rankCount : Nat := 0
  region : Nat := 0
deriving DecidableEq, Repr, Inhabited

/-- What TRAVERSE_OPEN supplies of a context (Table 3.2), with its member table and expansion table. -/
structure Ctx where
  kind : Kind := .reduce
  position : Position := .root
  fmtIn : Nat := 0
  fmtOut : Nat := 0
  rmode : RMode := .lx96
  dmode : DMode := .fixed
  datum : Int := 0
  floor : Nat := 0
  sat : Bool := false
  expand : Nat := 0
  headroom : Nat := 0
  linkValid : Bool := false
  autoOpen : Bool := false
  report : Nat := 0
  height : Nat := 0
  parcel : Nat := 0
  uptree : Nat := 0xFF
  timeoutUs : Nat := 1
  ranks : Nat := 1
  seed : BitVec 64 := 0
  link : Nat := 0
  tally : Nat := 0
  tallyValid : Bool := false
  scale : BitVec 32 := 0
  zeroPoint : Int := 0
  shardChains : Nat := 0
  memberTable : BitVec 32 := 0
  entries : List Member := []
  table : List (BitVec 16) := []
deriving DecidableEq, Repr, Inhabited

/-- States of a traverse that is not FREE (Table 3.5); a FREE index has no record. -/
inductive TravState where
  | ready | active | closing
deriving DecidableEq, Repr, Inhabited

/-- States of a generation, Table 3.6. -/
inductive GenPhase where
  | surveying | open_ | sent | aborting | complete | aborted
deriving DecidableEq, Repr, Inhabited

/-- An abort record, Table 3.9. -/
structure AbortRec where
  gen : BitVec 32 := 0
  traverse : Nat := 0
  cause : Nat := 0
  port : Nat := 0xFF
  part : Nat := 0
  chain : Nat := 0xFFFFFFFFFF
deriving DecidableEq, Repr, Inhabited

/-- What a part has seen of one member entry in one generation (R63, R76, R90, R91). -/
structure Progress where
  /-- The member has surveyed (R71). -/
  surveyed : Bool := false
  /-- Highest chain the member has sent whole. -/
  last : Option Nat := none
  /-- Chains it has sent whole: a repeat is a duplicate (R63, R91). -/
  sent : List Nat := []
  /-- Chain the member is part-way through, with the next FIRST_ELEM expected (R91, R100). -/
  part : Option (Nat × Nat) := none
  /-- Ranks covered so far by the NODE frames of that chain, and the tag (a, k) of a node it is part-way through (R45, R74). -/
  cover : Nat := 0
  tag : Option (Nat × Nat) := none
  /-- The member has sent END. -/
  ended : Bool := false
  /-- Time of the member's last frame of the generation (R76). -/
  lastAt : Nat := 0
deriving DecidableEq, Repr, Inhabited

/-- Where a chain accumulator stands (R283). -/
inductive Residency where
  | sram | spilling | hbm | filling
deriving DecidableEq, Repr, Inhabited

/-- A CANON64 node held for a chain: first rank, k, FP64 values by element (R44, R45). -/
structure Node where
  a : Nat
  k : Nat
  first : Nat
  vals : List (BitVec 64)
deriving DecidableEq, Repr, Inhabited

/-- A chain accumulator (R19, R104, R44, R47, R51). -/
structure Acc where
  chain : Nat := 0
  /-- Physical ledger die that holds it (R134, R183). -/
  die : Nat := 0
  residency : Residency := .sram
  /-- LX96 elements by position; an unlisted position is FINITE with N = 0. -/
  lx : List (Nat × Lx) := []
  /-- ARRIVE sums in FP32 or FP64, by position; empty before the first input (R47). -/
  fp : List (BitVec 64) := []
  /-- CANON64 nodes held (R45). -/
  nodes : List Node := []
  /-- I terms received, mod p (R104, R173). -/
  iIn : Nat := 0
  /-- The one contributor's payload of a PERMUTE or pass chain (R51, R197). -/
  raw : Option Bytes := none
  /-- Complete, checked and held at the root (R69). -/
  done : Bool := false
  /-- Time of the last add, and of completion (R283). -/
  addedAt : Nat := 0
  /-- Lines written by a running spill (R284). -/
  spilled : List Nat := []
deriving DecidableEq, Repr, Inhabited

/-- A layer generation of a serve traverse (R155-R158); `only` names the one receiving entry of a load (R392). -/
structure LayerJob where
  layer : Nat
  only : Option Nat := none
  /-- The chains have been read and sent; false while an APPLY on a region of the layer runs (R150). -/
  emitted : Bool := false
deriving DecidableEq, Repr, Inhabited

/-- A result chain found tainted on its way down, with the targets it went to (R110, R111). -/
structure LostChain where
  chain : Nat
  /-- Header of the chain's frames. -/
  header : BitVec 256
  targets : List Nat
deriving DecidableEq, Repr, Inhabited

/-- A generation that is open at this part (R60, R65), or that is ABORTING. -/
structure Gen where
  gen : BitVec 32 := 0
  phase : GenPhase := .open_
  /-- D once it is settled (R61, R70-R72). -/
  datum : Int := 0
  openedAt : Nat := 0
  /-- One entry per member entry, in member-table order. -/
  progress : List Progress := []
  /-- Greatest survey met, -32768 for none (R71, R72). -/
  survey : Int := -32768
  accs : List Acc := []
  /-- END has been sent up-tree, or received and passed down-tree. -/
  endSent : Bool := false
  record : Option AbortRec := none
  /-- Time the part began to wait for a verdict, or last asked for one (R113). -/
  waitAt : Nat := 0
  /-- Time the parent last sent a chain of a BROADCAST generation (R77). -/
  sourceAt : Nat := 0
  layer : Option LayerJob := none
  /-- A REGION source, or a PERMUTE source region, has been read (R196, R150). -/
  emitted : Bool := false
  lost : List LostChain := []
deriving DecidableEq, Repr, Inhabited

/-- A recorded verdict (R113): the outcome and its record; at COMPLETE also the fabric-wide survey (R72). -/
structure Verdict where
  gen : BitVec 32 := 0
  phase : GenPhase := .complete
  record : AbortRec := {}
  survey : Int := -32768
  /-- The generation's determinism has yielded, and is counted (R89, R393). -/
  yielded : Bool := false
deriving DecidableEq, Repr, Inhabited

/-- An ABORT_COMMON verdict of a BROADCAST generation that waits behind the generation's chains (R66). -/
structure OwedVerdict where
  traverse : Nat
  gen : BitVec 32
  record : AbortRec
  ports : List Nat
deriving DecidableEq, Repr, Inhabited

/-- A traverse that is not FREE (R54, R58, R59). -/
structure Traverse where
  state : TravState := .ready
  ctx : Ctx := {}
  /-- The older context and the FIRST_GEN of the newer one (R58). -/
  prev : Option (Ctx × BitVec 32) := none
  nextGen : BitVec 32 := 0
  oldestGen : BitVec 32 := 0
  version : BitVec 32 := 1
  aborted : BitVec 32 := 0
  completed : BitVec 32 := 0
  /-- Generations from OLDEST_GEN to NEXT_GEN - 1, lowest first. -/
  gens : List Gen := []
  /-- The 64 most recent verdicts, newest first (R113). -/
  verdicts : List Verdict := []
  /-- Surveys of completed generations, for CARRIED (R72). -/
  surveys : List (BitVec 32 × Int) := []
  /-- Layers waiting, with the one receiving entry of a load (R158, R392). -/
  queue : List (Nat × Option Nat) := []
  /-- Accumulators a COMPLETE generation left at the root, with its D: those NORM_READ may read (R154). -/
  kept : List (BitVec 32 × Int × Acc) := []
deriving DecidableEq, Repr, Inhabited

/-! ### Tallies (R81-R85) -/

/-- A tally that is not FREE (Table 3.10). -/
structure Tally where
  failedRound : Bool := false
  genMode : Bool := false
  parcel : Nat := 0
  uptree : Nat := 0xFF
  height : Nat := 0
  round : BitVec 32 := 0
  timeoutUs : Nat := 1
  traverse : Nat := 0
  window : Nat := 16
  suspectSet : Nat := 0
  suspectClear : Nat := 0
  timeouts : BitVec 32 := 0
  version : BitVec 32 := 1
  entries : List Member := []
  /-- Ports that have arrived in this round; COUNT is its length. -/
  arrived : List Nat := []
  /-- Time of the round's first arrival (R83). -/
  firstAt : Nat := 0
  /-- A TIMEOUT_REQ of this round has been sent (R83). -/
  requested : Bool := false
  /-- Port last to arrive, for the last WINDOW successful rounds, newest first (R85). -/
  lastArrivals : List Nat := []
  suspects : List Nat := []
  /-- Round, status and record of the last release (R113). -/
  released : Option (BitVec 32 × Nat × AbortRec) := none
  /-- Time the part sent its arrival up-tree, or last asked (R113). -/
  waitAt : Option Nat := none
deriving DecidableEq, Repr, Inhabited

/-! ### Chainage (05) -/

/-- A coordinate of chainage (R115). -/
structure Coord where
  step : Nat := 0
  layer : Nat := 0
  phase : Nat := 0
  sub : Nat := 0
deriving DecidableEq, Repr, Inhabited

/-- STATE of a stream, Table 5.2. -/
inductive StreamState where
  | off | unset | running | hold
deriving DecidableEq, Repr, Inhabited

/-- A chainage stream record (Table 5.2), with the timers of R120, R126 and R351. -/
structure Stream where
  state : StreamState := .unset
  ingressPort : Nat := 0xFF
  pin : Bool := false
  parcel : Nat := 0
  originPart : Nat := 0
  originPort : Nat := 0
  timeoutUs : Nat := 16777215
  coord : Coord := {}
  markNo : BitVec 32 := 0
  backRej : Nat := 0
  skipRej : Nat := 0
  srcRej : Nat := 0
  conflict : Nat := 0
  repeats : Nat := 0
  timeouts : Nat := 0
  version : BitVec 32 := 1
  relay : BitVec 128 := 0
  /-- Time of the last mark accepted under case 2 or 6 (R126). -/
  markAt : Nat := 0
  /-- Time of the last NACK (R120). -/
  nackAt : Option Nat := none
  /-- Up to 16 last intervals between accepted marks, in µs, newest first (R351). -/
  intervals : List Nat := []
  /-- A mark has been accepted since the stream was last UNSET (R351). -/
  marked : Bool := false
deriving DecidableEq, Repr, Inhabited

/-- A trigger block, Table 15.1. -/
structure Trigger where
  stream : Nat := 0
  periodic : Bool := false
  anyStep : Bool := false
  anyLayer : Bool := false
  anyPhase : Bool := false
  anySub : Bool := false
  coord : Coord := {}
deriving DecidableEq, Repr, Inhabited

/-- What an action does when it fires (Table 5.3). -/
inductive ActionKind where
  | plat (parcel index : Nat)
  | remap (traverse entry port : Nat) (firstGen : BitVec 32)
  | warmAdmit (traverse entry port : Nat) (firstGen : BitVec 32)
  | wake (parcel stream : Nat)
  | prefetch (traverse k : Nat) (backward : Bool) (layers : Nat)
  | audit (pool reclaim : Bool) (handle : Nat) (pair : Nat) (addr : Nat) (ring : Bool) (len : Nat)
  | handover (slot : Nat) (cmdSeq : Nat)
deriving DecidableEq, Repr, Inhabited

/-- A scheduled action (R123). -/
structure Action where
  ordinal : BitVec 32 := 0
  parcel : Nat := 0
  trigger : Trigger := {}
  kind : ActionKind
  version : BitVec 32 := 1
  /-- MARK_NO of the last mark on which its executing dies received the ordinal, since the stream was last UNSET (R125). -/
  last : Option (BitVec 32) := none
deriving DecidableEq, Repr

/-- An action of a mark that a timebase die has taken, not yet confirmed to both dies (R125). `issued` is false while only the standby has
taken the mark. -/
structure Fired where
  action : Action
  mark : Coord
  markNo : BitVec 32 := 0
  issued : Bool := true
deriving DecidableEq, Repr

/-! ### The ledger (06) -/

/-- A pending slot of a region (R141-R144). -/
structure Slot where
  gen : BitVec 32 := 0
  complete : Bool := false
  /-- SEED of the context the generation ran under (R144). -/
  seed : BitVec 64 := 0
  /-- Squared-norm partial of each ledger die (R143). -/
  norms : List (Nat × Lx) := []
  /-- Stripes lost with a failed pair (R386, R387). -/
  lostStripes : List Nat := []
  /-- The norm partial of a failed pair was lost (R387). -/
  lostNorm : Bool := false
deriving DecidableEq, Repr, Inhabited

/-- One poisoned unit: array code (0 W, 1 M, 2 V, 3 A, 4 G0, 5 G1), stripe, unit, copy (R380). -/
structure PoisonUnit where
  array : Nat
  stripe : Nat
  unit : Nat
  copy : Nat
deriving DecidableEq, Repr, Inhabited

/-- A contiguous extent of one array of a region on one stack (R130, R131): its line range as bytes. -/
structure Extent where
  array : Nat
  copy : Nat
  /-- Logical ledger index whose stripes it holds. -/
  logical : Nat
  pair : Nat
  base : Nat
  len : Nat
  /-- The one stripe it holds, where LEDGER_LOAD reserved it for a lost stripe (R137). -/
  stripe : Option Nat := none
deriving DecidableEq, Repr, Inhabited

/-- A ledger region (Table 6.1). -/
structure Region where
  serial : Nat := 1
  parcel : Nat := 0
  kind : Nat := 0
  int4 : Bool := false
  mirror : Bool := false
  nesterov : Bool := false
  gradValid : Bool := false
  base : Nat := 0
  gradTraverse : Nat := 0
  normSet : Nat := 0
  normD : Int := 0
  normF : Nat := 0
  accType : Nat := 0
  scatterD : Int := 0
  scatterF : Nat := 0
  tensor : BitVec 32 := 0
  elemFirst : Nat := 0
  count : Nat := 1
  gradElemFirst : Nat := 0
  layer : Nat := 0
  lastSrGen : BitVec 32 := 0
  beta1 : BitVec 32 := 0
  omb1 : BitVec 32 := 0
  beta2 : BitVec 32 := 0
  omb2 : BitVec 32 := 0
  eps : BitVec 32 := 0
  wd : BitVec 32 := 0
  applied : BitVec 32 := 0
  version : BitVec 32 := 1
  table : List (BitVec 16) := []
  extents : List Extent := []
  /-- Stripes loaded, as (array, stripe) (R137, R140). -/
  loaded : List (Nat × Nat) := []
  /-- Stripes lost on a failed pair, as (array, stripe) (R140, R386). -/
  lost : List (Nat × Nat) := []
  /-- STATE is LOST (R140, R383). -/
  isLost : Bool := false
  poison : List PoisonUnit := []
  slot0 : Option Slot := none
  slot1 : Option Slot := none
  /-- Parcels granted an easement (R160); GRANTS is its length. -/
  grantees : List Nat := []
  /-- SEQ of the command that holds the running mark (R139). -/
  running : Option Nat := none
  /-- An FP32 scatter region has received an add since its last save (R163). -/
  addedSinceSave : Bool := false
deriving DecidableEq, Repr, Inhabited

/-! ### Projection (07) -/

/-- STATE of a basis slot, Table 7.2. -/
inductive BasisState where
  | empty | loading | ready
deriving DecidableEq, Repr, Inhabited

/-- A basis slot (Table 7.2) with Q by rows and the constants of R172. -/
structure Basis where
  state : BasisState := .empty
  widthCode : Nat := 0
  rank : Nat := 0
  parcel : Nat := 0
  crc : BitVec 32 := 0
  version : BitVec 32 := 1
  sc : List Nat := []
  q : List Int := []
  z : List Nat := []
  y : List Nat := []
deriving DecidableEq, Repr, Inhabited

/-- A projection binding (Table 7.3). -/
structure Binding where
  valid : Bool := false
  prevValid : Bool := false
  slot : Nat := 0
  recon : Bool := false
  prevSlot : Nat := 0
  prevRecon : Bool := false
  firstGen : BitVec 32 := 0
  version : BitVec 32 := 1
deriving DecidableEq, Repr, Inhabited

/-! ### Parcels and mapping (08, 17) -/

/-- A plat (Table 17.11). -/
structure Plat where
  flows : BitVec 64 := 0
  ports : BitVec 128 := 0
  mirrorOk : Bool := false
  basisSlots : BitVec 8 := 0
  ledgerGb : Nat := 0
  regionQuota : Nat := 0
  actionQuota : Nat := 0
  grantQuota : Nat := 0
  consentKey : BitVec 768 := 0
deriving DecidableEq, Repr, Inhabited

/-- A bearing slot (Table 8.2). -/
structure Bearing where
  axis : Nat := 0
  minus : Bool := false
  spray : Bool := false
  peer : Nat := 0xFFFF
  weights : List Nat := [1, 1, 1, 1]
  ports : BitVec 128 := 0
  /-- Ports left out after an identity exchange with another part (R190). -/
  excluded : BitVec 128 := 0
deriving DecidableEq, Repr, Inhabited

/-- A phase plat (Table 8.1). -/
structure PhasePlat where
  bearings : List Bearing := []
  version : BitVec 32 := 1
  selects : BitVec 32 := 0
deriving DecidableEq, Repr, Inhabited

/-- A budget of a parcel for a die group, in ns, and the stream it is bound to (R349, R351). -/
structure Budget where
  ns : Nat
  stream : Option Nat := none
deriving DecidableEq, Repr, Inhabited

/-- A parcel (R369). -/
structure Parcel where
  version : BitVec 32 := 1
  plat : Plat := {}
  pairs : BitVec 64 := 0
  nondet : Nat := 0
  phases : List PhasePlat := [{}, {}, {}, {}]
  selected : Nat := 0
  /-- Budgets by die group (R349). -/
  budgets : List (Nat × Budget) := []
deriving DecidableEq, Repr, Inhabited

/-! ### Mailboxes and the field book (14) -/

/-- Who owns a pair (R299). -/
inductive Owner where
  | requester (endpoint id : Nat)
  | inBand (part port : Nat)
deriving DecidableEq, Repr, Inhabited

/-- A mailbox pair: the fields of Table 14.2, and the engine's own indices. -/
structure Pair where
  enable : Bool := false
  inBand : Bool := false
  cmdHead : BitVec 16 := 0
  parcel : Nat := 0xFFFF
  cmdBase : Nat := 0
  cmdSizeLog2 : Nat := 0
  cmpBase : Nat := 0
  cmpSizeLog2 : Nat := 0
  cmpTail : BitVec 16 := 0
  active : Bool := false
  ringError : Bool := false
  ibPart : Nat := 0
  ibPort : Nat := 0
  owner : Option Owner := none
  /-- Last CMD_TAIL and CMP_HEAD written (R309, R310). -/
  cmdTail : BitVec 16 := 0
  cmpHead : BitVec 16 := 0
  /-- LOSS is set in the next entry (R311). -/
  loss : Bool := false
deriving DecidableEq, Repr, Inhabited

/-- What a running command still has to do when its effect ends (R304). -/
inductive Ending where
  | plain
  | ledgerLoad (handle array first stripes crc : Nat) (zero : Bool) (data : Bytes) (busOk : Bool)
  | ledgerSave (handle array first stripes pair addr : Nat) (data : Bytes) (busOk : Bool)
  /-- `before` lists the generations that opened before the acceptance and still read the region, as (traverse, generation) (R150). -/
  | apply (handle : Nat) (gen srGen clip lr c1 c2 : BitVec 32) (before : List (Nat × BitVec 32))
  | basisLoad (slot widthCode rank crc : Nat) (data : Bytes) (busOk : Bool)
  | fwStage (slot crc : Nat) (data : Bytes) (busOk : Bool)
  | poolAudit
  | ledgerAudit (handle : Nat)
deriving DecidableEq, Repr, Inhabited

/-- The command is an APPLY that updates its region. -/
def Ending.isApply : Ending → Bool
  | .apply .. => true
  | _ => false

/-- A command that is accepted and not yet complete (R304, R309). -/
structure Running where
  seq : Nat
  pair : Nat
  index : BitVec 16
  opcode : Nat
  parcel : Nat
  tag : BitVec 64
  version : BitVec 32
  acceptedAt : Nat
  status : Nat := 0
  result : Nat := 0
  ending : Ending := .plain
  /-- The effect has ended and only the completion is missing (audits, R294, R384). -/
  ready : Bool := true
  /-- The pair has been enabled anew since the acceptance: no completion entry is written (R309). -/
  lost : Bool := false
deriving DecidableEq, Repr, Inhabited

/-- A field-book entry (Table 14.8). -/
structure FbEntry where
  seq : Nat := 0
  kind : Nat := 1
  code : Nat := 0
  status : Nat := 0xFF
  objKind : Nat := 0
  object : Nat := 0
  versionAfter : Nat := 0
  parcel : Nat := 0xFFFF
  auxParcel : Nat := 0xFFFF
  pair : Nat := 0xFF
  transport : Nat := 3
  requester : Nat := 0
  srcPort : Nat := 0
  fwInstance : Nat := 0
  hash : Nat := 0
  acceptTick : Nat := 0
  doneUs : Nat := 0
  body : Nat := 0
  bufHead : Nat := 0
deriving DecidableEq, Repr, Inhabited

/-- The field book: both copies hold the same entries but for those a copy has lost (R314, R316). -/
structure FieldBook where
  next : Nat := 1
  oldest : Nat := 1
  entries : List FbEntry := []
  /-- SEQs whose line does not decode in the first or second copy (R316). -/
  bad0 : List Nat := []
  bad1 : List Nat := []
  copy0 : Bool := false
  copy1 : Bool := false
deriving DecidableEq, Repr, Inhabited

/-- MD: the mailbox engine and its rings (R297-R313). -/
structure Mailbox where
  pairs : List Pair := []
  /-- Requester IDs registered, oldest first, at most 16 (R299). -/
  requesters : List (Nat × Nat) := []
  ring : List Host.Cell := []
  running : List Running := []
  /-- Last pair served (R307). -/
  lastServed : Nat := 63
  /-- Last access of pair 0's owner to BAR0 or ring memory, and the abandoned mark (R301). -/
  pair0At : Nat := 0
  pair0Abandoned : Bool := false
  /-- Port on which the last frame accepted from the in-band source arrived (R313). -/
  inBandPort : Option Nat := none
  /-- MD is failed (R389). -/
  failed : Bool := false
  /-- Time of the last MD restart (R362). -/
  restarts : List Nat := []
  /-- Links of MP0 and MP1: PERST_N asserted, training or up (R341). -/
  perst : List Bool := [false, false]
  linked : List Bool := [false, false]
  /-- Input buffers that came with in-band commands: (pair, index) and the bytes (R312). -/
  inBuffers : List ((Nat × Nat) × Bytes) := []
  /-- SEQ counters of the flows MD sends on VC7: (FLOW, destination part, destination port) (R218). -/
  seqs : List ((Nat × Nat × Nat) × (BitVec 24 × Nat)) := []
deriving DecidableEq, Repr, Inhabited

/-! ### Frames inside the part (04, 09, 10, 13) -/

/-- A frame a die has received: the crossbar port it entered the part by, the frame record it still holds a reference
of, and whether its sequencing die handed it over (R218). -/
structure Rx where
  frame : Frame
  port : Nat
  record : Option Nat := none
  handed : Bool := false
deriving DecidableEq, Repr

/-- A frame held by a resequencer: its SEQ, arrival time and the frame (R106, R107). -/
structure Held where
  seq : BitVec 24
  at_ : Nat
  rx : Rx
deriving DecidableEq, Repr

/-- A resequencer's flow (R106): x is none while the flow is unsynchronised. -/
structure Flow where
  srcPart : Nat
  srcPort : Nat
  flow : Nat
  x : Option (BitVec 24) := none
  /-- h0, the number of the first frame held while unsynchronised. -/
  h0 : BitVec 24 := 0
  held : List Held := []
  /-- Time of the flow's last frame. -/
  lastAt : Nat := 0
  /-- Time until which the flow last had a hole or a held frame (R106). -/
  busyAt : Nat := 0
deriving DecidableEq, Repr

/-- A resequencer with the frames that have reached it and those it has delivered, oldest first. -/
structure Reseq where
  flows : List Flow := []
  arrivals : List Rx := []
  inbox : List Rx := []
deriving DecidableEq, Repr

/-- A frame in the staging of a crossbar input (R203): its targets, and how far its cells have moved. -/
structure Staged where
  vc : Nat
  frame : Frame
  /-- Crossbar port by which the frame entered the part. -/
  port : Nat
  handed : Bool := false
  targets : List Nat
  mirror : Option Nat := none
  /-- The session that takes the mirror copy (R214). -/
  session : Nat := 0
  cells : Nat
  /-- Frame record, once the frame holds its cells (R289). -/
  record : Option Nat := none
  written : Nat := 0
deriving DecidableEq, Repr

/-- A frame record of the cell pool (R287). -/
structure FrameRec where
  id : Nat
  /-- Allocations made before this one since reset: which frame the record describes (R294, R296; model). -/
  no : Nat := 0
  frame : Frame
  port : Nat
  handed : Bool := false
  runs : List (Nat × Nat) := []
  fallback : Option Nat := none
  cells : Nat
  written : Nat := 0
  ref : Nat
  epoch : Nat
  ordered : Bool
  taint : Bool := false
  allocAt : Nat
  /-- An XBAR_ERR has been counted for the frame (R209). -/
  errCounted : Bool := false
deriving DecidableEq, Repr

/-- A descriptor on an output queue (R210, R244). -/
structure Desc where
  record : Nat
  at_ : Nat
  mirror : Bool := false
deriving DecidableEq, Repr

/-- An output queue that holds descriptors or has a deficit (R226, R242). -/
structure Queue where
  descs : List Desc := []
  deficit : Int := 0
deriving DecidableEq, Repr

/-- The copy an output is sending (R208, R209). -/
structure Sending where
  queue : Nat
  desc : Desc
  stub : Bool
  taint : Bool
  /-- CM, CE, EPOCH as the output set them. -/
  header : BitVec 256
deriving DecidableEq, Repr

/-- An output of the crossbar: what it sends and the state of its arbitration (R240-R242). -/
structure Output where
  sending : Option Sending := none
  vdef : List Int := [0, 0, 0, 0, 0, 0, 0]
  vcTurn : Nat := 1
  /-- Last queue served of each VC at the flow level. -/
  flowTurn : List Nat := [0, 0, 0, 0, 0, 0, 0, 0]
  /-- VC0 policer: bytes available and the time they were counted (R240). -/
  police : Nat := 8192
  policeAt : Nat := 0
deriving DecidableEq, Repr

/-- An input of the crossbar: staging and the scheduler's pointers for it (R203, R204, R234, R240). -/
structure Input where
  staging : List Staged := []
  accept : Nat := 0
  /-- Rotating spray pointer of each VC (R234). -/
  spray : List Nat := [0, 0, 0, 0, 0, 0, 0, 0]
  /-- VC last accepted for an output (R240). -/
  lastVc : List (Nat × Nat) := []
  /-- Cell slot for which the input last counted an ALLOC_STALL (R289). -/
  stalledAt : Option Nat := none
deriving DecidableEq, Repr

/-- Result of the last pool audit, for the next one (R296): orphans with their REF and no reference found, leaked cells, time. -/
structure LastAudit where
  /-- By the serial number of their allocation. -/
  orphans : List (Nat × Nat) := []
  /-- Leaked runs of cells (first, count). -/
  leaked : List (Nat × Nat) := []
  at_ : Nat := 0
deriving DecidableEq, Repr

/-- A ledger audit that runs (R384). -/
structure LedgerWalk where
  handle : Nat
  startedAt : Nat
  seq : Option Nat
  pair : Nat
  addr : Nat
  ring : Bool
  busOk : Bool
deriving DecidableEq, Repr

/-- A pool audit that runs (R294). -/
structure PoolWalk where
  startedAt : Nat
  /-- Allocations made when the walk began: it ignores later ones. -/
  before : Nat := 0
  reclaim : Bool
  seq : Option Nat
  pair : Nat
  addr : Nat
  ring : Bool
  busOk : Bool
deriving DecidableEq, Repr

/-- The crossbar dies: pool, queues, scheduler (09, 10, 13). -/
structure Xbar where
  /-- Failed crossbar dies (R200). -/
  failed : List Nat := []
  /-- Forwarding is stopped until reset (R200, R21). -/
  stopped : Bool := false
  inputs : List (Nat × Input) := []
  outputs : List (Nat × Output) := []
  queues : List (Nat × Queue) := []
  /-- Grant pointers g[o] (R204). -/
  grants : List (Nat × Nat) := []
  records : List FrameRec := []
  /-- Allocations made since reset (model). -/
  allocCount : Nat := 0
  /-- Free runs (first, length) of the string area by partition (R288). -/
  free : List (List (Nat × Nat)) := [[(0, 506880)], [(506880, 506880)], [(1013760, 506880)], [(1520640, 506880)]]
  /-- Search pointers ptr[k][cp] moved from the partition's first cell (R288). -/
  ptrs : List ((Nat × Nat) × Nat) := []
  /-- Fallback buffers in use (R288). -/
  fallbackUsed : List Nat := []
  /-- Cells freed in this cell slot, free at its end (R291). -/
  freeing : List (List (Nat × Nat) × Option Nat) := []
  /-- Buffer thresholds T(o) as last recomputed; 4,096 where unlisted (R235). -/
  thresholds : List (Nat × Nat) := []
  thresholdsAt : Nat := 0
  /-- Cell slots run, for the capacities of Table 9.1 that are not whole cells a slot (R202). -/
  slots : Nat := 0
  audits : BitVec 32 := 0
  orphans : Nat := 0
  leakCells : Nat := 0
  reclaimed : Nat := 0
  lastAudit : Option LastAudit := none
  walk : Option PoolWalk := none
  /-- RESULT frames awaiting their lookup, as (arrival port, frame) (R224, log 12). -/
  lookup : List Rx := []
  /-- Ports not yet in source-flow choice, with the queued descriptors they wait for (R234). -/
  joining : List (Nat × List (Nat × Desc)) := []
deriving DecidableEq, Repr

/-- A destination-table entry (Table 9.6). -/
structure DestEntry where
  valid : Bool := false
  mcast : Bool := false
  epoch : Nat := 0
  parcel : Nat := 0
  ports : BitVec 128 := 0
  internal : BitVec 31 := 0
deriving DecidableEq, Repr, Inhabited

/-- The destination table and the epochs (R221-R224, R245, R246, R396). -/
structure Routes where
  current : List (Nat × DestEntry) := []
  previous : List (Nat × DestEntry) := []
  staged : List (Nat × DestEntry) := []
  version : BitVec 32 := 1
  epoch : Nat := 0
  /-- In-flight counts of the current and the previous epoch: ORDERED and OTHER (R222). -/
  ordered : Nat := 0
  other : Nat := 0
  prevOrdered : Nat := 0
  prevOther : Nat := 0
  /-- A ROUTE_COMMIT has been accepted since reset (R343). -/
  committed : Bool := false
  /-- The part's number (R396). -/
  number : Nat := 0xFFFF
deriving DecidableEq, Repr

/-- A mirror session (Table 9.3). -/
structure Mirror where
  valid : Bool := false
  match_ : Nat := 0
  port : Nat := 0
  parcel : Nat := 0
  srcPart : Nat := 0
  srcPort : Nat := 0
  flow : Nat := 0
  copies : BitVec 32 := 0
  drops : BitVec 32 := 0
  version : BitVec 32 := 1
deriving DecidableEq, Repr, Inhabited

/-- Mirroring and telemetry settings of the part (R214, R225). -/
structure Monitor where
  sessions : List Mirror := []
  analysisPort : Nat := 0xFF
  limit : Nat := 65536
  collectorPart : Nat := 0
  collectorPort : Nat := 0
  periodUs : Nat := 0
  version : BitVec 32 := 1
  lastAt : Nat := 0
deriving DecidableEq, Repr, Inhabited

/-! ### Ports (10, 11) -/

/-- STATE of a port, Table 11.5. -/
inductive PortState where
  | off | idle | training | up
deriving DecidableEq, Repr, Inhabited

/-- Bring-up of a port and its record (Tables 11.3, 11.5). -/
structure Port where
  state : PortState := .off
  step : Nat := 0
  ckReversed : Bool := false
  polarity : BitVec 8 := 0
  laneMap : BitVec 24 := 0
  lastFail : Nat := 0
  failStep : Nat := 0
  neighbour : BitVec 192 := 0
  upTime : BitVec 64 := 0
  /-- Held in electrical idle until reset (R362). -/
  heldIdle : Bool := false
  /-- Time the step was entered. -/
  stepAt : Nat := 0
  /-- CK window at physical position 0 rather than 8 (step 2). -/
  ckAtZero : Bool := false
  /-- Per data position: run of blocks with the marker true or complemented (step 4). -/
  markRuns : List (Option Bool × Nat) := List.replicate 8 (none, 0)
  /-- Per data position: LANE and its run (step 5). -/
  laneRuns : List (Nat × Nat) := List.replicate 8 (0, 0)
  /-- Last training record, and whether two consecutive rows carried it (R256). -/
  lastIdent : Option (BitVec 192) := none
  nonce : BitVec 32 := 0
  peerNonce : BitVec 32 := 0
  /-- FINAL is set in the rows sent, and how many such rows have gone (R256). -/
  finalSent : Bool := false
  finalRows : Nat := 0
  /-- TRC of the next training row sent (R249). -/
  trc : Nat := 0
  /-- Per data position: run of blocks with a wrong SYNC or LANE (R258). -/
  badRuns : List Nat := List.replicate 8 0
  gotRow : Bool := false
  /-- Lanes with LOS and lanes out of lock, by physical position (R258). -/
  los : BitVec 9 := 0
  lol : BitVec 9 := 0
  /-- Time of the last LOS, loss-of-lock or LCW_ERR event, or of the entry to UP (R391). -/
  cleanSince : Nat := 0
  /-- Time of the last LOS of a data position in step 3. -/
  losAt : Nat := 0
deriving DecidableEq, Repr

/-- Credits, rate and link control of a port (R230-R239, R251-R252, R257). -/
structure Link where
  /-- U[v] of R230, held as cells sent since credit initialisation and the last CREDIT_TOTAL received. -/
  sentCells : List Nat := List.replicate 8 0
  creditIn : List Nat := List.replicate 8 0
  /-- Cells returned since credit initialisation: the CREDIT_TOTAL this side sends. -/
  creditOut : List Nat := List.replicate 8 0
  /-- Cells that have left staging and whose credits a limit still holds back (R232, R239). -/
  owed : List Nat := List.replicate 8 0
  /-- First cell slot in which the next held credit of each VC may be returned. -/
  returnAt : List Nat := List.replicate 8 0
  /-- This side sends CINIT until CACK arrives (R252). -/
  cinit : Bool := false
  /-- This side sends CACK for so many more rows. -/
  cackRows : Nat := 0
  /-- Frames are discarded, uncounted, until CACK arrives (R232). -/
  awaitAck : Bool := false
  rate : Nat := 64
  bucket : Nat := 8704
  bucketAt : Nat := 0
  decreasedAt : Option Nat := none
  echoAt : Nat := 0
  /-- A CE or echo bit is owed on this port, since the time given (R237). -/
  echoOwed : Option Nat := none
  /-- Consecutive discarded link control words (R259). -/
  badWords : Nat := 0
  /-- Time the neighbour last returned VC2 credits (R77). -/
  vc2At : Nat := 0
  /-- Identity slices assembled, and the last whole assembly (R257). -/
  slices : List (Nat × Nat) := []
  sliceRun : Nat := 0
  lastAssembly : Option (BitVec 192) := none
  /-- Time of a valid GOING_IDLE (R259). -/
  goingIdleAt : Option Nat := none
  /-- Bytes received and not yet framed, and the scrambler of each lane (R250). -/
  rx : Bytes := []
  rxScr : List Nat := List.replicate 8 0
  /-- The receiver skips bytes until the next header, and has counted the run (R399). -/
  skipping : Bool := false
  /-- The frame at the front of `rx` began before credit initialisation was acknowledged (R232). -/
  rxVoid : Bool := false
  /-- Bytes of frames waiting for a row, the scramblers of the sender, its data row count and the row last sent (R249-R251). -/
  tx : Bytes := []
  txScr : List Nat := List.replicate 8 0
  rowCnt : Nat := 0
  rowOut : List (BitVec 272) := []
  /-- Rows still to send with GOING_IDLE (R259). -/
  goingIdleRows : Nat := 0
deriving DecidableEq, Repr

/-! ### Ledger dies and stacks (12, 18) -/

/-- A map-out copy of a stack: none runs, or one to the homes that the pseudo-channels of a set need, since a time (R274). -/
inductive MapOut where
  | idle | copying (set : List Nat) (since : Nat)
deriving DecidableEq, Repr, Inhabited

/-- An HBM4 stack and its controller (R263-R274). -/
structure Hbm where
  mem : List Host.Cell := []
  /-- Line runs (first, count) of allocatable space not yet zeroed (R372), lowest first. -/
  unzeroed : List (Nat × Nat) := []
  /-- Declared pseudo-channels, oldest first (R271). -/
  declared : List Nat := []
  /-- Pseudo-channels already in the map in force (R274). -/
  mapped : List Nat := []
  mapout : MapOut := .idle
  /-- Pseudo-channels found failing whose declaration has yet to be made, with its cause (R271, log 94). -/
  failing : List (Nat × Nat) := []
  /-- Pseudo-channels that have stopped answering (R271). -/
  deaf : List Nat := []
  /-- Symbols that read wrong, as ((line, symbol), difference), and sectors that on-die ECC reports uncorrectable (R266, R268). -/
  errors : List ((Nat × Nat) × Nat) := []
  badSectors : List Nat := []
  /-- The check cache: check lines by number in the check area, most recent first, with whether each is dirty (R267). -/
  checks : List (Nat × Bool) := []
  /-- Uncorrectable codewords (pseudo-channel, time) and corrected symbols (pseudo-channel, time, count) (R271). -/
  ueLog : List (Nat × Nat) := []
  ceLog : List (Nat × Nat × Nat) := []
  /-- Next line of the patrol scrub (R268). -/
  scrub : Nat := 0
  /-- Lines of spilled accumulators (R283). -/
  spillLines : List Nat := []
  /-- Hardware throttle: the controller halves HBM bandwidth (Table 16.9). -/
  throttled : Bool := false
  silent : Bool := false
deriving DecidableEq, Repr

/-- State of an SRAM bank, Table 12.7. -/
inductive BankState where
  | on | retention | off
deriving DecidableEq, Repr, Inhabited

/-- A ledger die (R15, R106, R178-R187, R279-R282). -/
structure LedgerDie where
  failed : Bool := false
  reseq : Reseq := {}
  /-- Times of the sequencer's watchdog expiries in the last second (R362). -/
  expiries : List Nat := []
  /-- SRAM banks that are not ON (R282). -/
  banks : List (Nat × BankState) := []
  /-- Bytes of SRAM known beside what the layout of the basis slots gives, as (address, byte): what DBG_MEM wrote (R279, R376). -/
  sram : List (Nat × Byte) := []
  /-- Bytes of the basis store, by their place in the slot, that the stationary load put into the arrays and that differ from the slot's (R182). -/
  cells : List (Nat × Byte) := []
  /-- Spare columns in use of array a of core c at index 4c + a; 3 for a failed array (Table 7.5). -/
  spares : List Nat := List.replicate 32 0
  softRepairs : Nat := 0
  projClosure : Nat := 0
  /-- Slots whose copy in this die's basis store is lost (Table 18.2). -/
  lostSlots : List Nat := []
  /-- A self-test is owed before the next projection (R186). -/
  selfTestOwed : Bool := false
  activeBasis : Option Nat := none
  /-- SEQ counters of the die's own flows: (FLOW, destination part, sequencing index) (R219). -/
  seqs : List ((Nat × Nat × Nat) × (BitVec 24 × Nat)) := []
deriving DecidableEq, Repr

/-- A lane chiplet's own state (R220, R362). -/
structure LaneChiplet where
  egress : Reseq := {}
  expiries : List Nat := []
deriving DecidableEq, Repr

/-- The active die's replica of one stream, on the ring to the standby (R122). -/
structure RingSync where
  stream : Nat
  replica : Stream
deriving DecidableEq, Repr

/-- A timebase die (R20, R115, R122, R362). -/
structure Timebase where
  stopped : Bool := false
  streams : List Stream := []
  /-- Marks on the timebase ring not yet taken: (arrival port, frame). -/
  marks : List Rx := []
  expiries : List Nat := []
deriving DecidableEq, Repr

/-! ### Power, supplies, reset (16) -/

/-- Power states, Table 16.6. -/
inductive PState where
  | l0 | l1 | l2 | l3
deriving DecidableEq, Repr, Inhabited

/-- A die group (Tables 1.8, 16.6). -/
structure Group where
  state : PState := .l0
  /-- State being entered, and when the entry began. -/
  entering : Option (PState × Nat) := none
  /-- State being left, and when the exit began. -/
  exiting : Option (PState × Nat) := none
  /-- Time of the last work or the last exit, whichever is later (R346). -/
  workAt : Nat := 0
  /-- Ceiling in tenths of the group's full ceiling (R353). -/
  ceiling : Nat := 10
  ceilingAt : Nat := 0
  /-- Injection from the group's ports, and the tally issue rate, are throttled (R24). -/
  throttled : Bool := false
  issueThrottled : Bool := false
deriving DecidableEq, Repr, Inhabited

/-- A supply rail as the comparators have seen it (R332-R334): crossings so far, and when. -/
structure Rail where
  above10 : Bool := true
  above90 : Bool := true
  inTol : Bool := true
  at10 : Nat := 0
  at90 : Nat := 0
deriving DecidableEq, Repr, Inhabited

/-- KIND of a supply fault, Table 16.2. -/
inductive SupplyKind where
  | none | order | separation | rampSlow | undervolt | overvolt | downOrder
deriving DecidableEq, Repr, Inhabited

/-- The supply record (Table 16.2). -/
structure SupplyRec where
  kind : SupplyKind := .none
  rail : Nat := 0
  stage : Nat := 0
  runtime : Bool := false
  aonTicks : Nat := 0
  faults : Nat := 0
deriving DecidableEq, Repr, Inhabited

/-- Supplies, RESET_N and temperature (16). -/
structure Supply where
  rails : List Rail := List.replicate 47 {}
  record : SupplyRec := {}
  /-- SUPPLY_FAULT is in force, with its KIND (R334, R336). -/
  fault : SupplyKind := .none
  /-- Time VDD_AON reached 90% (Table 16.2). -/
  aonAt : Nat := 0
  /-- All rails have been in tolerance since; none while one is not (R336, R339). -/
  goodSince : Option Nat := some 0
  started : Bool := true
  /-- Level of RESET_N. -/
  resetN : Bool := true
  /-- Time RESET_N fell. -/
  lowAt : Nat := 0
  /-- A release is held back (R339). -/
  held : Bool := true
  /-- The part is in reset (R337, R338). -/
  inReset : Bool := true
  resetCount : BitVec 32 := 0
  /-- Time of the last release that took effect: the telemetry counter's zero (R22). -/
  releasedAt : Nat := 0
  thermtrip : Bool := false
  faultN : Bool := false
  /-- Dies at or above their loop threshold, with the reading; dies in hardware throttle (R353). -/
  celsius : List (Nat × Int) := []
  hotDies : List Nat := []
  /-- Time of the power loop's last run (R353), and its readings of the last 1 ms, newest first (R24). -/
  loopAt : Nat := 0
  powerLog : List (List Nat) := []
deriving DecidableEq, Repr

/-- REFCLK inputs and the active timebase die (R20, R21). -/
structure Refclk where
  present : List Bool := [true, true]
  validSince : List Nat := [0, 0]
  inUse : Nat := 0
  active : Nat := 0
deriving DecidableEq, Repr

/-! ### Trust, boot and debug (17) -/

/-- An entry of the instruction register of the test access port, Table 17.12. -/
inductive Tap where
  | extest | samplePreload | idcode | clamp | highz | supplyRec | tdState | bootLog | monumentRead | attest
  | lcTransition | dbgTrace | dbgMem | dbgCtrl | bypass
deriving DecidableEq, Repr, Inhabited

/-- Lifecycle states, Table 17.1. -/
inductive Lifecycle where
  | blank | provisioned | deployed | returned
deriving DecidableEq, Repr, Inhabited

/-- Debug levels, Table 17.13. -/
inductive DebugLevel where
  | none | telemetry | parcel | full
deriving DecidableEq, Repr, Inhabited

/-- The trust die: fuses, secure store, flash, test access port (R356-R376). -/
structure Trust where
  serial : BitVec 64 := 0
  stepping : BitVec 8 := 0
  /-- Kingoari's JEP106 code in IDCODE (R373). -/
  jep106 : BitVec 11 := 0
  /-- Ledger pairs fused off (R3). -/
  disabledPairs : BitVec 30 := 0
  vendorDigest : List Nat := [0, 0, 0, 0]
  vendorRevoke : BitVec 4 := 0
  ownerDigest : Option Nat := none
  svCount : Nat := 0
  /-- Lifecycle as fused, and as in effect since the last release (R356). -/
  fusedLifecycle : Lifecycle := .blank
  lifecycle : Lifecycle := .blank
  wipeDone : Bool := false
  /-- An erase has begun and is not finished (R356). -/
  wiping : Bool := false
  identityKey : Option Nat := none
  monument : Bytes := []
  monumentDigest : Option Nat := none
  lcErr : Nat := 0
  wdogMgmt : Nat := 0
  wdogSeq : Nat := 0
  wdogLane : Nat := 0
  wdogTb : Nat := 0
  deadman : Bool := false
  refclkLost : Bool := false
  ir : Tap := .idcode
  /-- What the selected register last gave at TDO. -/
  tdo : Nat := 0
  tdoBits : Nat := 0
deriving DecidableEq, Repr

/-- The boundary-scan register and what drives the pins (R373). -/
structure Scan where
  latch : List Bool := []
  captured : List Bool := []
  driven : Bool := false
  floating : Bool := false
deriving DecidableEq, Repr

/-- The debug session (R374, R375) and halted processors (R376), as (die identifier, processor). -/
structure Debug where
  level : DebugLevel := .none
  subject : Nat := 0xFFFF
  subjectVersion : BitVec 32 := 0
  notAfter : Nat := 0
  halted : List (Nat × Nat) := []
  /-- Registers written by DBG_CTRL: ((die identifier, processor), register, value). -/
  regs : List ((Nat × Nat) × Nat × Nat) := []
deriving DecidableEq, Repr

/-- STAGE of BOOT_STATUS, Table 14.2. -/
inductive Stage where
  | reset | rom | verify | fwStart | ready | failed | mdRestart
deriving DecidableEq, Repr, Inhabited

/-- Flash and boot (R359-R361, R364). A slot holds the image bytes, header first. -/
structure Boot where
  stage : Stage := .reset
  /-- Slot running: false A, true B. -/
  slotB : Bool := false
  failCode : Nat := 0
  fwInstance : BitVec 32 := 0
  slotA_image : Bytes := []
  slotB_image : Bytes := []
  /-- Slot-state records, copy 0 and copy 1 (R359). -/
  state0 : BitVec 128 := 0
  state1 : BitVec 128 := 0
  /-- Codes of BOOT_LOG (R361). -/
  codeA : Nat := 0xFF
  codeB : Nat := 0xFF
  preferredB : Bool := false
  bootMs : Nat := 0
  /-- SHA-384 digest of the running image, as verified. -/
  digest : Nat := 0
  /-- Object versions of slots A and B (R306). -/
  versionA : BitVec 32 := 1
  versionB : BitVec 32 := 1
  /-- Verified copy of the staged image on the journal pairs (R364). -/
  verified : Bytes := []
  /-- A hand-over runs since (R366), with CMD_SEQ, the benchmark and the staged slot. -/
  handover : Option (Nat × Nat × Coord × Nat) := none
  /-- Header of the hand-over record (Table 17.9). -/
  handoverRecord : BitVec 512 := 0
  /-- A watchdog expired during the hand-over on this die: it can only roll back (R368). -/
  rollbackDie : Option Nat := none
  /-- Events queued during a hand-over (R366). -/
  queuedEvents : List (Nat × Nat × Nat × Nat) := []
deriving DecidableEq, Repr

/-- Pairs and dies as the last reset found them (R17, R388, R202). -/
structure Placement where
  /-- Usable pairs: enabled and passing the reset test, in increasing number. -/
  usable : List Nat := []
  journal0 : Nat := 0
  journal1 : Nat := 1
deriving DecidableEq, Repr

/-- A frame that left the part on an external port, as sent (model, log 7). -/
structure Sent where
  port : Nat
  frame : Frame
deriving DecidableEq, Repr

/-- Bytes written to host memory through the endpoint of a pair's owner (model, log 7). -/
structure HostWrite where
  pair : Nat
  addr : Nat
  bytes : Bytes
deriving DecidableEq, Repr

/-- The state of the block. -/
structure State where
  /-- Commands waiting, first in, first out. -/
  pending : List Instr := []
  /-- The model's clock in ns (model, log 2). -/
  clock : Nat := 0
  /-- How many free values have been drawn (model, log 6; DESIGN CHOICE 0). -/
  freeCount : Nat := 0
  sent : List Sent := []
  hostOut : List HostWrite := []
  trust : Trust := {}
  scan : Scan := {}
  dbg : Debug := {}
  /-- Known bytes of ledger-die SRAM, of stacks' system areas and of cells that no record of the state stands for: ((die identifier, address),
  byte). -/
  pokes : List ((Nat × Nat) × Byte) := []
  boot : Boot := {}
  supply : Supply := {}
  refclk : Refclk := {}
  groups : List Group := List.replicate 20 {}
  placement : Placement := {}
  mailbox : Mailbox := {}
  book : FieldBook := {}
  parcels : List (Nat × Parcel) := []
  traverses : List (Nat × Traverse) := []
  /-- Verdicts that wait behind their chains (R66). -/
  owedVerdicts : List OwedVerdict := []
  tallies : List (Nat × Tally) := []
  regions : List (Nat × Region) := []
  /-- Ledger audits that run, oldest first (R384). -/
  ledgerWalks : List LedgerWalk := []
  /-- Serial each region slot took last (R129). -/
  serials : List (Nat × Nat) := []
  bases : List Basis := List.replicate 8 {}
  bindings : List (Nat × Binding) := []
  actions : List Action := []
  fired : List Fired := []
  ringSync : List RingSync := []
  timebases : List Timebase := []
  routes : Routes := {}
  monitor : Monitor := {}
  ports : List Port := List.replicate 128 {}
  links : List Link := List.replicate 128 {}
  chiplets : List LaneChiplet := List.replicate 32 {}
  xbar : Xbar := {}
  dies : List LedgerDie := List.replicate 30 {}
  hbmStacks : List Hbm := List.replicate 30 {}
  /-- MD's ingress resequencer (Table 9.5). -/
  mdReseq : Reseq := {}
  /-- Counters of Table 15.10, as ((number, instance), value); an unlisted counter is 0 (R330). -/
  counters : List ((Nat × Nat) × Nat) := []
deriving DecidableEq, Repr

/-- Parcel 0 as it exists from reset (R369): pairs 0, 1 and 63, every flow and port, no quotas, and 200 ns for every
die group (R349). -/
def parcelZero : Parcel :=
  { pairs := BitVec.ofNat 64 (2 ^ 63 + 3)
    plat := { flows := BitVec.allOnes 64, ports := BitVec.allOnes 128, mirrorOk := true, basisSlots := BitVec.allOnes 8,
              ledgerGb := 0xFFFFFFFF, regionQuota := 65535, actionQuota := 8192, grantQuota := 4096 }
    budgets := (List.range 20).map fun g => (g, { ns := 200 }) }

/-- The 64 mailbox pairs at reset: pairs 0, 1 and 63 granted to parcel 0 (Table 14.2). -/
def resetPairs : List Pair :=
  (List.range 64).map fun n => if n = 0 ∨ n = 1 ∨ n = 63 then { parcel := 0 } else {}

/-- The machine right after reset: RESET_N is released and its release has not yet taken effect (R339); every object is
gone (R337), and the first step of a start is RESET_RELEASE_EFFECTIVE (log 8). -/
def State.reset : State :=
  { mailbox := { pairs := resetPairs }
    parcels := [(0, parcelZero)]
    timebases := List.replicate 2 { streams := List.replicate 64 {} }
    monitor := { sessions := List.replicate 15 {} } }

end Sys2Proof.Machine
end

