-- ==== Sys2Proof/Machine/Lx96.lean ====
section
/-! DEFINITION. The arithmetic of reductions (02_number_formats.md): LX96 values (R34-R38), closure (R40, R41, R46),
packed LX (R42, R43), CANON64 (R44, R45) and ARRIVE (R47). -/
namespace Sys2Proof.Machine

/-! ### LX96 -/

/-- An LX96 value from a signed integer. -/
def Lx.ofInt (n : Int) : Lx := { n := BitVec.ofInt 96 n }

/-- Class of a sum (R36, Table 2.4). -/
def Cls.join : Cls → Cls → Cls
  | .finite, b => b
  | a, .finite => a
  | .posInf, .posInf => .posInf
  | .negInf, .negInf => .negInf
  | _, _ => .nan

/-- Sum of two LX96 values (R36). -/
def Lx.add (a b : Lx) : Lx := { n := a.n + b.n, cls := a.cls.join b.cls }

/-- Sum where overflow can arise: an exact N outside 96 bits gives N = 0 and the infinity of its sign (R37). -/
def Lx.sumWide (xs : List Lx) : Lx :=
  let n := xs.foldl (fun acc x => acc + x.n.toInt) (0 : Int)
  let c := xs.foldl (fun acc x => acc.join x.cls) Cls.finite
  if -(2 ^ 95 : Int) ≤ n ∧ n < (2 ^ 95 : Int) then { n := BitVec.ofInt 96 n, cls := c }
  else { n := 0, cls := c.join (if n < 0 then .negInf else .posInf) }

/-- Conversion of a contribution at datum `d` and floor `f` (R35). -/
def Lx.ofNum (d : Int) (f : Nat) : Num → Lx
  | .nan => { cls := .nan }
  | .inf neg => { cls := if neg then .negInf else .posInf }
  | .fin neg m e =>
    if m = 0 then {}
    else
      let k := e - (d - 62)
      let big : Lx := { cls := if neg then .negInf else .posInf }
      if (f : Int) ≤ k then
        if (bitLen m : Int) + k > 63 then big
        else let q := m <<< k.toNat; Lx.ofInt (if neg then -(q : Int) else q)
      else
        let sh := min ((f : Int) - k).toNat 64
        let q := shiftRne m sh <<< f
        if q ≥ 2 ^ 63 then big else Lx.ofInt (if neg then -(q : Int) else q)

/-- The value an LX96 stands for at datum `d` (R34). -/
def Lx.toNum (d : Int) (x : Lx) : Num :=
  match x.cls with
  | .finite => .fin (x.n.toInt < 0) x.n.toInt.natAbs (d - 62)
  | .posInf => .inf false
  | .negInf => .inf true
  | .nan => .nan

/-- Conversion of a result into a format (R38): a zero result is +0. -/
def Lx.encode (f : Fp) (sat : Bool) (d : Int) (x : Lx) : Nat :=
  let c := f.encode sat (x.toNum d)
  if c % f.signBit = 0 then 0 else c

/-- The 16-byte slot of Table 2.3. -/
def Lx.slot (x : Lx) : Nat :=
  x.n.toNat + (match x.cls with | .finite => 0 | .posInf => 1 | .negInf => 2 | .nan => 3) <<< 96

/-- CLASS of a two-bit code. -/
def clsOf : Nat → Cls
  | 0 => .finite | 1 => .posInf | 2 => .negInf | _ => .nan
def Cls.code : Cls → Nat
  | .finite => 0 | .posInf => 1 | .negInf => 2 | .nan => 3

/-- An LX96 value from its slot. -/
def Lx.ofSlot (n : Nat) : Lx := { n := BitVec.ofNat 96 n, cls := clsOf (bitsAt n 96 2) }

/-! ### Closure -/

/-- p of R40. -/
def closureP : Nat := 2 ^ 61 - 1
/-- The weight of position i (R40). -/
def weight (i : Nat) : Nat := 3 ^ (i + 1) % closureP
/-- Least non-negative residue of a two's-complement integer (R40). -/
def modP (n : Int) : Nat := (n % (closureP : Int)).toNat
/-- The class word of R40. -/
def classWord : Cls → Nat
  | .finite => 0
  | .posInf => 0x1000000000000000
  | .negInf => 0x0800000000000000
  | .nan => 0x0C00000000000000

/-- Σ n_i * 3^(i+1) mod p over positions from the one of weight `w`. -/
def weighted : Nat → List Nat → Nat → Nat
  | _, [], acc => acc
  | w, n :: ns, acc => weighted (w * 3 % closureP) ns ((acc + n * w) % closureP)

/-- I of the values from position `first` (R40). -/
def iTerm (first : Nat) (xs : List Lx) : Nat := weighted (weight first) (xs.map fun x => modP x.n.toInt) 0
/-- K of the values from position `first` (R40). -/
def kTerm (first : Nat) (xs : List Lx) : Nat := weighted (weight first) (xs.map fun x => classWord x.cls) 0
/-- C of the values from position `first` (R40). -/
def closureLx (first : Nat) (xs : List Lx) : Nat := (iTerm first xs + kTerm first xs) % closureP
/-- The ENCODED closure: encodings of `bits` bits read as signed integers, K = 0 (R46). -/
def closureCodes (bits first : Nat) (cs : List Nat) : Nat :=
  weighted (weight first) (cs.map fun c => modP (signedOf bits c)) 0
/-- I of sparse values by position. -/
def iSparse (xs : List (Nat × Lx)) : Nat :=
  xs.foldl (fun acc x => (acc + modP x.2.n.toInt * weight x.1) % closureP) 0

/-! ### Sparse chains of LX96 values -/

/-- Adds values from position `i` into a sparse chain that lists its positions in rising order. -/
def lxMerge : Nat → List Lx → List (Nat × Lx) → List (Nat × Lx)
  | _, [], acc => acc
  | i, v :: vs, acc =>
    let before := acc.takeWhile (·.1 < i)
    match acc.dropWhile (·.1 < i) with
    | (j, a) :: rest =>
      if j = i then
        let s := a.add v
        before ++ (if s = {} then lxMerge (i + 1) vs rest else (i, s) :: lxMerge (i + 1) vs rest)
      else before ++ (if v = {} then lxMerge (i + 1) vs ((j, a) :: rest) else (i, v) :: lxMerge (i + 1) vs ((j, a) :: rest))
    | [] => before ++ (if v = {} then lxMerge (i + 1) vs [] else (i, v) :: lxMerge (i + 1) vs [])

/-- The values at positions `i` to `i + k - 1` of a sparse chain. -/
def lxDense : Nat → Nat → List (Nat × Lx) → List Lx
  | _, 0, _ => []
  | i, k + 1, acc =>
    match acc.dropWhile (·.1 < i) with
    | (j, a) :: rest => if j = i then a :: lxDense (i + 1) k rest else {} :: lxDense (i + 1) k ((j, a) :: rest)
    | [] => {} :: lxDense (i + 1) k []

/-! ### Packed LX -/

/-- Trailing zero bits of a nonzero number, at most `fuel`. -/
def trailingZeros : Nat → Nat → Nat
  | 0, _ => 0
  | fuel + 1, n => if n % 2 = 1 then 0 else trailingZeros fuel (n / 2) + 1

/-- Least width of the two's-complement form of a value, at least 1. -/
def signedWidth (i : Int) : Nat := bitLen (if i < 0 then (-i - 1).toNat else i.toNat) + 1

/-- A block of 32 values in its canonical form (R43). -/
def packBlock (xs : List Lx) : Bytes :=
  let nz := (xs.map (·.n.toInt)).filter (· ≠ 0)
  let shift : Nat := match nz with
    | [] => 0
    | n :: ns => ns.foldl (fun m k => min m (trailingZeros 96 k.natAbs)) (trailingZeros 96 n.natAbs)
  let width : Nat := nz.foldl (fun w n => max w (signedWidth (n.shiftRight shift))) 0
  let cmap := xs.any fun x => x.cls ≠ .finite
  let classes := xs.zipIdx.foldl (fun acc x => acc + x.1.cls.code <<< (2 * x.2)) 0
  let body := xs.zipIdx.foldl (fun acc x => acc + unsignedOf width (x.1.n.toInt.shiftRight shift) <<< (width * x.2)) 0
  leBytes 4 (width + shift * 256 + (if cmap then 65536 else 0)) ++ (if cmap then leBytes 8 classes else []) ++ leBytes (4 * width) body

/-- One packed block: its 32 values and the bytes after it; none when it is malformed or cut short (R43, R100). A well-formed block that
is not canonical can spell a value outside 96 bits (WIDTH + SHIFT above 96), for which R43 states no result: N is then taken modulo
2^96, as R36 takes sums (DESIGN CHOICE, log 80). -/
def unpackBlock (bs : Bytes) : Option (List Lx × Bytes) :=
  let h := leNat (bs.take 4)
  let width := bitsAt h 0 8
  let shift := bitsAt h 8 8
  let cmap := bitAt h 16
  if bs.length < 4 ∨ width > 96 ∨ shift > 95 ∨ (width = 0 ∧ shift ≠ 0) ∨ bitsAt h 17 15 ≠ 0 then none
  else
    let r := bs.drop 4
    let cl := if cmap then leNat (r.take 8) else 0
    let r := if cmap then r.drop 8 else r
    if (cmap ∧ bs.length < 12) ∨ r.length < 4 * width then none
    else
      let body := leNat (r.take (4 * width))
      some ((List.range 32).map fun j =>
        { n := BitVec.ofInt 96 (signedOf width (bitsAt body (j * width) width) * (2 ^ shift : Nat)), cls := clsOf (bitsAt cl (2 * j) 2) },
        r.drop (4 * width))

/-- Whole blocks of a payload, at most `fuel` (R100). -/
def unpackBlocks : Nat → Bytes → Option (List Lx)
  | 0, bs => if bs.isEmpty then some [] else none
  | fuel + 1, bs =>
    if bs.isEmpty then some []
    else do
      let (xs, r) ← unpackBlock bs
      let rest ← unpackBlocks fuel r
      some (xs ++ rest)

/-- PARTIAL frames of a chain: (first element, its values, payload), filled with whole blocks up to 4,096 bytes (R100). -/
def packFrames (xs : List Lx) : List (Nat × List Lx × Bytes) :=
  let blocks := (chunks 32 256 xs).map fun b => (b, packBlock b)
  let (out, cur) := blocks.foldl (fun (st : List (Nat × List Lx × Bytes) × (Nat × List Lx × Bytes)) b =>
      let (out, first, vs, bs) := st
      if bs.length + b.2.length > 4096 then (out ++ [(first, vs, bs)], (first + vs.length, b.1, b.2))
      else (out, (first, vs ++ b.1, bs ++ b.2))) ([], (0, [], []))
  out ++ [cur]

/-! ### CANON64 -/

/-- K of R44: least K with 2^K ≥ m. -/
def canonHeight (m : Nat) : Nat := if m ≤ 1 then 0 else Nat.log2 (m - 1) + 1

/-- Joins a node with its sibling, and lifts one whose sibling block holds no rank below m, while it can (R44, R45). -/
def nodeLift (m : Nat) : Nat → Node → List Node → List Node
  | 0, n, ns => n :: ns
  | fuel + 1, n, ns =>
    if n.k ≥ canonHeight m then n :: ns
    else
      let right := (n.a / 2 ^ n.k) % 2 = 1
      let sib := if right then n.a - 2 ^ n.k else n.a + 2 ^ n.k
      if ¬ right ∧ sib ≥ m then nodeLift m fuel { n with k := n.k + 1 } ns
      else
        match ns.find? fun x => x.a = sib ∧ x.k = n.k ∧ x.first = n.first with
        | some x =>
          let (l, r) := if right then (x, n) else (n, x)
          let vals := (l.vals.zip r.vals).map fun p => BitVec.ofNat 64 (Fp.fp64.add p.1.toNat p.2.toNat)
          nodeLift m fuel { n with a := l.a, k := n.k + 1, vals := vals } (ns.erase x)
        | none => n :: ns

/-- A part holds one more node, or a contribution as the node (rank, 0) (R45). -/
def nodeAdd (m : Nat) (n : Node) (ns : List Node) : List Node := nodeLift m 40 n ns

/-- An FP64 encoding of a contribution's value, exact (R44). -/
def canonOf (n : Num) : BitVec 64 := BitVec.ofNat 64 (Fp.fp64.put n)

/-- The ranks `a` to `a + count - 1`, all +0 (R90), as aligned nodes of zeros; `fuel` nodes at most. -/
def zeroNodes (m first len : Nat) : Nat → Nat → Nat → List Node → List Node
  | 0, _, _, ns => ns
  | fuel + 1, a, count, ns =>
    if count = 0 then ns
    else
      let k := min (trailingZeros 33 a) (Nat.log2 count)
      zeroNodes m first len fuel (a + 2 ^ k) (count - 2 ^ k)
        (nodeAdd m { a := a, k := k, first := first, vals := List.replicate len 0 } ns)

/-! ### ARRIVE -/

/-- The accumulation format: FP64 for FP64 inputs, else FP32 (R47). -/
def arriveFp (fmtIn : Nat) : Fp := if fmtIn = 0 then .fp64 else .fp32

/-- Adds exact values into the sums from position `first`, rounding each once (R47); an empty sum takes its first input. -/
def arriveAdd (f : Fp) (first : Nat) (xs : List Num) (acc : List (BitVec 64)) : List (BitVec 64) :=
  let old := (acc.drop first).take xs.length
  let new := xs.zipIdx.map fun (x, i) =>
    match old[i]? with
    | some a => BitVec.ofNat 64 (f.put ((f.decode a.toNat).add x))
    | none => BitVec.ofNat 64 (f.put x)
  acc.take first ++ new ++ acc.drop (first + xs.length)

end Sys2Proof.Machine
end

