-- ==== Sys2Proof/Machine/Projection.lean ====
section
/-! DEFINITION. The arithmetic of projection (07_projection_cores.md): fixed point (R167), coefficients (R169), the constants
and the predicted terms (R172, R173, R176) and the reconstruction (R175). All sums are exact (R164). -/
namespace Sys2Proof.Machine

/-- b and r of a basis (Table 7.2). -/
def Basis.width (q : Basis) : Nat := 32 * 2 ^ q.widthCode

/-- Entry q[j][k] (R165). -/
def Basis.entry (q : Basis) (j k : Nat) : Int := q.q.getD (j * q.rank + k) 0

/-- 2^(15 - SC[k]) (R169). -/
def Basis.scale (q : Basis) (k : Nat) : Nat := 2 ^ (15 - q.sc.getD k 0)

/-- Elements of a coefficient chain: E' of R170. -/
def Basis.coefs (q : Basis) (elems : Nat) : Nat := elems * q.rank / q.width

/-- proj_fix of R167: the fixed-point value and its class. -/
def projFix (d : Int) (x : Num) : Int × Cls :=
  match x with
  | .nan => (0, .nan)
  | .inf neg => (0, if neg then .negInf else .posInf)
  | .fin neg m e =>
    let v := Lx.ofNum (d + 31) 0 (.fin neg m e)
    let n := v.n.toInt
    if v.cls ≠ .finite ∨ n > 0x7FFFFFFF ∨ n < -0x80000000 then (0, if neg then .negInf else .posInf) else (n, .finite)

/-- Σ over two lists, exactly. -/
def dot (xs ys : List Int) : Int := (xs.zip ys).foldl (fun a p => a + p.1 * p.2) 0

/-! ### Cores, arrays and cells (R166, R182) -/

/-- Cores of a group, groups of a ledger die, and arrays each core uses (R166). -/
def Basis.groupCores (q : Basis) : Nat := q.width / 32
def Basis.groups (q : Basis) : Nat := 256 / q.width
def Basis.arraysUsed (q : Basis) : Nat := (q.rank + 31) / 32

/-- The entry that cell (j, n) of array a of core c holds: the core's 32-row slice of Q; unused columns hold zero (R166). -/
def Basis.cell (q : Basis) (c a j n : Nat) : Int :=
  if 32 * a + n < q.rank then q.entry (32 * (c % max 1 q.groupCores) + j) (32 * a + n) else 0

/-- Place in a slot of the byte that cell (j, n) of array a of core c takes in load cycle (j - n) mod 32: byte n of that cycle's word (R182; the
order of the words is DESIGN CHOICE, log 99). -/
def cellPlace (c a j n : Nat) : Nat := ((4 * c + a) * 32 + (j + 32 - n) % 32) * 32 + n

/-- The byte at a place of the pre-skewed copy of Q (R182). -/
def Basis.storeByte (q : Basis) (k : Nat) : Byte :=
  let n := k % 32
  let l := k / 32 % 32
  BitVec.ofInt 8 (q.cell (k / 4096) (k / 1024 % 4) ((l + n) % 32) n)

/-- Entry q[j][k] as the cells of a group of cores hold it. `cells` lists bytes that the die's store gave the arrays in place of the slot's own. -/
def Basis.held (q : Basis) (cells : List (Nat × Byte)) (group j k : Nat) : Int :=
  let place := cellPlace (group * q.groupCores + j / 32) (k / 32) (j % 32) (k % 32)
  match cells.find? fun e => e.1 = place with
  | some e => e.2.toInt
  | none => q.entry j k

/-- Column k of Q as a group holds it. -/
def Basis.column (q : Basis) (cells : List (Nat × Byte)) (group k : Nat) : List Int := (List.range q.width).map fun j => q.held cells group j k

/-- Row j of Q times the column scales, as the transpose dataflow of a group uses it (R175). -/
def Basis.scaledRow (q : Basis) (cells : List (Nat × Byte)) (group j : Nat) : List Int :=
  (List.range q.rank).map fun k => q.held cells group j k * (q.scale k : Int)

/-- The group that takes block row ρ: every group projects another row in the same cycle (R166; the order is DESIGN CHOICE, log 99). -/
def Basis.groupOf (q : Basis) (row : Nat) : Nat := row % max 1 q.groups

/-- Coefficients of a contribution's fixed-point elements, block row by block row (R169). -/
def Basis.project (q : Basis) (cells : List (Nat × Byte)) (xs : List (Int × Cls)) : List Lx :=
  (chunks q.width 512 xs).zipIdx.flatMap fun e =>
    let cls := e.1.foldl (fun c x => c.join x.2) Cls.finite
    (List.range q.rank).map fun k => { Lx.ofInt (dot (e.1.map (·.1)) (q.column cells (q.groupOf e.2) k) * (q.scale k : Int)) with cls := cls }

/-- z_j of R172. -/
def Basis.zs (q : Basis) : List Nat :=
  (List.range q.width).map fun j =>
    (List.range q.rank).foldl (fun a k => (a + modP (q.entry j k * (q.scale k : Int)) * weight k) % closureP) 0

/-- y_k of R172. -/
def Basis.ys (q : Basis) : List Nat :=
  (List.range q.rank).map fun k =>
    (List.range q.width).foldl (fun a j => (a + modP (q.entry j k * (q.scale k : Int)) * weight j) % closureP) 0

/-- Σ_ρ 3^(ρ·step) Σ_i (v mod p)·c_i over rows of constants `cs` (R173, R176). -/
def predicted (step : Nat) (cs : List Nat) (rows : List (List Int)) : Nat :=
  (rows.foldl (fun (acc : Nat × Nat) row =>
    let t := (row.zip cs).foldl (fun a p => (a + modP p.1 * p.2) % closureP) 0
    ((acc.1 + acc.2 * t) % closureP, acc.2 * (3 ^ step % closureP) % closureP)) (0, 1)).1

/-- I_pred of a contribution (R173). -/
def Basis.iPred (q : Basis) (xs : List (Int × Cls)) : Nat :=
  predicted q.rank q.z ((chunks q.width 512 xs).map fun row => row.map (·.1))

/-- The conversion to int32_t (R175): a coefficient of a row that is not FINITE is not bounded by t. -/
def int32 (n : Int) : Int := (BitVec.ofInt 32 n).toInt

/-- A reconstructed chain (R175): its values, its datum D_r, and whether its I term passes the check of R176. -/
def Basis.reconstruct (q : Basis) (cells : List (Nat × Byte)) (d : Int) (coefs : List Lx) : List Lx × Int × Bool :=
  let rows := chunks q.rank 512 coefs
  let cls (row : List Lx) : Cls := (row.headD {}).cls
  let top := rows.foldl (fun m row => if cls row = .finite then row.foldl (fun m x => max m x.n.toInt.natAbs) m else m) 0
  let t : Int := (bitLen top : Int) - 30
  let fix (x : Lx) : Int :=
    let n := x.n.toInt
    int32 (if t ≤ 0 then n * (2 ^ (-t).toNat : Nat) else if n < 0 then -(shiftRne n.natAbs t.toNat : Int) else shiftRne n.natAbs t.toNat)
  let aps := rows.map fun row => row.map fix
  let out := (rows.zip aps).zipIdx.flatMap fun p =>
    (List.range q.width).map fun j => { Lx.ofInt (dot p.1.2 (q.scaledRow cells (q.groupOf p.2) j)) with cls := cls p.1.1 }
  (out, t + (d + 16) - 15, iTerm 0 out == predicted q.width q.y aps)

/-- b and r are those R165 allows. -/
def shapeOk (widthCode rank : Nat) : Bool :=
  let b := 32 * 2 ^ widthCode
  widthCode ≤ 3 && rank % 16 == 0 && 16 ≤ rank && rank ≤ 128 && 2 * rank ≤ b

/-- The entries and exponents of a host buffer, or none where R165 is broken. -/
def basisOf (widthCode rank : Nat) (data : Bytes) : Option (List Int × List Nat) :=
  let n := 32 * 2 ^ widthCode * rank
  let q := (data.take n).map fun b => b.toInt
  let sc := ((data.drop n).take rank).map (·.toNat)
  if q.length = n ∧ sc.length = rank ∧ q.all (· ≠ -128) ∧ sc.all (· ≤ 15) then some (q, sc) else none

end Sys2Proof.Machine
end

