-- ==== Sys2Proof/Machine/Crc.lean ====
section
/-! DEFINITION. The check codes of frames, buffers and the STATION_IN word (R97, R98, R121). -/
namespace Sys2Proof.Machine

/-- One byte into a CRC taken most significant bit first: `w` bits wide, polynomial `poly`. -/
def crcByte (w poly : Nat) (crc : Nat) (b : Byte) : Nat :=
  (List.range 8).foldl (fun c _ => if bitAt c (w - 1) then ((c <<< 1) % 2 ^ w) ^^^ poly else (c <<< 1) % 2 ^ w)
    (crc ^^^ (b.toNat <<< (w - 8)))

/-- CRC-16 of R97. -/
def crc16 (bs : Bytes) : Nat := bs.foldl (crcByte 16 0x1021) 0xFFFF

/-- CRC-8 with the given polynomial and initial value, most significant bit first. -/
def crc8 (poly init : Nat) (bs : Bytes) : Nat := bs.foldl (crcByte 8 poly) init

/-- One byte into the reflected CRC-32C register. -/
def crc32cByte (crc : Nat) (b : Byte) : Nat :=
  (List.range 8).foldl (fun c _ => if bitAt c 0 then (c >>> 1) ^^^ 0x82F63B78 else c >>> 1) (crc ^^^ b.toNat)

/-- CRC-32C of R98. -/
def crc32c (bs : Bytes) : Nat := bs.foldl crc32cByte 0xFFFFFFFF ^^^ 0xFFFFFFFF

/-- One byte into the reflected CRC-64 register of R315. -/
def crc64Byte (crc : Nat) (b : Byte) : Nat :=
  (List.range 8).foldl (fun c _ => if bitAt c 0 then (c >>> 1) ^^^ 0xC96C5795D7870F42 else c >>> 1) (crc ^^^ b.toNat)

/-- CRC-64 of R315: polynomial 0x42F0E1EBA9EA3693, reflected. -/
def crc64 (bs : Bytes) : Nat := bs.foldl crc64Byte 0xFFFFFFFFFFFFFFFF ^^^ 0xFFFFFFFFFFFFFFFF

end Sys2Proof.Machine
end

