-- ==== Sys2Proof/Machine/Ops.lean ====
section
/-! DEFINITION. The shared operations: sparse tables, byte memories in their canonical form, the clock, counters (R330),
free values (log 6) and the small accessors of State. -/
namespace Sys2Proof.Machine

/-! ### Tables: lists of (key, value), keys rising -/

/-- The value at key `k`. -/
def tget {α : Type} (k : Nat) (l : List (Nat × α)) : Option α := (l.find? fun e => e.1 == k).map (·.2)

/-- The table with `v` at key `k`. -/
def tset {α : Type} (k : Nat) (v : α) (l : List (Nat × α)) : List (Nat × α) :=
  l.filter (fun e => e.1 < k) ++ (k, v) :: l.filter (fun e => k < e.1)

/-- The table without key `k`. -/
def tdel {α : Type} (k : Nat) (l : List (Nat × α)) : List (Nat × α) := l.filter fun e => e.1 != k

/-- The table with the value at `k` replaced by a function of it; unlisted keys stay unlisted. -/
def tmap {α : Type} (k : Nat) (f : α → α) (l : List (Nat × α)) : List (Nat × α) :=
  l.map fun e => if e.1 == k then (e.1, f e.2) else e

/-- A list with the element at `i` replaced by a function of it. -/
def lmap {α : Type} (i : Nat) (f : α → α) (l : List α) : List α := l.modify i f

/-! ### Byte memories (R6): cells at rising addresses, none holding the value an unlisted address reads as (log 11) -/

/-- What a byte that nothing has written reads as (R372, log 11). -/
def Memory.blank : Byte := 0

/-- The byte at address `a`. -/
def Memory.read (m : List Host.Cell) (a : Nat) : Byte := ((m.find? fun c => c.1 == a).map (·.2)).getD Memory.blank

/-- The cells of the bytes `bs` from address `a` that differ from blank. -/
def Memory.cells : Nat → Bytes → List Host.Cell
  | _, [] => []
  | a, b :: bs => if b = Memory.blank then Memory.cells (a + 1) bs else (a, b) :: Memory.cells (a + 1) bs

/-- The memory after the bytes `bs` are written from address `a`. -/
def Memory.write (a : Nat) (bs : Bytes) (m : List Host.Cell) : List Host.Cell :=
  m.filter (fun c => c.1 < a) ++ Memory.cells a bs ++ m.filter (fun c => a + bs.length ≤ c.1)

/-- `n` bytes from address `a` of cells that all stand at `a` or above. -/
def Memory.run : Nat → Nat → List Host.Cell → Bytes
  | _, 0, _ => []
  | a, n + 1, (b, v) :: r =>
    if b = a then v :: Memory.run (a + 1) n r else Memory.blank :: Memory.run (a + 1) n ((b, v) :: r)
  | a, n + 1, [] => Memory.blank :: Memory.run (a + 1) n []

/-- The `n` bytes from address `a`. -/
def Memory.readBytes (m : List Host.Cell) (a n : Nat) : Bytes :=
  Memory.run a n (m.filter fun c => a ≤ c.1 ∧ c.1 < a + n)

/-- `n` bytes from address `a` set to blank. -/
def Memory.zero (a n : Nat) (m : List Host.Cell) : List Host.Cell :=
  m.filter fun c => c.1 < a ∨ a + n ≤ c.1

/-- Strictly rising from `lo` on, no blank cell. -/
def Memory.wfFrom : Nat → List Host.Cell → Bool
  | _, [] => true
  | lo, c :: r => lo ≤ c.1 && c.2 != Memory.blank && Memory.wfFrom (c.1 + 1) r

/-- The canonical form. -/
def Memory.wf (m : List Host.Cell) : Bool := Memory.wfFrom 0 m

/-! ### Outcomes -/

/-- The outcome of a command on units that exist; a fault otherwise. -/
def guardUnit (ok : Bool) (s : State) : Host.Outcome State Fault Refusal :=
  if ok then .next s else .fault .noSuchUnit

/-! ### Clock -/

/-- The model's clock in µs. -/
def State.us (s : State) : Nat := s.clock / 1000

/-- The telemetry counter: 1 ns ticks since the last release of RESET_N that took effect (R22). -/
def State.telemetry (s : State) : Nat := s.clock - s.supply.releasedAt

/-- A timer's event: the clock has reached its deadline (log 5). -/
def State.reach (s : State) (deadline : Nat) : State := { s with clock := max s.clock deadline }

/-! ### Free values -/

/-- A fresh free value (log 6). -/
def State.drawn (s : State) : Nat := Config.freeNat s.freeCount

/-- The state after `n` free values have been drawn. -/
def State.draw (n : Nat) (s : State) : State := { s with freeCount := s.freeCount + n }

/-! ### Counters (Table 15.10) -/

/-- Instance of a counter that has one value for the part. -/
def partWide : Nat := 0xFFFFFFFF

/-- Value of a counter. -/
def State.counter (s : State) (number inst : Nat) : Nat :=
  ((s.counters.find? fun e => e.1 == (number, inst)).map (·.2)).getD 0

/-- A counter set to a value; zero is unlisted. -/
def counterSet (number inst v : Nat) (l : List ((Nat × Nat) × Nat)) : List ((Nat × Nat) × Nat) :=
  let rest := l.filter fun e => e.1 != (number, inst)
  if v = 0 then rest else ((number, inst), v) :: rest

/-- A counter raised by `n`; counters are read as 64 bits (R330). -/
def State.bumpBy (n number inst : Nat) (s : State) : State :=
  { s with counters := counterSet number inst ((s.counter number inst + n) % 2 ^ 64) s.counters }

/-- A counter raised by one. -/
def State.bump (number inst : Nat) (s : State) : State := s.bumpBy 1 number inst

/-- A counter that saturates at `top`. -/
def State.bumpSat (top number inst : Nat) (s : State) : State :=
  { s with counters := counterSet number inst (min top (s.counter number inst + 1)) s.counters }

/-- Counter numbers, in the order of Table 15.10. -/
def Counter.portTypeErr := 0x01
def Counter.hdrErr := 0x02
def Counter.crcErr := 0x03
def Counter.taintSeen := 0x04
def Counter.taintStub := 0x05
def Counter.creditViol := 0x06
def Counter.portFlush := 0x07
def Counter.ageDrop := 0x08
def Counter.platMiss := 0x09
def Counter.noPath := 0x0A
def Counter.bearingPeerErr := 0x0B
def Counter.trainFail := 0x0C
def Counter.linkDown := 0x0D
def Counter.lcwErr := 0x0E
def Counter.identUpdate := 0x0F
def Counter.truncErr := 0x10
def Counter.losCount := 0x20
def Counter.lolCount := 0x21
def Counter.egSeqOld := 0x30
def Counter.xbarErr := 0x40
def Counter.dieTypeErr := 0x50
def Counter.seqOld := 0x51
def Counter.seqLost := 0x55
def Counter.gapSent := 0x56
def Counter.unboundChains := 0x57
def Counter.spillCancel := 0x58
def Counter.scatterBad := 0x59
def Counter.hbmCe := 0x60
def Counter.hbmUe := 0x61
def Counter.discardClosed := 0x70
def Counter.discardWindow := 0x71
def Counter.discardAborted := 0x72
def Counter.serveBad := 0x73
def Counter.serveMerged := 0x74
def Counter.serveRefused := 0x75
def Counter.serveDrop := 0x76
def Counter.abortReqLate := 0x77
def Counter.queryOld := 0x78
def Counter.misdirected := 0x79
def Counter.arrivalDiscard := 0x80
def Counter.noRoute := 0x90
def Counter.mirrorDrop := 0x91
def Counter.telemetryDrop := 0x92
def Counter.replicaSync := 0x93
def Counter.eventDrop := 0x94
def Counter.ibRingFull := 0x95
def Counter.foreignWrites := 0x96
def Counter.allocStall := 0x97
def Counter.fallbackUses := 0x98
def Counter.late := 0x99
/-- Switches of the REFCLK input in use: R21 counts them in telemetry, and Table 15.10 gives them no number, so they take the one after its last
(DESIGN CHOICE, log 92). -/
def Counter.refclkSwitch := 0x9A

/-! ### Accessors and updates by index -/

def State.port (s : State) (p : Nat) : Port := s.ports.getD p {}
def State.link (s : State) (p : Nat) : Link := s.links.getD p {}
def State.die (s : State) (i : Nat) : LedgerDie := s.dies.getD i {}
def State.stack (s : State) (i : Nat) : Hbm := s.hbmStacks.getD i {}
def State.pair (s : State) (n : Nat) : Pair := s.mailbox.pairs.getD n {}
def State.group (s : State) (g : Nat) : Group := s.groups.getD g {}
def State.parcel (s : State) (p : Nat) : Option Parcel := tget p s.parcels
def State.traverse (s : State) (t : Nat) : Option Traverse := tget t s.traverses
def State.tally (s : State) (t : Nat) : Option Tally := tget t s.tallies

def State.setPort (p : Nat) (f : Port → Port) (s : State) : State := { s with ports := lmap p f s.ports }
def State.setLink (p : Nat) (f : Link → Link) (s : State) : State := { s with links := lmap p f s.links }
def State.setDie (i : Nat) (f : LedgerDie → LedgerDie) (s : State) : State := { s with dies := lmap i f s.dies }
def State.setStack (i : Nat) (f : Hbm → Hbm) (s : State) : State := { s with hbmStacks := lmap i f s.hbmStacks }
def State.setMailbox (f : Mailbox → Mailbox) (s : State) : State := { s with mailbox := f s.mailbox }
def State.setPair (n : Nat) (f : Pair → Pair) (s : State) : State :=
  s.setMailbox fun m => { m with pairs := lmap n f m.pairs }
def State.setGroup (g : Nat) (f : Group → Group) (s : State) : State := { s with groups := lmap g f s.groups }
def State.setXbar (f : Xbar → Xbar) (s : State) : State := { s with xbar := f s.xbar }
def State.setRoutes (f : Routes → Routes) (s : State) : State := { s with routes := f s.routes }
def State.setTraverse (t : Nat) (f : Traverse → Traverse) (s : State) : State :=
  { s with traverses := tmap t f s.traverses }
def State.setTally (t : Nat) (f : Tally → Tally) (s : State) : State := { s with tallies := tmap t f s.tallies }
def State.setRegion (slot : Nat) (f : Region → Region) (s : State) : State := { s with regions := tmap slot f s.regions }
def State.setParcel (p : Nat) (f : Parcel → Parcel) (s : State) : State := { s with parcels := tmap p f s.parcels }
def State.setTimebase (i : Nat) (f : Timebase → Timebase) (s : State) : State :=
  { s with timebases := lmap i f s.timebases }

/-- The port is UP. -/
def State.portUp (s : State) (p : Nat) : Bool := (s.port p).state == .up

/-- Dies failed: the physical pairs (R386). -/
def State.pairFailed (s : State) (i : Nat) : Bool := (s.die i).failed

/-- A processor is halted under debug: its watchdog is stopped (R362), and its tasks rest (R376, log 108). -/
def State.isHalted (s : State) (die processor : Nat) : Bool := s.dbg.halted.contains (die, processor)

/-! ### Die groups (Table 1.8) -/

/-- Die group of an external port, of a ledger die, of the crossbar and of MD: DG-L0-7, DG-D0-9, DG-X, DG-M. -/
def groupOfPort (p : Nat) : Nat := p / 16
def groupOfDie (i : Nat) : Nat := 9 + i / 3
def groupX : Nat := 8
def groupM : Nat := 19

/-- The group is in L0 and neither enters nor leaves a state: it takes work. -/
def State.running (s : State) (g : Nat) : Bool :=
  (s.group g).state == .l0 && (s.group g).entering.isNone && (s.group g).exiting.isNone

/-- Work reaches a group that does not run: its exit starts at once, and an entry is abandoned (R347). -/
def wakeGroup (g : Nat) (s : State) : State :=
  if s.running g ∨ (s.group g).exiting.isSome then s
  else s.setGroup g fun x =>
    { x with entering := none, exiting := some ((x.entering.map (·.1)).getD x.state, s.clock) }

/-- Work of a group: done where the group runs, else it waits while the group's exit starts (R346, R347). -/
def onGroup (g : Nat) (work : State → State) (s : State) : State :=
  if s.running g then work (s.setGroup g fun x => { x with workAt := s.clock }) else wakeGroup g s

/-- Work that cannot be put off here reaches a group: it counts as its last work, or starts its exit (R346, R347). -/
def workGroup (g : Nat) (s : State) : State := if s.running g then s.setGroup g fun x => { x with workAt := s.clock } else wakeGroup g s

/-- Applies a function to a state for each element of a list, in order. -/
def forEach {α : Type} (xs : List α) (f : α → State → State) (s : State) : State := xs.foldl (fun s x => f x s) s

/-- Work reaches the groups of some ledger pairs. -/
def workPairs (pairs : List Nat) (s : State) : State := forEach (pairs.map groupOfDie).eraseDups workGroup s

/-- The groups of some ledger pairs run. -/
def State.pairsRun (s : State) (pairs : List Nat) : Bool := pairs.all fun i => s.running (groupOfDie i)

/-- Work of a ledger die. -/
def onDie (i : Nat) (work : State → State) (s : State) : State := onGroup (groupOfDie i) work s

/-- The part's number (R396). -/
def State.number (s : State) : Nat := s.routes.number

/-- Physical pair of logical index `l` by the placement of the last reset (R133, log 24). -/
def State.base (s : State) (l : Nat) : Nat :=
  let e := s.placement.usable
  let j := l % Config.pairs
  if e.length = Config.pairs ∨ e.isEmpty then j else e.getD (j % e.length) 0

/-- Physical pair of logical index `l`, resolved past a failed pair to its partner (R133, R218). -/
def State.physical (s : State) (l : Nat) : Nat :=
  if s.pairFailed (s.base l) then s.base (l + Config.half) else s.base l

/-- Truncation of a number to 32 bits. -/
def w32 (n : Nat) : BitVec 32 := BitVec.ofNat 32 n

/-- `a` precedes `b` among 32-bit generation numbers, which are compared modulo 2^32 (R60). -/
def before32 (a b : BitVec 32) : Bool := 0 < (b - a).toNat && (b - a).toNat < 2 ^ 31

end Sys2Proof.Machine
end

