-- ==== Sys2Proof/Machine/Frames.lean ====
section
/-! DEFINITION. Frames bit for bit (04_chains_frames_closure.md): the fields of Tables 4.2, 4.5, 5.1, 9.7, 12.4 and 14.7,
the two check codes (R97, R98), and the frames the part itself builds. -/
namespace Sys2Proof

/-- Bits of the header. -/
def Frame.field (f : Frame) (lo w : Nat) : Nat := bitsAt f.header.toNat lo w
/-- Bits of the trailer. -/
def Frame.tfield (f : Frame) (lo w : Nat) : Nat := bitsAt f.trailer.toNat lo w

/-! ### Table 4.2 -/
def Frame.type (f : Frame) : Nat := f.field 0 4
def Frame.vc (f : Frame) : Nat := f.field 4 3
def Frame.cm (f : Frame) : Bool := f.field 7 1 == 1
def Frame.ce (f : Frame) : Bool := f.field 8 1 == 1
def Frame.epoch (f : Frame) : Nat := f.field 9 2
def Frame.last (f : Frame) : Bool := f.field 11 1 == 1
def Frame.isEnd (f : Frame) : Bool := f.field 12 1 == 1
def Frame.gap (f : Frame) : Bool := f.field 13 1 == 1
def Frame.poison (f : Frame) : Bool := f.field 14 1 == 1
def Frame.resync (f : Frame) : Bool := f.field 15 1 == 1
def Frame.flow (f : Frame) : Nat := f.field 16 8
def Frame.seq (f : Frame) : Nat := f.field 24 24
def Frame.srcPart (f : Frame) : Nat := f.field 48 16
def Frame.srcPort (f : Frame) : Nat := f.field 64 8
def Frame.traverse (f : Frame) : Nat := f.field 72 12
def Frame.fmt (f : Frame) : Nat := f.field 84 4
def Frame.gen (f : Frame) : BitVec 32 := BitVec.ofNat 32 (f.field 88 32)
def Frame.chain (f : Frame) : Nat := f.field 120 40
def Frame.firstElem (f : Frame) : Nat := f.field 160 13
def Frame.payloadLen (f : Frame) : Nat := f.field 173 13
def Frame.datum (f : Frame) : Int := signedOf 9 (f.field 186 9)
def Frame.survey (f : Frame) : Int := signedOf 16 (f.field 195 16)
def Frame.subtype (f : Frame) : Nat := f.field 211 8
def Frame.nodeA (f : Frame) : Nat := f.field 186 32
def Frame.nodeK (f : Frame) : Nat := f.field 218 6
def Frame.hcrc (f : Frame) : Nat := f.field 240 16

/-! ### Types 0x8 to 0xB (Tables 5.1, 9.7, 12.4, 14.7) -/
def Frame.sub8 (f : Frame) : Nat := f.field 72 8
def Frame.stream (f : Frame) : Nat := f.field 80 6
def Frame.destPart (f : Frame) : Nat := f.field 80 16
def Frame.destPort (f : Frame) : Nat := f.field 96 8

def Frame.region (f : Frame) : Nat := f.field 112 32
def Frame.stripe (f : Frame) : Nat := f.field 144 28
def Frame.vfmt (f : Frame) : Nat := f.field 172 2

/-! ### Table 4.5 -/
def Frame.closure (f : Frame) : Nat := f.tfield 0 64
def Frame.crc (f : Frame) : Nat := f.tfield 64 32
def Frame.taint (f : Frame) : Bool := f.tfield 96 1 == 1
def Frame.ckind (f : Frame) : Nat := f.tfield 97 2

/-- A SERVE request rather than a chain (R157). -/
def Frame.isRequest (f : Frame) : Bool := f.type == 6 && f.payload.isEmpty && !f.gap && !f.poison

/-- A result or serve frame of a generation. -/
def Frame.chainOf (f : Frame) (t : Nat) (g : BitVec 32) : Bool :=
  (f.type == 5 || f.type == 6) && f.traverse == t && f.gen == g && !f.isRequest

end Sys2Proof

namespace Sys2Proof.Machine

/-! ### Check codes -/

/-- HCRC of a header (R97). -/
def headerCrc (h : BitVec 256) : Nat := crc16 (leBytes 30 h.toNat)

/-- A header with bits replaced. -/
def withBits (h : BitVec 256) (lo w v : Nat) : BitVec 256 :=
  BitVec.ofNat 256 (h.toNat - (bitsAt h.toNat lo w) <<< lo + (v % 2 ^ w) <<< lo)

/-- A header with HCRC recomputed (R97). -/
def withHcrc (h : BitVec 256) : BitVec 256 := withBits h 240 16 (headerCrc h)

/-- The frame's CRC (R98): CM, CE, EPOCH and HCRC taken as zero. -/
def frameCrc (f : Frame) : Nat :=
  let h := withBits (withBits (withBits f.header 7 2 0) 9 2 0) 240 16 0
  crc32c (leBytes 32 h.toNat ++ f.payload ++ leBytes 8 f.closure)

def Frame.hcrcOk (f : Frame) : Bool := f.hcrc == headerCrc f.header
def Frame.crcOk (f : Frame) : Bool := f.crc == frameCrc f

/-- A frame with TAINT set in its trailer (R109). -/
def setTaint (f : Frame) : Frame := { f with trailer := f.trailer ||| BitVec.ofNat 128 (2 ^ 96) }

/-- A frame built from its header fields `(low bit, width, value)`, payload, closure and CKIND, with both check codes. -/
def mkFrame (fields : List (Nat × Nat × Nat)) (payload : Bytes) (closure ckind : Nat) : Frame :=
  let f : Frame :=
    { header := withHcrc (BitVec.ofNat 256 (packFields fields)), payload := payload,
      trailer := BitVec.ofNat 128 (packFields [(0, 64, closure), (97, 2, ckind)]) }
  { f with trailer := f.trailer ||| BitVec.ofNat 128 (frameCrc f <<< 64) }

/-- Payload bytes a header announces: PAYLOAD_LEN of types 0x1 to 0x7 (R93), the entries of SCATTER (R275), the records of TELEMETRY (R225),
the words or entries of MANAGEMENT; none where only the payload tells (COMMAND, R312). A reserved type is read as types 0x1 to 0x7 (log 91). -/
def announcedLen (f : Frame) : Option Nat :=
  let t := f.type
  if t ≤ 7 ∨ 12 ≤ t then some f.payloadLen
  else if t = 8 then some 0
  else if t = 9 then
    let sub := f.sub8
    if sub = 1 then none else if sub = 2 then some (64 * f.field 112 8) else if sub = 3 then some 0 else some (4 * f.field 112 8)
  else if t = 10 then some (16 * f.field 112 9)
  else some (16 * f.field 174 9)

/-- The bytes of a frame on the wire. -/
def frameBytes (f : Frame) : Bytes := leBytes 32 f.header.toNat ++ f.payload ++ leBytes 16 f.trailer.toNat

/-- Cells a frame of `len` payload bytes takes: 256 bytes each, or 192 in three-slice mode (R286). -/
def cellsOf (threeSlice : Bool) (len : Nat) : Nat := if threeSlice then (48 + len + 191) / 192 else (48 + len + 255) / 256

/-- Credits of a frame: cells of 256 bytes, whatever the mode (R202, R230). -/
def creditsOf (len : Nat) : Nat := (48 + len + 255) / 256

/-! ### Reserved bits (R94) -/

/-- The frame's reserved header and trailer bits are zero; for CONTROL the fields its subtype leaves unused are not
reserved bits. -/
def reservedOk (f : Frame) : Bool :=
  let h := f.header.toNat
  f.tfield 99 29 == 0 && bitsAt f.trailer.toNat 61 3 == 0 &&
  (match f.type with
   | 4 => zeroIn h [(224, 16)]
   | 8 => zeroIn h [(86, 2), (192, 48)]
   | 9 => zeroIn h [(110, 2), (121, 7), (160, 80)]
   | 10 => zeroIn h [(104, 8), (121, 7), (192, 48)]
   | 11 => zeroIn h [(96, 16), (183, 57)]
   | 7 => zeroIn h [(219, 21)]
   | _ => zeroIn h [(211, 29)])

/-- CONTROL frame of a subtype. -/
def isControl (sub : Nat) (f : Frame) : Bool := f.type == 7 && f.subtype == sub

/-- Payload bytes of a subtype (Table 4.4). -/
def controlLen (sub : Nat) : Nat := if sub = 5 ∨ sub = 6 ∨ sub = 8 ∨ sub = 9 then 16 else 0

/-- Reserved bits of a CONTROL payload are zero: those of an abort record (Table 3.9). -/
def controlPayloadOk (f : Frame) : Bool :=
  let n := leNat f.payload
  f.payload.length == controlLen f.subtype &&
  (if f.subtype = 8 then bitsAt n 52 4 == 0 else f.payload.isEmpty || (bitsAt n 44 4 == 0 && bitsAt n 120 8 == 0))

/-- A CONTROL frame that its receiver acts on (R94, R110): not tainted, its CRC right, its reserved bits zero. A CKIND other than 0 is
taken: Table 4.6 gives CONTROL frames CKIND 0, and the spec names no check of it outside chain frames (DESIGN CHOICE, log 82). -/
def controlOk (f : Frame) : Bool := !f.taint && Frame.crcOk f && reservedOk f && controlPayloadOk f

/-! ### Abort records (Table 3.9) and frames the part originates -/

/-- The 16 bytes of an abort record (Table 3.9). -/
def AbortRec.bytes (r : AbortRec) : Bytes :=
  leBytes 16 (packFields [(0, 32, r.gen.toNat), (32, 12, r.traverse), (48, 8, r.cause), (56, 8, r.port), (64, 16, r.part),
    (80, 40, r.chain)])

/-- An abort record from its bytes. -/
def abortRecOf (bs : Bytes) : AbortRec :=
  let n := leNat bs
  { gen := BitVec.ofNat 32 (bitsAt n 0 32), traverse := bitsAt n 32 12, cause := bitsAt n 48 8, port := bitsAt n 56 8,
    part := bitsAt n 64 16, chain := bitsAt n 80 40 }

/-- Priority of a cause among those that reach the root together, 1 the highest (Table 3.8); a code of no row ranks last. -/
def causePriority (cause : Nat) : Nat :=
  match cause with
  | 0x01 => 9
  | 0x02 => 2
  | 0x03 => 1
  | 0x04 => 3
  | 0x05 => 4
  | 0x06 => 5
  | 0x07 => 8
  | 0x08 => 6
  | 0x09 => 7
  | 0x0A => 10
  | 0x0B => 11
  | _ => 12

/-- The first of two causes under R67, each with the port it came by: the higher priority, then the lower port. -/
def firstCause (a b : Nat × AbortRec) : Nat × AbortRec :=
  if causePriority b.2.cause < causePriority a.2.cause ∨ (causePriority b.2.cause = causePriority a.2.cause ∧ b.1 < a.1) then b else a

/-- The rank of the part's own detection, below every port (R67). -/
def ownRank : Nat := 256

/-- The record of a DONE verdict (Tables 4.4, 14.6); PART is the part that records it (log 75). -/
def doneRec (trav : Nat) (gen : BitVec 32) (part : Nat) : AbortRec := { gen := gen, traverse := trav, cause := 0, part := part }

/-- Header fields common to the frames of types 0x1 to 0x7 that crossbar port `src` of this part originates: FLOW is bits
[11:4] of TRAVERSE (R219). -/
def ownFields (s : State) (src type vc trav : Nat) (gen : BitVec 32) : List (Nat × Nat × Nat) :=
  [(0, 4, type), (4, 3, vc), (16, 8, trav / 16), (48, 16, s.number), (64, 8, src), (72, 12, trav), (88, 32, gen.toNat)]

/-- A CONTROL frame (R96): SURVEY is 0x8000 where the subtype names none but carries it (DONE); unused fields are zero. -/
def controlFrame (s : State) (src vc sub trav : Nat) (gen : BitVec 32) (datum survey : Int) (payload : Bytes) : Frame :=
  mkFrame (ownFields s src 7 vc trav gen ++
    [(173, 13, payload.length), (186, 9, unsignedOf 9 datum), (195, 16, unsignedOf 16 survey), (211, 8, sub)]) payload 0 0

end Sys2Proof.Machine
end

