-- ==== Sys2Proof/Machine/Code.lean ====
section
/-! DEFINITION. The 256/272 code of a port (11_lanes_and_ports.md): blocks and rows (R249), striping and the scrambler (R250), the identity
record (R255) and the link control word (R251) this part sends, and the row a port sends in a cell slot (R252, R254, R256, R257). -/
namespace Sys2Proof.Machine

/-! ### The scrambler (R250) -/

/-- The generator's 31 bits at the first data row of each lane (log 90). -/
def scramblerSeeds : List Nat := (List.range 8).map fun lane => 0x7FFFFFFF ^^^ lane

/-- The next `k` bits, at most 28, of the sequence b(n) = b(n - 31) + b(n - 28), and the generator after them; bit 0 is the oldest of its 31. -/
def scramblerBits (k h : Nat) : Nat × Nat :=
  let n := (h ^^^ (h >>> 3)) % 2 ^ k
  (n, (h >>> k) + n <<< (31 - k))

/-- The 256 bits that scramble one block's payload, and the generator after them. -/
def scramblerBlock (h : Nat) : Nat × Nat :=
  let r := (List.range 9).foldl (fun acc i => (acc.1 + (scramblerBits 28 acc.2).1 <<< (28 * i), (scramblerBits 28 acc.2).2)) (0, h)
  (r.1 + (scramblerBits 4 r.2).1 <<< 252, (scramblerBits 4 r.2).2)

/-- A row's payloads by lane, scrambled or unscrambled, and the generators after the row. -/
def scrambleRow (gens payloads : List Nat) : List Nat × List Nat :=
  ((payloads.zip gens).map fun e => e.1 ^^^ (scramblerBlock e.2).1, gens.map fun h => (scramblerBlock h).2)

/-! ### Striping (R250) and blocks (R249) -/

/-- The payloads of the eight lanes, from `8 k` bytes of a row: byte n travels on lane n mod 8 as its byte n / 8. -/
def lanesOf : Nat → Bytes → List Nat
  | 0, _ => List.replicate 8 0
  | k + 1, bs => List.zipWith (fun b n => b.toNat + 256 * n) (bs.take 8) (lanesOf k (bs.drop 8))

/-- The `8 k` bytes that the payloads of the eight lanes carry. -/
def bytesOfLanes : Nat → List Nat → Bytes
  | 0, _ => []
  | k + 1, ls => ls.map (BitVec.ofNat 8) ++ bytesOfLanes k (ls.map (· / 256))

/-- SYNC of a data row and of a training row (Table 11.1). -/
def syncData : Nat := 1
def syncTraining : Nat := 2

/-- A block: overhead SYNC, LANE and LCW_SLICE or TRC, then the payload. -/
def blockOf (sync lane slice payload : Nat) : BitVec 272 :=
  BitVec.ofNat 272 (packFields [(0, 2, sync), (2, 3, lane), (5, 11, slice), (16, 256, payload)])

/-- The marker of a training block (R254). -/
def trainingMarker : Nat := 0xC3A55A3C96F00F69

/-! ### The identity record this part sends (Table 11.4) -/

/-- PART, PORT, KIND part, MEMBER, PROTO and SERIAL; FINAL, NONCE and PEER_NONCE zero, as in UP (R257). -/
def identityOf (s : State) (p : Nat) : Nat :=
  packFields [(0, 16, s.number), (16, 8, p), (24, 4, 1), (28, 4, Config.memberCode), (32, 8, 1), (64, 64, s.trust.serial.toNat)]

/-- The record as training sends it, with FINAL, the attempt's NONCE and the neighbour's (R255, R256). -/
def trainingIdentity (s : State) (p : Nat) : Nat :=
  let x := s.port p
  identityOf s p + packFields [(40, 1, if x.finalSent then 1 else 0), (128, 32, x.nonce.toNat), (160, 32, x.peerNonce.toNat)]

/-! ### The link control word this part sends (Table 11.2) -/

/-- An echo is owed and goes in the next word: it has been owed for more than 1 µs, and no frame took it (R237). -/
def State.echoInWord (s : State) (p : Nat) : Bool := (s.link p).echoOwed.any fun at_ => at_ + 1000 < s.clock

/-- Bits [71:0] of the word of the port's next data row. -/
def wordFields (s : State) (p : Nat) : Nat :=
  let l := s.link p
  let n := l.rowCnt % 256
  packFields [(0, 8, n), (8, 16, l.creditOut.getD (n % 8) 0),
    (24, 16, if n % 16 < 12 then bitsAt (identityOf s p) (16 * (n % 16)) 16 else 0), (40, 1, if s.echoInWord p then 1 else 0),
    (41, 1, if l.cinit then 1 else 0), (42, 1, if 0 < l.cackRows then 1 else 0), (43, 1, if 0 < l.goingIdleRows then 1 else 0)]

/-- The word, with its LCW_CHECK. -/
def linkWord (s : State) (p : Nat) : Nat := wordFields s p + crc16 (leBytes 9 (wordFields s p)) <<< 72

/-! ### Rows sent -/

/-- Credit totals and U[v] start from zero (R252). -/
def clearCredits (l : Link) : Link :=
  { l with sentCells := List.replicate 8 0, creditIn := List.replicate 8 0, creditOut := List.replicate 8 0, owed := List.replicate 8 0
           returnAt := List.replicate 8 0 }

/-- A link starts anew: its credits, and nothing of the old words and byte streams (R260). -/
def clearLink (l : Link) : Link :=
  { clearCredits l with cinit := false, cackRows := 0, awaitAck := false, badWords := 0, slices := [], sliceRun := 0, lastAssembly := none
                        goingIdleAt := none, echoOwed := none, rx := [], skipping := false, rxVoid := false, tx := [] }

/-- This side starts credit initialisation: it sends CINIT, and discards what begins before CACK (R232, R252). -/
def startCinit (p : Nat) (s : State) : State :=
  s.setLink p fun l => { clearCredits l with cinit := true, awaitAck := true }

/-- The first data row of an attempt: the row count and the scrambler start, with CINIT (R250, R256). -/
def startData (p : Nat) (s : State) : State :=
  (startCinit p s).setLink p fun l => { l with rowCnt := 0, txScr := scramblerSeeds, tx := [] }

/-- A frame leaves on a port: into the port's byte stream, with zero bytes up to the next 8-byte boundary (R250). -/
def sendOut (p : Nat) (f : Frame) (s : State) : State :=
  let bs := frameBytes f
  State.setLink p (fun l => { l with tx := l.tx ++ bs ++ List.replicate ((8 - bs.length % 8) % 8) 0 })
    { s with sent := s.sent ++ [{ port := p, frame := f }] }

/-- One data row of a port: the next 256 bytes of its stream, filler after its end, scrambled by lane, with the link control word in slices. -/
def sendDataRow (p : Nat) (s : State) : State :=
  let l := s.link p
  let w := linkWord s p
  let bs := l.tx.take 256
  let r := scrambleRow l.txScr (lanesOf 32 (bs ++ List.replicate (256 - bs.length) 0))
  s.setLink p fun l =>
    { l with tx := l.tx.drop 256, txScr := r.2, rowCnt := (l.rowCnt + 1) % 256, cackRows := l.cackRows - 1
             goingIdleRows := l.goingIdleRows - 1, echoOwed := if s.echoInWord p then none else l.echoOwed
             rowOut := r.1.zipIdx.map fun e => blockOf syncData e.2 (bitsAt w (11 * e.2) 11) e.1 }

/-- One training row of a port: the same marker and record on every lane; after 16 rows with FINAL the port goes on with data rows (R254, R256). -/
def sendTrainingRow (p : Nat) (s : State) : State :=
  let x := s.port p
  let payload := trainingMarker + trainingIdentity s p <<< 64
  let s := s.setLink p fun l => { l with rowOut := (List.range 8).map fun lane => blockOf syncTraining lane x.trc payload }
  let s := s.setPort p fun x => { x with trc := (x.trc + 1) % 2048, finalRows := if x.finalSent then x.finalRows + 1 else 0 }
  if x.finalSent ∧ x.finalRows + 1 = 16 then startData p s else s

/-- The port's transmitter sends data rows: in UP, after its FINAL rows, and while it announces electrical idle (R256, R259). -/
def State.sendsData (s : State) (p : Nat) : Bool :=
  s.portUp p || 0 < (s.link p).goingIdleRows || ((s.port p).state == .training && 16 ≤ (s.port p).finalRows)

/-- The row a port sends in one cell slot: a data row, a training row in steps 2 to 7, or electrical idle (R249, R254, R261). -/
def sendRow (p : Nat) (s : State) : State :=
  if s.sendsData p then sendDataRow p s
  else if (s.port p).state = .training then sendTrainingRow p s
  else if (s.link p).rowOut = [] then s
  else s.setLink p fun l => { l with rowOut := [] }

/-- Every port sends its row of the cell slot. -/
def sendRows (s : State) : State := forEach (List.range 128) sendRow s

end Sys2Proof.Machine
end

