-- ==== Sys2Proof/Machine/Pool.lean ====
section
/-! DEFINITION. The cell pool (13_buffer_pool.md): partitions, free runs, search pointers and allocation (R286-R291), the
descriptor stores (R211), references and freeing (R212, R213, R222), and the pool record (R293). -/
namespace Sys2Proof.Machine

/-- Three-slice mode is in force (R201). -/
def Xbar.threeSlice (x : Xbar) : Bool := !x.failed.isEmpty
/-- The crossbar dies that work. -/
def Xbar.surviving (x : Xbar) : List Nat := (List.range 4).filter fun k => !x.failed.contains k

/-- The crossbar die that holds the records of crossbar port `c` (R13, R201 step 4). -/
def Xbar.portDie (x : Xbar) (c : Nat) : Nat :=
  let k := c % 4
  if x.failed.contains k then x.surviving.getD ((if c < 128 then c / 4 else (c - 128) / 4) % max 1 x.surviving.length) 0 else k

/-- Cells of one partition (R288, R292). -/
def Xbar.partSize (x : Xbar) : Nat := if x.threeSlice then 675840 else 506880
/-- Cells of one fallback buffer, and how many buffers there are. -/
def Xbar.bufCells (x : Xbar) : Nat := if x.threeSlice then 22 else 17
def Xbar.bufCount (x : Xbar) : Nat := if x.threeSlice then 3165 else 4096
/-- First cell of fallback buffer `n` (R288). -/
def Xbar.bufFirst (x : Xbar) (n : Nat) : Nat := 2027520 + x.bufCells * n

/-- Partitions in the order crossbar port `c` searches them (R288, R292). -/
def Xbar.partOrder (x : Xbar) (c : Nat) : List Nat :=
  let n := x.free.length
  let start := if x.threeSlice then x.surviving.findIdx (· == x.portDie c) else c % 4
  (List.range n).map fun i => (start + i) % max 1 n

/-! ### Runs of free cells -/

/-- Total length of runs. -/
def runLen (rs : List (Nat × Nat)) : Nat := rs.foldl (fun a r => a + r.2) 0

/-- Free runs as a search from cell `p` meets them, wrapping once (R289). -/
def runsFrom (p : Nat) (rs : List (Nat × Nat)) : List (Nat × Nat) :=
  (rs.filterMap fun r => if r.1 + r.2 ≤ p then none else if r.1 < p then some (p, r.1 + r.2 - p) else some r) ++
  (rs.filterMap fun r => if r.1 < p then some (r.1, min r.2 (p - r.1)) else none)

/-- Takes `c` cells from at most `n` of the runs, only what is needed of the last (R289). -/
def takeRuns : Nat → Nat → List (Nat × Nat) → Option (List (Nat × Nat))
  | _, 0, _ => some []
  | 0, _ + 1, _ => none
  | _ + 1, _ + 1, [] => none
  | n + 1, c + 1, r :: rs =>
    if r.2 ≥ c + 1 then some [(r.1, c + 1)] else (takeRuns n (c + 1 - r.2) rs).map (r :: ·)

/-- Free runs with the cells of one run taken out. -/
def runsTake (t : Nat × Nat) (rs : List (Nat × Nat)) : List (Nat × Nat) :=
  rs.flatMap fun r =>
    if t.1 + t.2 ≤ r.1 ∨ r.1 + r.2 ≤ t.1 then [r]
    else (if r.1 < t.1 then [(r.1, t.1 - r.1)] else []) ++
         (if t.1 + t.2 < r.1 + r.2 then [(t.1 + t.2, r.1 + r.2 - (t.1 + t.2))] else [])

/-- Free runs with one run put back, joined with the runs it touches: runs stay maximal. -/
def runsGive (t : Nat × Nat) (rs : List (Nat × Nat)) : List (Nat × Nat) :=
  let left := rs.filter fun r => r.1 + r.2 < t.1
  let right := rs.filter fun r => t.1 + t.2 < r.1
  let touch := rs.filter fun r => t.1 ≤ r.1 + r.2 ∧ r.1 ≤ t.1 + t.2
  let lo := touch.foldl (fun m r => min m r.1) t.1
  let hi := touch.foldl (fun m r => max m (r.1 + r.2)) (t.1 + t.2)
  left ++ (lo, hi - lo) :: right

/-- The search pointer of partition `k` for crossbar port `c`: the partition's first cell until it has moved (R288). -/
def Xbar.ptr (x : Xbar) (k c : Nat) : Nat := ((x.ptrs.find? fun e => e.1 == (k, c)).map (·.2)).getD (k * x.partSize)

/-- A cell string for a frame of `c` cells from crossbar port `cp` (R289): runs taken from the first partition that has
them in at most four. -/
def Xbar.allocString (x : Xbar) (cp c : Nat) : Option (List (Nat × Nat) × Xbar) :=
  (x.partOrder cp).findSome? fun k =>
    match takeRuns 4 c (runsFrom (x.ptr k cp) (x.free.getD k [])) with
    | none => none
    | some rs =>
      let next := match rs.getLast? with
        | some r => r.1 + r.2
        | none => x.ptr k cp
      some (rs, { x with free := x.free.modify k fun fr => rs.foldl (fun fr r => runsTake r fr) fr
                         ptrs := ((k, cp), next) :: x.ptrs.filter fun e => e.1 != (k, cp) })

/-- The lowest-numbered free fallback buffer (R289). -/
def Xbar.allocFallback (x : Xbar) : Option Nat := (List.range x.bufCount).find? fun n => !x.fallbackUsed.contains n

/-- Free cells F of R235 (R291). -/
def Xbar.freeCells (x : Xbar) : Nat :=
  x.free.foldl (fun a rs => a + runLen rs) 0 + x.bufCells * (x.bufCount - x.fallbackUsed.length)

/-! ### Queues and descriptors -/

/-- Queue number: 2,048 × port + 256 × VC + class at an external port (R226); eight queues at an internal one (R14). -/
def queueKey (o vc cls : Nat) : Nat := if o < 128 then 2048 * o + 256 * vc + cls else 262144 + 8 * (o - 128) + vc
def queuePort (q : Nat) : Nat := if q < 262144 then q / 2048 else 128 + (q - 262144) / 8
def queueVc (q : Nat) : Nat := if q < 262144 then q / 256 % 8 else (q - 262144) % 8
def queueClass (q : Nat) : Nat := q % 256

/-- The axis of a frame: of its traverse or tally for types 0x1 to 0x7, FLOW[7:6] for the others (R188). -/
def axisOf (f : Frame) : Nat := if f.type ≤ 7 then f.traverse / 1024 else f.flow / 64

/-- Queue class of a frame (R226). -/
def classOf (f : Frame) : Nat := axisOf f * 64 + f.flow % 64

/-- A frame record by its first cell. -/
def Xbar.record (x : Xbar) (id : Nat) : Option FrameRec := x.records.find? fun r => r.id = id
def Xbar.setRecord (id : Nat) (f : FrameRec → FrameRec) (x : Xbar) : Xbar :=
  { x with records := x.records.map fun r => if r.id = id then f r else r }
def Xbar.queue (x : Xbar) (q : Nat) : Queue := (tget q x.queues).getD {}
/-- A queue replaced; one without descriptors or deficit is unlisted. -/
def Xbar.setQueue (q : Nat) (v : Queue) (x : Xbar) : Xbar :=
  { x with queues := if v = {} then tdel q x.queues else tset q v x.queues }
def Xbar.output (x : Xbar) (o : Nat) : Output := (tget o x.outputs).getD {}
def Xbar.setOutput (o : Nat) (v : Output) (x : Xbar) : Xbar := { x with outputs := tset o v x.outputs }
def Xbar.input (x : Xbar) (i : Nat) : Input := (tget i x.inputs).getD {}
def Xbar.setInput (i : Nat) (v : Input) (x : Xbar) : Xbar := { x with inputs := tset i v x.inputs }

/-- Records a resequencer holds references of: frames on their way to delivery and frames held (R212). -/
def Reseq.holds (r : Reseq) : List Nat :=
  r.arrivals.filterMap (·.record) ++ r.flows.flatMap fun f => f.held.filterMap fun h => h.rx.record

/-- The references found for output `o`: record and VC, from its queues, the copy it sends, and, at an internal output, the
resequencer behind it (R212, R235). -/
def State.references (s : State) (o : Nat) : List (Nat × Nat) :=
  (s.xbar.queues.filter fun e => queuePort e.1 = o).flatMap (fun e => e.2.descs.map fun d => (d.record, queueVc e.1)) ++
  (match (s.xbar.output o).sending with
   | some sd => [(sd.desc.record, queueVc sd.queue)]
   | none => []) ++
  (if o < 128 then
     ((s.chiplets.getD (o / 4) {}).egress.flows.flatMap fun f => f.held.filterMap fun h =>
        if h.rx.port = o then h.rx.record.map fun r => (r, 7) else none) ++
     ((s.chiplets.getD (o / 4) {}).egress.arrivals.filterMap fun x => if x.port = o then x.record.map fun r => (r, 7) else none)
   else if o < 158 then (s.die (o - 128)).reseq.holds.map fun r => (r, ((s.xbar.record r).map (·.frame.vc)).getD 1)
   else s.mdReseq.holds.map fun r => (r, 7))

/-- Cells charged to output `o`, on one VC or on all (R235): frames looked up and not yet released. -/
def State.charged (s : State) (o : Nat) (vc : Option Nat) : Nat :=
  let waiting := s.xbar.inputs.foldl (fun a e => e.2.staging.foldl (fun a st =>
    if st.record = none ∧ st.targets.contains o ∧ (vc = none ∨ vc = some st.vc) then a + st.cells else a) a) 0
  (s.references o).foldl (fun a r =>
    if vc = none ∨ vc = some r.2 then a + ((s.xbar.record r.1).map (·.cells)).getD 0 else a) waiting

/-- Cells charged to queue `q` of an external port (R228, R235): the frames its descriptors name, the one its output sends from it,
those looked up to it that wait for their cells, and on VC7 those its egress resequencer holds. -/
def State.queueDepth (s : State) (q : Nat) : Nat :=
  let o := queuePort q
  let own := (s.xbar.queue q).descs.map (·.record)
  let out := match (s.xbar.output o).sending with
    | some sd => if sd.queue = q then [sd.desc.record] else []
    | none => []
  let egress := if queueVc q = 7 ∧ o < 128 then
      (s.references o).filterMap fun r =>
        if r.2 = 7 ∧ (s.chiplets.getD (o / 4) {}).egress.holds.contains r.1 ∧
          ((s.xbar.record r.1).map fun d => classOf d.frame) = some (queueClass q) then some r.1 else none
    else []
  let waiting := s.xbar.inputs.foldl (fun a e => e.2.staging.foldl (fun a st =>
    if st.record = none ∧ st.targets.any (fun t => queueKey t st.vc (classOf st.frame) == q) then a + st.cells else a) a) 0
  (own ++ out ++ egress).foldl (fun a id => a + ((s.xbar.record id).map (·.cells)).getD 0) waiting

/-- Descriptor entries in use on crossbar die `k` (R211). -/
def State.descUsed (s : State) (k : Nat) : Nat :=
  (List.range Config.xports).foldl (fun a o => if s.xbar.portDie o = k then a + (s.references o).length else a) 0

/-- The store of die `k` has room for `n` more descriptor entries (R211). -/
def State.descRoom (s : State) (k n : Nat) : Bool := s.descUsed k + n ≤ 1048576

/-! ### In-flight counts (R222) -/

/-- ORDERED class: VC0, VC2, VC3 and VC6. -/
def orderedVc (vc : Nat) : Bool := vc == 0 || vc == 2 || vc == 3 || vc == 6

/-- One more frame in flight under the current epoch. -/
def flightUp (ordered : Bool) (s : State) : State :=
  s.setRoutes fun r => if ordered then { r with ordered := r.ordered + 1 } else { r with other := r.other + 1 }

/-- One frame of `epoch` less in flight (R213). -/
def flightDown (epoch : Nat) (ordered : Bool) (s : State) : State :=
  s.setRoutes fun r =>
    if epoch = r.epoch then
      if ordered then { r with ordered := r.ordered - 1 } else { r with other := r.other - 1 }
    else if ordered then { r with prevOrdered := r.prevOrdered - 1 } else { r with prevOther := r.prevOther - 1 }

/-! ### Credits returned to a neighbour (R230, R232, R239) -/

/-- KIND of the neighbour's identity record (Table 11.4). -/
def State.neighbourKind (s : State) (p : Nat) : Nat := bitsAt (s.port p).neighbour.toNat 24 4
/-- PART of the neighbour's identity record. -/
def State.neighbourPart (s : State) (p : Nat) : Nat := bitsAt (s.port p).neighbour.toNat 0 16
/-- The port's last identity exchange named an accelerator endpoint (R220, R239). -/
def State.endpointPort (s : State) (p : Nat) : Bool := s.neighbourKind p == 2

/-- MARK and THROTTLE of a VC (Table 10.2). -/
def markAt (vc : Nat) : Option (Nat × Nat) :=
  if vc = 1 ∨ vc = 5 then some (2048, 8192) else if vc = 4 then some (1024, 4096) else if vc = 7 then some (256, 1024) else none

/-- The head frame of a VC in staging, by its place. -/
def Input.headOf (i : Input) (vc : Nat) : Option (Nat × Staged) :=
  (i.staging.zipIdx.find? fun e => e.1.vc = vc).map fun e => (e.2, e.1)

/-- Greatest D(o, v) over the targets of the head frame staged on VC `vc` of input `p`. -/
def State.headCharge (s : State) (p vc : Nat) : Nat :=
  match (s.xbar.input p).headOf vc with
  | none => 0
  | some (_, st) => st.targets.foldl (fun m o => max m (s.charged o (some vc))) 0

/-- Cell slots between two credits of a VC that injection throttling allows; 0 where it does not apply (R239). -/
def State.injectionGap (s : State) (p vc : Nat) : Nat :=
  match markAt vc with
  | none => 0
  | some (_, throttle) =>
    if !s.endpointPort p then 0
    else if s.headCharge p vc ≥ 2 * throttle then 8
    else if s.headCharge p vc ≥ throttle then 2
    else 0

/-- Cell slots between two credits of a VC: the slowest of injection throttling, of the power loop's throttle of the port's group, whose rate the
spec does not give, and of the lane chiplet's hardware throttle, which halves its injection (R24, R232, Table 16.9, log 89). -/
def State.returnGap (s : State) (p vc : Nat) : Nat :=
  max (max (s.injectionGap p vc) (if (s.group (groupOfPort p)).throttled then Config.throttleGap else 0))
    (if s.supply.hotDies.contains (p / 4) then 2 else 0)

/-- In three-slice mode a port returns at most three credits in four cell slots, one per 1.707 ns (R202, R232). -/
def threeSliceTurn (n : Nat) : Bool := 3 * (n + 1) / 4 - 3 * n / 4 == 1

/-- `n` held credits of VC `vc` go into CREDIT_TOTAL. -/
def Link.release (vc n : Nat) (l : Link) : Link :=
  { l with owed := l.owed.modify vc (· - n), creditOut := l.creditOut.modify vc (· + n) }

/-- Credits `n` of VC `vc` are returned on an external port: at once where no limit holds them back (R230-R232). -/
def returnCredits (port vc n : Nat) (s : State) : State :=
  if port < 128 then
    let s := s.setLink port fun l => { l with owed := l.owed.modify vc (· + n) }
    if s.xbar.threeSlice ∨ s.returnGap port vc ≠ 0 then s
    else s.setLink port fun l => l.release vc (l.owed.getD vc 0)
  else s

/-- The credits of one VC that a port returns in cell slot `n`: all where nothing limits it, else one where its turn has come. -/
def returnTurn (n p vc : Nat) (s : State) : State :=
  let l := s.link p
  if l.owed.getD vc 0 = 0 then s
  else
    let gap := s.returnGap p vc
    if gap = 0 ∧ !s.xbar.threeSlice then s.setLink p fun l => l.release vc (l.owed.getD vc 0)
    else if n < l.returnAt.getD vc 0 then s
    else s.setLink p fun l => { l.release vc 1 with returnAt := l.returnAt.set vc (n + max 1 gap) }

/-- The VCs of a port that hold credits back and whose turn has come in cell slot `n`. -/
def Link.dueVcs (n : Nat) (l : Link) : List Nat := (List.range 8).filter fun v => 0 < l.owed.getD v 0 && l.returnAt.getD v 0 ≤ n

/-- A cell slot's returns of held credits (R232, R239). In three-slice mode one credit of a port in its turn, of the lowest VC whose turn has
come, VCs in rotation with the slots (log 89). -/
def returnSlot (n : Nat) (s : State) : State :=
  forEach ((List.range 128).filter fun p => (s.link p).owed.any (0 < ·)) (fun p s =>
    let due := (s.link p).dueVcs n
    if s.xbar.threeSlice then
      if threeSliceTurn n then
        match (due.find? fun v => n % 8 ≤ v).or due.head? with
        | some v => returnTurn n p v s
        | none => s
      else s
    else forEach due (returnTurn n p) s) s

/-- Credits a staged frame has had returned: one for each 256-byte cell of it that has left staging (R230). -/
def Staged.returned (st : Staged) : Nat :=
  let n := creditsOf st.frame.payload.length
  if st.written ≥ st.cells then n else min st.written n

/-- Cells of a freed frame that are still in staging are discarded, and their credits returned (R230). -/
def dropStaged (id : Nat) (s : State) : State :=
  (s.xbar.inputs.flatMap fun e => (e.2.staging.filter fun st => st.record = some id).map fun st => (e.1, st)).foldl (fun s e =>
    let left := creditsOf e.2.frame.payload.length - e.2.returned
    let s := s.setXbar fun x => x.setInput e.1 { x.input e.1 with
      staging := (x.input e.1).staging.filter fun st => st.record ≠ some id }
    returnCredits e.1 e.2.vc left s) s

/-- A frame record is freed: its cells or buffer return at the end of the cell slot (R213, R291). -/
def freeRecord (r : FrameRec) (s : State) : State :=
  flightDown r.epoch r.ordered ((dropStaged r.id s).setXbar fun x =>
    { x with records := x.records.filter fun q => q.id ≠ r.id, freeing := x.freeing ++ [(r.runs, r.fallback)] })

/-- One reference of a frame record is released; the last one frees the frame (R212, R213). -/
def releaseRef (id : Nat) (s : State) : State :=
  match s.xbar.record id with
  | none => s
  | some r =>
    if r.ref ≤ 1 then freeRecord r s else s.setXbar (Xbar.setRecord id fun r => { r with ref := r.ref - 1 })

/-- The end of a cell slot: what was freed in it becomes free (R291). -/
def settleFreed (x : Xbar) : Xbar :=
  x.freeing.foldl (fun x f =>
    match f.2 with
    | some n => { x with fallbackUsed := x.fallbackUsed.erase n }
    | none => f.1.foldl (fun x r => { x with free := x.free.modify (r.1 / x.partSize) (runsGive r) }) x) { x with freeing := [] }

/-! ### Allocation for a staged frame (R289) -/

/-- Descriptors of a frame placed on its target queues (R210). -/
def placeDescs (id cls : Nat) (st : Staged) (now : Nat) (x : Xbar) : Xbar :=
  let x := st.targets.foldl (fun x o =>
    let q := queueKey o st.vc cls
    x.setQueue q { x.queue q with descs := (x.queue q).descs ++ [{ record := id, at_ := now }] }) x
  match st.mirror with
  | some o =>
    let q := queueKey o 6 255
    x.setQueue q { x.queue q with descs := (x.queue q).descs ++ [{ record := id, at_ := now, mirror := true }] }
  | none => x

/-- The targets' dies all have room for the frame's descriptors (R211). -/
def descsFit (s : State) (targets : List Nat) : Bool :=
  (List.range 4).all fun k =>
    let n := (targets.filter fun o => s.xbar.portDie o = k).length
    n = 0 || s.descRoom k n

/-- One session's count of copies or drops raised (Table 9.3). -/
def countMirror (i : Nat) (taken : Bool) (s : State) : State :=
  let s := { s with monitor := { s.monitor with sessions := lmap i (fun m =>
    if taken then { m with copies := m.copies + 1 } else { m with drops := m.drops + 1 }) s.monitor.sessions } }
  if taken then s else s.bump Counter.mirrorDrop partWide

/-- The frame record of a staged frame that takes its cells. -/
def Staged.toRecord (st : Staged) (id no now : Nat) (runs : List (Nat × Nat)) (fb : Option Nat) : FrameRec :=
  { id := id, no := no, frame := st.frame, port := st.port, handed := st.handed, runs := runs, fallback := fb, cells := st.cells
    ref := st.targets.length + (if st.mirror.isSome then 1 else 0), epoch := st.frame.epoch
    ordered := orderedVc st.vc, taint := st.frame.taint, allocAt := now }

/-- A staged frame takes the cells `runs` or the fallback buffer `fb`: its record, and its descriptors (R287, R210). -/
def placeFrame (input idx : Nat) (st : Staged) (id : Nat) (runs : List (Nat × Nat)) (fb : Option Nat) (now : Nat) (x : Xbar) : Xbar :=
  let i := x.input input
  placeDescs id (classOf st.frame) st now
    (({ x with records := x.records ++ [st.toRecord id x.allocCount now runs fb], allocCount := x.allocCount + 1 }).setInput input
      { i with staging := i.staging.set idx { st with record := some id } })

/-- A mirror copy whose descriptor finds no entry beside those of the frame's targets, or whose port has gone down, is not taken; a copy taken
is counted (R211, R215). -/
def settleMirror (st : Staged) (s : State) : Staged × State :=
  match st.mirror with
  | none => (st, s)
  | some a =>
    let k := s.xbar.portDie a
    if s.portUp a && s.descRoom k ((st.targets.filter fun o => s.xbar.portDie o = k).length + 1) then (st, countMirror st.session true s)
    else ({ st with mirror := none }, countMirror st.session false s)

/-- Staged frame `st` at place `idx` of an input takes its cells and descriptors, or waits (R289-R291). -/
def takeCells (input idx : Nat) (st : Staged) (s : State) : State × Bool :=
  if !descsFit s st.targets then (s, false)
  else
    match s.xbar.allocString input st.cells with
    | some (runs, x) =>
      let (st, s) := settleMirror st { s with xbar := x }
      (s.setXbar (placeFrame input idx st ((runs.head?.map (·.1)).getD 0) runs none s.clock), true)
    | none =>
      match s.xbar.allocFallback with
      | some n =>
        let (st, s) := settleMirror st (s.setXbar fun x => { x with fallbackUsed := x.fallbackUsed ++ [n] })
        (State.bump Counter.fallbackUses partWide (s.setXbar (placeFrame input idx st (s.xbar.bufFirst n) [] (some n) s.clock)), true)
      | none => (s, false)

/-- A staged frame without cells leaves staging undelivered: it is no longer in flight, and its credits are returned (R213, R230). -/
def dropWaiting (input idx : Nat) (st : Staged) (s : State) : State :=
  let s := s.setXbar fun x => x.setInput input { x.input input with staging := (x.input input).staging.eraseIdx idx }
  returnCredits input st.vc (creditsOf st.frame.payload.length) (flightDown st.frame.epoch (orderedVc st.vc) s)

/-- Tries to give the head frame of a VC of an input its cells and descriptors; true where it no longer waits. A target that has gone down
since the lookup is discarded as on arrival at its queues, and a frame without any target with it (R244, R289). -/
def tryAlloc (input vc : Nat) (s : State) : State × Bool :=
  match (s.xbar.input input).headOf vc with
  | none => (s, true)
  | some (idx, st) =>
    if st.record.isSome then (s, true)
    else
      let down := st.targets.filter fun o => o < 128 && !s.portUp o
      let s := forEach down (fun o => State.bump Counter.portFlush o) s
      let st := { st with targets := st.targets.filter fun o => !down.contains o }
      if st.targets.isEmpty then
        (dropWaiting input idx st (if st.mirror.isSome then countMirror st.session false s else s), true)
      else
        takeCells input idx st (s.setXbar fun x => x.setInput input { x.input input with staging := (x.input input).staging.set idx st })

/-- An input counts one ALLOC_STALL for a cell slot in which a frame of it waits for its cells (R211, R289). -/
def countStall (input : Nat) (s : State) : State :=
  if (s.xbar.input input).stalledAt = some s.xbar.slots then s
  else (s.setXbar fun x => x.setInput input { x.input input with stalledAt := some x.slots }).bump Counter.allocStall partWide

/-- The head frame of a VC asks for its cells; where it goes on waiting, the slot counts (R289). -/
def askCells (input vc : Nat) (s : State) : State :=
  let (t, done) := tryAlloc input vc s
  if done then t else countStall input t

/-- Every head frame that waits asks for its cells: inputs in rising crossbar port number (R289). -/
def allocSlot (s : State) : State :=
  forEach (s.xbar.inputs.map (·.1)) (fun i s => forEach (List.range 8) (askCells i) s) s

/-! ### The pool record (R293) -/

/-- The 64-byte pool record of Table 13.2. -/
def poolRecord (s : State) : Bytes :=
  let x := s.xbar
  let dies := x.surviving
  let desc := dies.foldl (fun a k => a + (1048576 - s.descUsed k)) 0
  leBytes 64 (packFields
    [(0, 22, x.free.foldl (fun a rs => a + runLen rs) 0), (24, 13, x.bufCount - x.fallbackUsed.length),
     (37, 1, if x.threeSlice then 1 else 0), (38, 2, x.failed.headD 0), (40, 23, desc),
     (64, 32, x.free.foldl (fun a rs => a + rs.length) 0), (96, 32, s.counter Counter.fallbackUses partWide),
     (128, 32, s.counter Counter.allocStall partWide), (160, 32, x.reclaimed), (192, 32, x.audits.toNat),
     (224, 32, x.orphans), (256, 32, x.leakCells)])

end Sys2Proof.Machine
end

