-- ==== Sys2Proof/Machine/Crossbar.lean ====
section
/-! DEFINITION. The switch core's shared operations (09_switch_core.md, 10_fabric_flow_control.md): a frame's parcel (R214),
queue classes (R227), bearings and spraying (R233, R234), the lookup that places a frame in staging (R210, R215, R222,
R236), flushing (R244), arbitration (R240-R242), and the frames the part itself sends (R218, R219). -/
namespace Sys2Proof.Machine

/-! ### Parcels and bearings -/

/-- A stream's record on the active timebase die. -/
def State.stream (s : State) (n : Nat) : Stream := ((s.timebases.getD s.refclk.active {}).streams).getD n {}

/-- The parcel of a frame (R214): of its traverse or tally, of its stream, or of its route entry. -/
def frameParcel (s : State) (f : Frame) : Option Nat :=
  match f.type with
  | 7 => if f.subtype = 7 ∨ f.subtype = 8 ∨ f.subtype = 9 ∨ f.subtype = 0xB then (s.tally f.traverse).map (·.parcel)
         else (s.traverse f.traverse).map (·.ctx.parcel)
  | 8 => some (s.stream f.stream).parcel
  | 9 | 10 | 11 => (tget f.destPart s.routes.current).map (·.parcel)
  | _ => (s.traverse f.traverse).map (·.ctx.parcel)

/-- A plat's own grant of class `cls` on external port `p` (Table 17.11). -/
def Plat.grants (pl : Plat) (p cls : Nat) : Bool := pl.ports.getLsbD p && pl.flows.getLsbD (cls % 64)

/-- Queue class `cls` on external port `p` is granted to the parcel (R227): by its plat, and to parcel 0 where no other
parcel's plat grants it (R369). -/
def State.granted (s : State) (parcel p cls : Nat) : Bool :=
  if parcel = 0 then !(s.parcels.any fun e => e.1 != 0 && e.2.plat.grants p cls)
  else match s.parcel parcel with
    | some pc => pc.plat.grants p cls
    | none => false

/-- The parcel a class is granted to on a port: another parcel before parcel 0, which holds every class (R369). -/
def State.classParcel (s : State) (p cls : Nat) : Option Nat :=
  let hold := (s.parcels.filter fun e => e.2.plat.grants p cls).map (·.1)
  (hold.find? (· ≠ 0)).or hold.head?

/-- The bearing of a parcel's current phase plat that holds a port (R192). -/
def State.bearing (s : State) (parcel p : Nat) : Option Bearing :=
  match s.parcel parcel with
  | some pc => (pc.phases.getD pc.selected {}).bearings.find? fun b => b.ports.getLsbD p
  | none => none

/-- Set bits of a port mask, lowest first. -/
def maskPorts (m : BitVec 128) : List Nat := (List.range 128).filter fun p => m.getLsbD p

/-- Up ports of a bearing that are in its spray set (R190). -/
def State.sprayPorts (s : State) (b : Bearing) : List Nat :=
  (maskPorts b.ports).filter fun p => s.portUp p && !b.excluded.getLsbD p

/-- A bearing without SPRAY keeps its lowest candidate; the eligible set is the 64 lowest candidates (R233). -/
def limitSet (spray : Bool) (ps : List Nat) : List Nat := if spray then ps.take 64 else ps.take 1

/-- Eligible set of a destination-table frame with MCAST = 0 (R233). -/
def eligibleDest (s : State) (parcel : Nat) (ports : BitVec 128) : List Nat :=
  let up := (maskPorts ports).filter s.portUp
  match up.head? with
  | none => []
  | some p0 =>
    match s.bearing parcel p0 with
    | some b => limitSet b.spray (up.filter fun p => b.ports.getLsbD p && !b.excluded.getLsbD p)
    | none => limitSet true (up.filter fun p => (s.bearing parcel p).isNone)

/-- Eligible set of a frame of types 0x1 to 0x7 toward the port its context names (R233). -/
def eligibleCtx (s : State) (parcel p : Nat) : List Nat :=
  match s.bearing parcel p with
  | some b =>
    if b.spray then limitSet true ((List.range 128).filter fun q => (q = p ∧ s.portUp p) ∨ (s.sprayPorts b).contains q)
    else if s.portUp p then [p] else []
  | none => if s.portUp p then [p] else []

/-! ### Choosing a port (R234) -/

/-- Sequenced VCs and VC4 spray by frame; the others by source flow (Table 9.5). -/
def spraysByFrame (vc : Nat) : Bool := vc == 1 || vc == 4 || vc == 5 || vc == 7

/-- The element with the least score, the first such. -/
def argMin (score : Nat → Nat) : List Nat → Option Nat
  | [] => none
  | x :: xs => some (xs.foldl (fun best y => if score y < score best then y else best) x)

/-- Highest-score choice of a source flow (R234): CRC-16 over SRC_PART, SRC_PORT, FLOW and the port. -/
def flowScore (f : Frame) (o : Nat) : Nat :=
  crc16 [BitVec.ofNat 8 f.srcPart, BitVec.ofNat 8 (f.srcPart / 256), BitVec.ofNat 8 f.srcPort, BitVec.ofNat 8 f.flow,
    BitVec.ofNat 8 o]

/-- The port an eligible set gives a frame, and the state with the spray pointer moved (R234). -/
def chooseSpray (input : Nat) (f : Frame) (set : List Nat) (s : State) : Option Nat × State :=
  match set with
  | [] => (none, s)
  | [p] => (some p, s)
  | _ =>
    if spraysByFrame f.vc then
      let i := s.xbar.input input
      let ptr := i.spray.getD f.vc 0
      let order := (set.filter fun p => ptr ≤ p) ++ set.filter fun p => p < ptr
      match argMin (fun o => s.charged o (some f.vc)) order with
      | none => (none, s)
      | some p => (some p, s.setXbar fun x => x.setInput input { i with spray := i.spray.set f.vc ((p + 1) % 128) })
    else
      let ready := set.filter fun p => !s.xbar.joining.any fun j => j.1 = p
      (argMin (fun o => 65535 - flowScore f o) (if ready.isEmpty then set else ready), s)

/-! ### The lookup: class grants, marks, mirror, staging -/

/-- The lowest-numbered mirror session that takes a frame (R214). -/
def mirrorSession (s : State) (arrival : Nat) (f : Frame) (targets : List Nat) : Option Nat :=
  (s.monitor.sessions.zipIdx.find? fun e =>
    let m := e.1
    m.valid && (frameParcel s f == some m.parcel) &&
    (match m.match_ with
     | 0 => arrival == m.port
     | 1 => targets.contains m.port
     | 2 => f.srcPart == m.srcPart && f.srcPort == m.srcPort && f.flow == m.flow
     | _ => false)).map (·.2)

/-- Whether a copy is to be taken, at the lookup: the analysis port is up and its VC6 queues hold less than MIRROR_LIMIT (R215); its
descriptor is found with the frame's cells (R211). -/
def mirrorOk (s : State) : Bool :=
  let a := s.monitor.analysisPort
  a < 128 && s.portUp a && s.charged a (some 6) < s.monitor.limit

/-- Places a frame with its targets in the staging of an input: class grants (R227), ports that are down (R244), EPOCH
and in-flight count (R222), CM (R236), mirror (R214, R215). A frame left without a target is discarded. The frame then
asks for its cells (R289). -/
def stageFrame (input arrival : Nat) (handed : Bool) (f : Frame) (targets : List Nat) (s : State) : State :=
  let cls := classOf f
  let ungranted := targets.filter fun o => o < 128 && !(match frameParcel s f with
    | some p => s.granted p o cls
    | none => true)
  let s := forEach ungranted (fun o => State.bump Counter.platMiss o) s
  let targets := targets.filter fun o => !ungranted.contains o
  let down := targets.filter fun o => o < 128 && !s.portUp o
  let s := forEach down (fun o => State.bump Counter.portFlush o) s
  let targets := targets.filter fun o => !down.contains o
  if targets.isEmpty then s
  else
    let marked := match markAt f.vc with
      | some (m, _) => targets.any fun o => s.charged o (some f.vc) ≥ m
      | none => false
    let h := withBits f.header 9 2 s.routes.epoch
    let h := if marked then withBits h 7 1 1 else h
    let f := { f with header := withHcrc h }
    let session := mirrorSession s arrival f targets
    let take := session.isSome && mirrorOk s
    let s := match session with
      | some i => if take then s else countMirror i false s
      | none => s
    let s := flightUp (orderedVc f.vc) s
    let i := s.xbar.input input
    let st : Staged :=
      { vc := f.vc, frame := f, port := arrival, handed := handed, targets := targets
        mirror := if take then some s.monitor.analysisPort else none
        session := session.getD 0
        cells := cellsOf s.xbar.threeSlice f.payload.length }
    let s := s.setXbar fun x => x.setInput input { i with staging := i.staging ++ [st] }
    askCells input f.vc s

/-- Cells of each VC that a port's staging holds and has not returned: U[v] as its receiver knows it (R203, R230). Results that await their lookup
are staged too. -/
def State.occupied (s : State) (p : Nat) : List Nat :=
  (List.range 8).map fun v =>
    (s.xbar.lookup.filter fun r => r.port = p ∧ r.frame.vc = v).foldl (fun a r => a + creditsOf r.frame.payload.length)
      ((s.xbar.input p).staging.foldl (fun a st => if st.vc = v then a + (creditsOf st.frame.payload.length - st.returned) else a) 0)

/-- Frames in a port's staging, with the results that await their lookup. -/
def State.stagedAt (s : State) (p : Nat) : Nat :=
  (s.xbar.input p).staging.length + (s.xbar.lookup.filter fun r => r.port = p).length

/-- A frame that arrived on a port and left nothing in its staging has its credits returned (R230, R400). -/
def ingressCredits (port : Nat) (f : Frame) (before s : State) : State :=
  if s.stagedAt port = before.stagedAt port then returnCredits port f.vc (creditsOf f.payload.length) s else s

/-- Sends a frame of types 0x1 to 0x7 from an internal input toward one context port: spray over its eligible set (R233),
or NO_PATH. -/
def sendToward (input : Nat) (f : Frame) (port : Nat) (s : State) : State :=
  let (choice, s) := chooseSpray input f (eligibleCtx s ((frameParcel s f).getD 0) port) s
  match choice with
  | some o => stageFrame input input false f [o] s
  | none => s.bump Counter.noPath port

/-- Sends a frame down to several targets, each by its own descriptor; to one target as `sendToward` (R233). -/
def sendDown (input : Nat) (f : Frame) (targets : List Nat) (s : State) : State :=
  match targets with
  | [] => s
  | [o] => if o < 128 then sendToward input f o s else stageFrame input input false f [o] s
  | _ => stageFrame input input false f targets s

/-! ### SEQ of the part's own frames (R106, R218, R219) -/

/-- The next SEQ of one of a source's counters and whether the frame carries RESYNC: its first, or the first after 10 ms. -/
def nextSeq (now : Nat) (key : Nat × Nat × Nat) (l : List ((Nat × Nat × Nat) × (BitVec 24 × Nat))) :
    (BitVec 24 × Bool) × List ((Nat × Nat × Nat) × (BitVec 24 × Nat)) :=
  match l.find? fun e => e.1 == key with
  | none => ((0, true), l ++ [(key, (1, now))])
  | some e => ((e.2.1, e.2.2 + 10000000 ≤ now), l.map fun d => if d.1 == key then (key, (e.2.1 + 1, now)) else d)

/-- SEQ and RESYNC written into a sequenced frame; its CRC and HCRC recomputed. -/
def withSeq (f : Frame) (seq : BitVec 24) (resync : Bool) : Frame :=
  let h := withBits (withBits f.header 24 24 seq.toNat) 15 1 (if resync then 1 else 0)
  let f := { f with header := withHcrc h }
  { f with trailer := BitVec.ofNat 128 (f.trailer.toNat - f.crc <<< 64 + frameCrc f <<< 64) }

/-- Sends a sequenced frame (VC1, VC5) from ledger die `i` up-tree on `port`: its counter is that of (FLOW, neighbour part,
sequencing index), the index being (TRAVERSE + CHAIN) mod 30 (R218, R219). -/
def sendUp (i : Nat) (f : Frame) (port : Nat) (s : State) : State :=
  let key := (f.flow, s.neighbourPart port, (f.traverse + f.chain) % Config.pairs)
  let ((q, r), l) := nextSeq s.clock key (s.die i).seqs
  sendToward (Config.diePort i) (withSeq f q r) port (s.setDie i fun d => { d with seqs := l })

/-! ### Flushing (R244, R260) -/

/-- Discards every descriptor of a queue list, counting each in `counter` of its port and releasing its reference. -/
def flushQueues (counter : Nat) (qs : List (Nat × Queue)) (s : State) : State :=
  forEach qs (fun e s =>
    let s := s.setXbar (Xbar.setQueue e.1 {})
    forEach e.2.descs (fun d s => releaseRef d.record (s.bump counter (queuePort e.1))) s) s

/-- The frames an egress resequencer has for a port that left UP go without being sent, and release their references (R212, R260); they stand
on no queue, so none is counted in PORT_FLUSH (DESIGN CHOICE, log 87). -/
def flushEgress (p : Nat) (s : State) : State :=
  let r := (s.chiplets.getD (p / 4) {}).egress
  let mine (x : Rx) : Bool := x.port == p
  let gone := r.arrivals.filter mine ++ r.flows.flatMap fun f => (f.held.map (·.rx)).filter mine
  let s := { s with chiplets := lmap (p / 4) (fun c =>
    { c with egress := { c.egress with
        arrivals := c.egress.arrivals.filter fun x => !mine x
        flows := c.egress.flows.map fun f => { f with held := f.held.filter fun h => !mine h.rx } } }) s.chiplets }
  forEach gone (fun x s => match x.record with
    | some id => releaseRef id s
    | none => s) s

/-- A frame that holds its cells but has not begun leaves staging with its descriptors: no output has begun it (R260). -/
def dropUnbegun (id : Nat) (s : State) : State :=
  let s := s.setXbar fun x => { x with queues := (x.queues.map fun e =>
    (e.1, { e.2 with descs := e.2.descs.filter fun d => d.record ≠ id })).filter fun e => e.2 != ({} : Queue) }
  match s.xbar.record id with
  | some r => freeRecord r s
  | none => s

/-- Frames that reached the part by a port that left UP and have not begun forwarding are discarded from staging (R260). -/
def flushStaging (p : Nat) (s : State) : State :=
  let waiting := (s.xbar.input p).staging.filter fun st => st.record.isNone
  let s := s.setXbar fun x =>
    { x.setInput p { x.input p with staging := (x.input p).staging.filter fun st => st.record.isSome } with
      lookup := x.lookup.filter fun r => r.port ≠ p }
  let s := forEach waiting (fun st => flightDown st.frame.epoch (orderedVc st.vc)) s
  forEach (((s.xbar.input p).staging.filter fun st => st.written = 0).filterMap (·.record)) dropUnbegun s

/-- What the switch core does when an external port leaves UP: its queues are flushed, the copy part-sent is stopped, what its egress
resequencer holds for it and the frames received on it that have not begun go (R212, R244, R260). -/
def flushPort (p : Nat) (s : State) : State :=
  let s := flushQueues Counter.portFlush (s.xbar.queues.filter fun e => queuePort e.1 = p) s
  let s := match (s.xbar.output p).sending with
    | some sd => releaseRef sd.desc.record (s.setXbar fun x => x.setOutput p { x.output p with sending := none })
    | none => s
  flushStaging p (flushEgress p s)

/-! ### Weights and arbitration (R240-R242) -/

/-- The parcel of a queue: the one its class is granted to on its port, and for mirror copies the parcel of the head frame, whose weight of axis
3 they take (R226, R241). -/
def State.queueParcel (s : State) (q : Nat) : Option Nat :=
  match (s.xbar.queue q).descs.head? with
  | some d =>
    if d.mirror then (s.xbar.record d.record).bind fun r => frameParcel s r.frame else s.classParcel (queuePort q) (queueClass q)
  | none => s.classParcel (queuePort q) (queueClass q)

/-- Weight w_q of a queue in units of 1/256 (R241); ties of the rounding go up (log 26). -/
def queueWeight (s : State) (q : Nat) : Nat :=
  let p := queuePort q
  match s.queueParcel q with
  | none => 0
  | some parcel =>
    let axis := if queueVc q = 6 then 3 else queueClass q / 64
    let w := match s.bearing parcel p with
      | some b => b.weights.getD axis 1
      | none => 1
    let n := (s.xbar.queues.filter fun e => queuePort e.1 = p ∧ !e.2.descs.isEmpty ∧ s.queueParcel e.1 = some parcel ∧
      (if queueVc e.1 = 6 then 3 else queueClass e.1 / 64) = axis).length
    if n = 0 then 0 else (2 * w * 256 + n) / (2 * n)

/-- W(o): weights of the active queues of an external output; 1,024 for an internal one with a descriptor (R235). -/
def outputWeight (s : State) (o : Nat) : Nat :=
  let active := s.xbar.queues.filter fun e => queuePort e.1 = o ∧ !e.2.descs.isEmpty
  if o < 128 then active.foldl (fun a e => a + queueWeight s e.1) 0 else if active.isEmpty then 0 else 1024

/-- The buffer threshold T(o) as last recomputed (R235). -/
def State.threshold (s : State) (o : Nat) : Nat := (tget o s.xbar.thresholds).getD 4096

/-- may_start of R230 on the credits a port has left. -/
def mayStart (u : List Nat) (v c : Nat) : Bool :=
  if v = 0 then u.getD 0 0 + c ≤ 4
  else u.getD v 0 + c ≤ 72 && (u.drop 1).foldl (· + ·) 0 + c ≤ 92

/-- U[v]: cells sent and not returned, modulo 2^16 (R230, R252). -/
def Link.used (l : Link) : List Nat := (l.sentCells.zip l.creditIn).map fun e => (e.1 + 65536 - e.2 % 65536) % 65536

/-- The rate bucket's bytes now (R238). -/
def Link.tokens (l : Link) (now : Nat) : Nat := min 8704 (l.bucket + (now - l.bucketAt) * l.rate * 25 / 8)

/-- The rate bucket's bytes counted up to now. -/
def settleBucket (now : Nat) (l : Link) : Link := { l with bucket := l.tokens now, bucketAt := now }

/-- An echo has come back (R238): at most one decrease in 4 µs. -/
def takeEchoIn (now : Nat) (l : Link) : Link :=
  let l := { settleBucket now l with echoAt := now }
  match l.decreasedAt with
  | some at_ => if now < at_ + 4000 then l else { l with rate := max 4 (l.rate * 7 / 8), decreasedAt := some now }
  | none => { l with rate := max 4 (l.rate * 7 / 8), decreasedAt := some now }

/-- The VC0 policer's bytes now: 4 GB/s, burst of 32 cells (R240). -/
def Output.policeNow (o : Output) (now : Nat) : Nat := min 8192 (o.police + (now - o.policeAt) * 4)

/-- The stored copy is marked tainted (R208): its tail has been received, since TAINT and the CRC stand in the trailer (R109). -/
def FrameRec.marked (r : FrameRec) : Bool := r.taint && decide (r.cells ≤ r.written)

/-- Bytes of a copy on the wire: the frame, or a taint stub (R208). -/
def copyBytes (r : FrameRec) : Nat := if r.marked then 48 else 48 + r.frame.payload.length

/-- The head descriptor of a queue may begin now on its output (R206, R216, R223, R230, R238). -/
def headReady (s : State) (q : Nat) : Bool :=
  match (s.xbar.queue q).descs.head? with
  | none => false
  | some d =>
    match s.xbar.record d.record with
    | none => false
    | some r =>
      let o := queuePort q
      let vc := queueVc q
      let whole := r.written ≥ r.cells
      let begun := r.written ≥ 1 && (whole || !(d.mirror || r.port == Config.mdPort))
      let epochOk := !(orderedVc r.frame.vc) || r.epoch != s.routes.epoch || s.routes.prevOrdered == 0
      begun && epochOk &&
      (o ≥ 128 ||
       (s.portUp o && mayStart (s.link o).used vc (creditsOf (if r.marked then 0 else r.frame.payload.length)) &&
        (!(spraysByFrame vc) || (s.link o).tokens s.clock ≥ copyBytes r)))

/-- Active queues of output `o` and VC `v`, in rising number. -/
def activeQueues (s : State) (o v : Nat) : List Nat :=
  (s.xbar.queues.filter fun e => queuePort e.1 = o ∧ queueVc e.1 = v ∧ !e.2.descs.isEmpty).map (·.1)

/-- Bytes of a queue's head copy. -/
def headBytes (s : State) (q : Nat) : Nat :=
  match (s.xbar.queue q).descs.head? with
  | some d => ((s.xbar.record d.record).map copyBytes).getD 48
  | none => 48

/-- The next of `qs` after `q`, cyclically. -/
def nextAfter (q : Nat) (qs : List Nat) : Option Nat := (qs.find? fun x => q < x).or qs.head?

/-- Flow level (R242): stays on the queue last served while its deficit holds, else visits the next ready queue and adds its
quantum. A quantum is 17 bytes at least and a frame 4,144 at most, so 244 rounds of the ready queues reach one. Answers the queue and the
queues with their deficits. -/
def flowLevel (s : State) (ready : List Nat) : Nat → Nat → Xbar → Option (Nat × Xbar)
  | 0, _, _ => none
  | fuel + 1, q, x =>
    if ready.contains q ∧ (x.queue q).deficit ≥ headBytes s q then some (q, x)
    else
      match nextAfter q ready with
      | none => none
      | some n => flowLevel s ready fuel n (x.setQueue n { x.queue n with deficit := (x.queue n).deficit + queueWeight s n * 17 })

/-- W(o, v): weights of the active queues of one VC (R241). -/
def vcWeight (s : State) (o v : Nat) : Nat := (activeQueues s o v).foldl (fun a q => a + queueWeight s q) 0

/-- VC level (R242): stays on the current VC while its deficit is positive and it has a ready queue, else goes to the next. -/
def vcLevel (s : State) (o : Nat) : Nat → Nat → List Int → Option (Nat × List Int)
  | 0, _, _ => none
  | fuel + 1, v, vdef =>
    if vdef.getD (v - 1) 0 > 0 ∧ (activeQueues s o v).any (headReady s) then some (v, vdef)
    else
      let n := if v = 7 then 1 else v + 1
      let w := vcWeight s o n
      vcLevel s o fuel n (vdef.set (n - 1) (if w = 0 then 0 else vdef.getD (n - 1) 0 + w * 17))

/-- The queue an output serves next, with the arbiter's state (R240). -/
def chooseQueue (s : State) (o : Nat) : Option (Nat × Xbar) :=
  let out := s.xbar.output o
  let vc0 := (activeQueues s o 0).filter (headReady s)
  let rotate (v : Nat) (qs : List Nat) : Option Nat := nextAfter (out.flowTurn.getD v 0) qs
  let policed := vc0.filter fun q => o ≥ 128 ∨ out.policeNow s.clock ≥ headBytes s q
  match rotate 0 policed with
  | some q =>
    some (q, s.xbar.setOutput o { out with flowTurn := out.flowTurn.set 0 q,
                                           police := out.policeNow s.clock - (if o < 128 then headBytes s q else 0),
                                           policeAt := s.clock })
  | none =>
    if o ≥ 128 then
      let ready := (List.range 7).filterMap fun i =>
        let v := (out.vcTurn + i) % 7 + 1
        (activeQueues s o v).find? (headReady s)
      ready.head?.map fun q => (q, s.xbar.setOutput o { out with vcTurn := queueVc q })
    else if (List.range 7).any fun i => (activeQueues s o (i + 1)).any (headReady s) then
      match vcLevel s o 4096 out.vcTurn out.vdef with
      | none => none
      | some (v, vdef) =>
        match flowLevel s ((activeQueues s o v).filter (headReady s)) (256 * ((activeQueues s o v).length + 1)) (out.flowTurn.getD v 0) s.xbar with
        | none => none
        | some (q, x) =>
          let b := headBytes s q
          let qq := x.queue q
          some (q, (x.setQueue q { qq with deficit := qq.deficit - b }).setOutput o
            { out with vcTurn := v, vdef := vdef.modify (v - 1) (· - (b : Int)), flowTurn := out.flowTurn.set v q })
    else none

/-! ### Congestion echo (R237) -/

/-- The final receiver of a marked frame owes an echo on the port by which it entered; one owed for more than 1 µs has gone in a
credit word. -/
def oweEcho (f : Frame) (port : Nat) (s : State) : State :=
  if f.cm && port < 128 then
    s.setLink port fun l => { l with echoOwed := match l.echoOwed with
      | some at_ => if s.clock ≤ at_ + 1000 then some at_ else some s.clock
      | none => some s.clock }
  else s

end Sys2Proof.Machine
end

