-- ==== Sys2Proof/Machine/Symbol.lean ====
section
/-! DEFINITION. The symbol code over a line of HBM (R266): the field GF(2^16), the check symbols, and the decoder of up to 6 symbol errors. A line
is its 1,024 symbols; a codeword is the line and its 16 check symbols, and the coefficient of x^(1039 - n) is symbol n (log 93). -/
namespace Sys2Proof.Machine

/-! ### GF(2^16), by x^16 + x^12 + x^3 + x + 1 -/

/-- A field element times α. -/
def gfDouble (a : Nat) : Nat := if 2 * a < 65536 then 2 * a else (2 * a) ^^^ 0x1100B

/-- The product of two elements. -/
def gfMul (a b : Nat) : Nat :=
  if a = 0 ∨ b = 0 then 0
  else (List.range 16).foldl (fun r i => let r := gfDouble r; if b.testBit (15 - i) then r ^^^ a else r) 0

/-- An element to a power below 2^16. -/
def gfPow (a n : Nat) : Nat :=
  (List.range 16).foldl (fun r i => let r := gfMul r r; if n.testBit (15 - i) then gfMul r a else r) 1

/-- The inverse of an element that is not 0. -/
def gfInv (a : Nat) : Nat := gfPow a 65534

/-- α^n. -/
def gfExp (n : Nat) : Nat := gfPow 2 (n % 65535)

/-- A polynomial's value, its constant term first. -/
def gfEval (p : List Nat) (x : Nat) : Nat := p.foldr (fun c r => c ^^^ gfMul r x) 0

/-! ### The code -/

/-- Symbols of a codeword, and its check symbols. -/
def codeSymbols : Nat := 1040
def checkCount : Nat := 16

/-- The generator polynomial with roots α^0 to α^15, its constant term first and its leading term left out. -/
def generator : List Nat :=
  ((List.range checkCount).foldl (fun g j =>
    (List.range (j + 2)).map fun i => (if i = 0 then 0 else g.getD (i - 1) 0) ^^^ gfMul (gfExp j) (g.getD i 0)) [1]).take checkCount

/-- The check symbols of a line's symbols, in the order in which they follow it. -/
def checkSymbols (line : List Nat) : List Nat :=
  (line.foldl (fun (reg : List Nat) sym =>
    let top := sym ^^^ reg.getD (checkCount - 1) 0
    let moved := 0 :: reg.dropLast
    if top = 0 then moved else (moved.zip generator).map fun e => e.1 ^^^ gfMul top e.2) (List.replicate checkCount 0)).reverse

/-- The exponent of symbol n in the codeword's polynomial. -/
def symbolPower (n : Nat) : Nat := codeSymbols - 1 - n

/-- The 16 syndromes of a pattern of symbol errors, as (symbol, difference). -/
def syndromes (es : List (Nat × Nat)) : List Nat :=
  (List.range checkCount).map fun j => es.foldl (fun a e => a ^^^ gfMul e.2 (gfExp (j * symbolPower e.1))) 0

/-- One step of the Berlekamp-Massey recursion over the syndromes: the locator, the earlier locator with its shift and discrepancy, and the
locator's length. -/
structure Locator where
  c : List Nat := [1]
  b : List Nat := [1]
  shift : Nat := 1
  disc : Nat := 1
  len : Nat := 0

/-- The locator after syndrome n. -/
def locatorStep (s : List Nat) (n : Nat) (l : Locator) : Locator :=
  let d := (List.range (l.len + 1)).foldl (fun a i => a ^^^ gfMul (l.c.getD i 0) (s.getD (n - i) 0)) 0
  let f := gfMul d (gfInv l.disc)
  let back := List.replicate l.shift 0 ++ l.b
  let c := (List.range (max l.c.length back.length)).map fun i => l.c.getD i 0 ^^^ gfMul f (back.getD i 0)
  if d = 0 then { l with shift := l.shift + 1 }
  else if 2 * l.len ≤ n then { c := c, b := l.c, shift := 1, disc := d, len := n + 1 - l.len }
  else { l with c := c, shift := l.shift + 1 }

/-- The value of the error at a root of the locator, by Forney's formula. -/
def errorValue (s : List Nat) (c : List Nat) (x : Nat) : Nat :=
  let inv := gfInv x
  let omega := (List.range checkCount).map fun k => (List.range (k + 1)).foldl (fun a i => a ^^^ gfMul (c.getD i 0) (s.getD (k - i) 0)) 0
  let slope := (List.range c.length).map fun i => if i % 2 = 0 then c.getD (i + 1) 0 else 0
  gfMul x (gfMul (gfEval omega inv) (gfInv (gfEval slope inv)))

/-- What the controller corrects in a codeword: the one pattern of at most 6 symbol errors with these syndromes; none where it reports the
codeword as uncorrectable (R266). -/
def correction (s : List Nat) : Option (List (Nat × Nat)) :=
  if s.all (· == 0) then some []
  else
    let l : Locator := (List.range checkCount).foldl (fun l n => locatorStep s n l) {}
    if 6 < l.len then none
    else
      let at_ := (List.range codeSymbols).filter fun n => gfEval l.c (gfInv (gfExp (symbolPower n))) = 0
      let es := at_.map fun n => (n, errorValue s l.c (gfExp (symbolPower n)))
      if es.length = l.len ∧ syndromes es = s then some es else none

/-! ### Check bytes and the check area (R267) -/

/-- Bytes as 16-bit symbols, little-endian, and symbols as bytes. -/
def symbolsOf : Bytes → List Nat
  | a :: b :: r => (a.toNat + 256 * b.toNat) :: symbolsOf r
  | _ => []
def bytesOfSymbols (l : List Nat) : Bytes := l.flatMap fun v => [BitVec.ofNat 8 v, BitVec.ofNat 8 (v / 256)]

/-- First line of the check area, and its lines. -/
def checkBase : Nat := 18350080
def checkArea : Nat := 294912

/-- The 32 check bytes of line `a`. `read` gives a byte of a line outside the check area; a line of the check area holds the check bytes of 64
lines, and one of them holds its own, `own` (log 93). `fuel` bounds how often a check line checks check lines: 5 is enough for every line. -/
def lineCheck (own : Bytes) (read : Nat → Byte) : Nat → Nat → Bytes
  | 0, _ => own
  | fuel + 1, a =>
    let k := 64 * (a - checkBase)
    bytesOfSymbols (checkSymbols (symbolsOf
      (if checkBase ≤ a ∧ a < checkBase + checkArea then
        (List.range 64).flatMap fun i => if k + i = a then own else lineCheck own read fuel (k + i)
       else (List.range 2048).map fun i => read (2048 * a + i))))

end Sys2Proof.Machine
end

