-- ==== Sys2Proof/Machine/Lines.lean ====
section
/-! DEFINITION. The lines of a stack (R264): the layout of the stack (R265, R272), where a line is kept once pseudo-channels are mapped out
(R272, R274), its whole-line decode and what that counts (R266-R271), the check cache (R267) and writes. -/
namespace Sys2Proof.Machine

/-! ### Layout -/

/-- Pseudo-channel of a stack byte address (R264). -/
def channelOf (addr : Nat) : Nat := addr / 2048 % 64

/-- Lines of a stack (R264). -/
def stackLines : Nat := 18874368

/-- The pair carries a field-book copy (R17, R132). -/
def State.isJournal (s : State) (pair : Nat) : Bool := pair == s.placement.journal0 || pair == s.placement.journal1

/-- T of R272: bytes of allocatable space before any map-out. -/
def State.allocTop (s : State) (pair : Nat) : Nat := (if s.isJournal pair then 34 else 35) * 2 ^ 30

/-- End of the allocatable space: the bottom of the map-out block (R272). -/
def State.allocEnd (s : State) (pair : Nat) : Nat := s.allocTop pair - (s.stack pair).declared.length * 294912 * 2048

/-! ### Where a line is kept (R272, R274) -/

/-- Lines of the map-out block of `m` declared pseudo-channels. -/
def blockLines (m : Nat) : Nat := 294912 * m

/-- The home of line `a` under the map-out of a set of pseudo-channels, in a stack whose allocatable space has `top` lines: the j-th failed line is
kept in the j-th healthy line of the block. -/
def homeLine (top : Nat) (set : List Nat) (a : Nat) : Nat :=
  let m := set.length
  let low := top - blockLines m
  if !set.contains (a % 64) ∨ (low ≤ a ∧ a < top) then a
  else
    let before := a / 64 * m + (set.filter (· < a % 64)).length
    let j := if a < low then before else before - blockLines m / 64 * m
    low + 64 * (j / (64 - m)) + ((List.range 64).filter fun k => !set.contains k).getD (j % (64 - m)) 0

/-- The line that keeps line `a` of a stack now: under the map in force, or the new one below a running copy's pointer. -/
def State.keptAt (s : State) (pair a : Nat) : Nat :=
  let h := s.stack pair
  let top := s.allocTop pair / 2048
  match h.mapout with
  | .copying set since => homeLine top (if a < Config.copyPointer pair (s.clock - since) then set else h.mapped) a
  | .idle => homeLine top h.mapped a

/-- The pseudo-channel an access to a line uses. -/
def State.lineChannel (s : State) (pair a : Nat) : Nat := s.keptAt pair a % 64

/-! ### Whole-line decodes (R266-R271) -/

/-- What a whole-line decode finds: nothing wrong, symbols to correct, or an uncorrectable codeword. -/
inductive Decoded where
  | clean | corrected (symbols : Nat) | lost
deriving DecidableEq, Repr

/-- The errors of a line, as (symbol, difference). -/
def Hbm.errorsAt (h : Hbm) (a : Nat) : List (Nat × Nat) := (h.errors.filter fun e => e.1.1 = a).map fun e => (e.1.2, e.2)

/-- The decode of a line, which no stack that is silent there passes. -/
def State.decoded (s : State) (pair a : Nat) : Decoded :=
  let h := s.stack pair
  if h.deaf.contains (s.lineChannel pair a) then .lost
  else match (h.errorsAt a).length with
    | 0 => .clean
    | n => if n ≤ 6 then .corrected n else .lost

/-- A difference in one symbol of a codeword, added to those it has. -/
def xorError (k : Nat × Nat) (d : Nat) (l : List ((Nat × Nat) × Nat)) : List ((Nat × Nat) × Nat) :=
  let v := ((l.find? fun e => e.1 = k).map (·.2)).getD 0 ^^^ d
  l.filter (fun e => e.1 ≠ k) ++ (if v = 0 then [] else [(k, v)])

/-- A line with more errors than the code is sure to report may decode into another codeword (R266): the line then holds that one's data, and the
correction is what reads wrong in it. -/
def settleLine (a : Nat) (h : Hbm) : Hbm :=
  let es := h.errorsAt a
  match (if es.length ≤ 10 then none else correction (syndromes es)) with
  | none => h
  | some c =>
    let rest := c.foldl (fun l e => xorError (a, e.1) e.2 l) (h.errors.filter fun e => e.1.1 = a)
    let flip (m : List Host.Cell) (e : (Nat × Nat) × Nat) : List Host.Cell :=
      if e.1.2 < 1024 then
        let at_ := 2048 * a + 2 * e.1.2
        Memory.write at_ [Memory.read m at_ ^^^ BitVec.ofNat 8 e.2, Memory.read m (at_ + 1) ^^^ BitVec.ofNat 8 (e.2 / 256)] m
      else m
    { h with mem := rest.foldl flip h.mem, errors := h.errors.filter (fun e => e.1.1 ≠ a) ++ c.map fun e => ((a, e.1), e.2) }

/-- Symbols of a stack's lines read wrong from now on. -/
def addErrors (es : List (Nat × Nat × Nat)) (h : Hbm) : Hbm :=
  (es.map (·.1)).eraseDups.foldl (fun h a => settleLine a h)
    { h with errors := es.foldl (fun l e => xorError (e.1, e.2.1) e.2.2 l) h.errors }

/-- Check lines the check cache holds (R267). -/
def cacheLines : Nat := 512

/-- The check cache after a run of lines is read or written: their check lines are the most recent, dirty after a write; the least recent leave,
written back (the order of eviction is DESIGN CHOICE, log 93). -/
def touchChecks (first count : Nat) (dirty : Bool) (h : Hbm) : Hbm :=
  let k := if count = 0 then 0 else (first + count - 1) / 64 + 1 - first / 64
  let new := (List.range (min k cacheLines)).map fun i => (first + count - 1) / 64 - i
  let was (c : Nat) : Bool := (h.checks.find? fun e => e.1 = c).any (·.2)
  { h with checks := (new.map (fun c => (c, dirty || was c)) ++ h.checks.filter fun e => !new.contains e.1).take cacheLines }

/-- Every dirty check line is written back, as before self-refresh (R267). -/
def flushChecks (h : Hbm) : Hbm := { h with checks := h.checks.map fun e => (e.1, false) }

/-- 24 hours and 1 s in ns (R271). -/
def dayNs : Nat := 86400000000000
def secondNs : Nat := 1000000000

/-- A pseudo-channel is found failing: 1 reset test or silence, 2 uncorrectable, 3 correction rate. Its declaration follows (R271, log 94). -/
def findFailing (pch cause : Nat) (h : Hbm) : Hbm :=
  if h.declared.contains pch ∨ h.failing.any (fun e => e.1 = pch) then h else { h with failing := h.failing ++ [(pch, cause)] }

/-- A pseudo-channel shows corrected symbols (R269, R271). -/
def countCorrected (pair pch symbols : Nat) (s : State) : State :=
  (s.bump Counter.hbmCe (64 * pair + pch)).setStack pair fun h =>
    let h := { h with ceLog := (h.ceLog.filter fun e => s.clock < e.2.1 + secondNs) ++ [(pch, s.clock, symbols)] }
    if 4096 < (h.ceLog.filter fun e => e.1 = pch).foldl (fun a e => a + e.2.2) 0 then findFailing pch 3 h else h

/-- A pseudo-channel shows an uncorrectable codeword (R269, R271). -/
def countLost (pair pch : Nat) (s : State) : State :=
  (s.bump Counter.hbmUe (64 * pair + pch)).setStack pair fun h =>
    let h := { h with ueLog := (h.ueLog.filter fun e => s.clock < e.2 + dayNs) ++ [(pch, s.clock)] }
    if (h.ueLog.filter fun e => e.1 = pch).length ≥ 2 then findFailing pch 2 h else h

/-- A line is decoded: what is found is counted on the pseudo-channel that keeps it, and a corrected line is written back where `back` (R268, R269). -/
def decodeCount (pair a : Nat) (back : Bool) (s : State) : State :=
  let s := s.setStack pair (touchChecks a 1 false)
  match s.decoded pair a with
  | .clean => s
  | .corrected n =>
    let s := countCorrected pair (s.lineChannel pair a) n s
    if back then s.setStack pair fun h => { h with errors := h.errors.filter fun e => e.1.1 ≠ a } else s
  | .lost => countLost pair (s.lineChannel pair a) s

/-- Bytes written to a stack with their check symbols (R267, R268): a line written whole, or rewritten after its correction, has no error left. -/
def storeBytes (pair addr : Nat) (bs : Bytes) (s : State) : State :=
  s.setStack pair fun h =>
    let last := (addr + bs.length - 1) / 2048
    let whole (a : Nat) : Bool := addr ≤ 2048 * a && 2048 * a + 2048 ≤ addr + bs.length
    let renewed (a : Nat) : Bool := addr / 2048 ≤ a && a ≤ last && (whole a || (h.errorsAt a).length ≤ 6)
    if bs.isEmpty then h
    else touchChecks (addr / 2048) (last + 1 - addr / 2048) true
      { h with mem := Memory.write addr bs h.mem, errors := h.errors.filter fun e => !renewed e.1.1
               badSectors := h.badSectors.filter fun k => !(addr ≤ 32 * k && 32 * k + 32 ≤ addr + bs.length) }

/-- One element stored by the memory-side adders: a sector write keeps what reads wrong in its line, for the next whole-line decode (R268). -/
def storeSector (pair addr : Nat) (bs : Bytes) (s : State) : State :=
  s.setStack pair fun h => touchChecks (addr / 2048) 1 true { h with mem := Memory.write addr bs h.mem }

/-- A range of a stack set to zero, whole lines. -/
def storeZeros (pair addr len : Nat) (s : State) : State :=
  s.setStack pair fun h =>
    let gone (a : Nat) : Bool := addr ≤ 2048 * a && 2048 * a + 2048 ≤ addr + len
    touchChecks (addr / 2048) (len / 2048) true
      { h with mem := Memory.zero addr len h.mem, errors := h.errors.filter fun e => !gone e.1.1
               badSectors := h.badSectors.filter fun k => !(addr ≤ 32 * k && 32 * k + 32 ≤ addr + len) }

end Sys2Proof.Machine
end

