-- ==== Sys2Proof/Machine/Mailbox.lean ====
section
/-! DEFINITION. The mailbox engine's shared operations (14_mailboxes_and_field_book.md): rings and completion entries
(R309-R311), the field book (R314-R317), the frames MD sends (R312, R313) and stopping a pair (R309). -/
namespace Sys2Proof.Machine

/-! ### Status codes (Table 14.4) -/

def Status.ok : Nat := 0x00
def Status.stale : Nat := 0x01
def Status.denied : Nat := 0x02
def Status.badArg : Nat := 0x03
def Status.noSpace : Nat := 0x04
def Status.busy : Nat := 0x05
def Status.timeout : Nat := 0x06
def Status.closure : Nat := 0x07
def Status.abortCommon : Nat := 0x08
def Status.poison : Nat := 0x09
def Status.notLoaded : Nat := 0x0A
def Status.lost : Nat := 0x0B

/-! ### Rings -/

/-- First byte of a ring from its BASE (Table 14.2). -/
def ringAt (base : Nat) : Nat := 4096 * base
/-- Slots of a ring. -/
def Pair.cmdSlots (p : Pair) : Nat := 2 ^ p.cmdSizeLog2
def Pair.cmpSlots (p : Pair) : Nat := 2 ^ p.cmpSizeLog2

/-- The command entry in the slot of index `k` (R309). -/
def commandAt (m : Mailbox) (p : Pair) (k : BitVec 16) : Bytes :=
  Memory.readBytes m.ring (ringAt p.cmdBase + 256 * (k.toNat % p.cmdSlots)) 256

/-- Bytes of ring memory (R297). -/
def ringMemory : Nat := 32 * 2 ^ 20

/-- Completions of accepted commands of a pair that are still to be written hold reserved slots (R309). -/
def Mailbox.reserved (m : Mailbox) (n : Nat) : Nat := (m.running.filter fun r => r.pair = n ∧ !r.lost).length

/-- Every accepted command of a pair has completed (R309). -/
def Mailbox.quiet (m : Mailbox) (n : Nat) : Bool := m.running.all fun r => r.pair != n

/-- Completion slots that CMP_HEAD has passed and that are not reserved (R309, R310). -/
def Mailbox.freeSlots (m : Mailbox) (n : Nat) : Nat :=
  let p := m.pairs.getD n {}
  p.cmpSlots - (p.cmpTail - p.cmpHead).toNat - m.reserved n

/-! ### Frames MD sends (R312, R313) -/

/-- A MANAGEMENT frame of MD toward an endpoint or MD of a part, SEQ from MD's own counter of that flow; FLOW is 0 (log 27). -/
def mdFrame (s : State) (sub part port pair count offset space : Nat) (payload : Bytes) (seq : BitVec 24) (resync : Bool) : Frame :=
  mkFrame [(0, 4, 9), (4, 3, 7), (15, 1, if resync then 1 else 0), (24, 24, seq.toNat), (48, 16, s.number),
    (64, 8, Config.mdPort), (72, 8, sub), (80, 16, part), (96, 8, port), (104, 6, pair), (112, 8, count), (120, 1, space),
    (128, 32, offset)] payload 0 0

/-- The current destination-table entry of part `part`; none where it is not VALID (R221). -/
def routeEntry (s : State) (part : Nat) : Option DestEntry :=
  match tget part s.routes.current with
  | some e => if e.valid then some e else none
  | none => none

/-- Every port of PORTS and INTERNAL of an entry with MCAST = 1 (Table 9.6). -/
def DestEntry.fanOut (e : DestEntry) : List Nat :=
  maskPorts e.ports ++ ((List.range 31).filter fun j => e.internal.getLsbD j).map (128 + ·)

/-- MD sends a frame through the current entry of its DEST_PART, or, while the part has no number or the entry is not VALID,
out of the port on which the last in-band frame arrived (R313). -/
def mdSend (sub part port pair count offset space : Nat) (payload : Bytes) (s : State) : State :=
  if s.mailbox.failed then s else
  let ((q, r), l) := nextSeq s.clock (0, part, port) s.mailbox.seqs
  let f := mdFrame s sub part port pair count offset space payload q r
  let s := s.setMailbox fun m => { m with seqs := l }
  match (if s.number = 0xFFFF then none else routeEntry s part) with
  | some e =>
    if part = s.number then stageFrame Config.mdPort Config.mdPort false f [if port < 128 then port else Config.mdPort] s
    else if e.mcast then stageFrame Config.mdPort Config.mdPort false f (e.fanOut.filter (· ≠ Config.mdPort)) s
    else
      let (c, s) := chooseSpray Config.mdPort f (eligibleDest s e.parcel e.ports) s
      match c with
      | some o => stageFrame Config.mdPort Config.mdPort false f [o] s
      | none => s.bump Counter.noPath ((maskPorts e.ports).headD 0)
  | none =>
    match s.mailbox.inBandPort with
    | some o => stageFrame Config.mdPort Config.mdPort false f [o] s
    | none => s

/-! ### Completion entries (Tables 14.5, 14.6) -/

/-- What a completion entry holds besides PHASE and LOSS. -/
structure Completion where
  kind : Nat
  status : Nat := 0
  opcode : Nat := 0
  cmdIndex : Nat := 0
  parcel : Nat := 0xFFFF
  tag : Nat := 0
  seq : Nat := 0
  version : Nat := 0
  result : Nat := 0

/-- The 64 bytes of a completion entry (Table 14.5). -/
def Completion.bytes (c : Completion) (phase loss : Bool) : Bytes :=
  leBytes 64 (packFields [(0, 1, if phase then 1 else 0), (1, 1, if loss then 1 else 0), (8, 8, c.kind), (16, 8, c.status),
    (24, 8, c.opcode), (32, 16, c.cmdIndex), (48, 16, c.parcel), (64, 64, c.tag), (128, 64, c.seq), (192, 32, c.version),
    (256, 256, c.result)])

/-- Writes a completion entry into the next slot of a pair's ring (R310). PHASE is 1 on the first pass after ENABLE. An
in-band pair also sends it as a COMPLETION frame and takes it as consumed (R312). -/
def putCompletion (n : Nat) (c : Completion) (s : State) : State :=
  if s.mailbox.failed then s else
  let p := s.pair n
  let slot := p.cmpTail.toNat % p.cmpSlots
  let phase := (p.cmpTail.toNat / p.cmpSlots) % 2 == 0
  let bs := c.bytes phase p.loss
  let s := s.setMailbox fun m =>
    if ringAt p.cmpBase + 64 * slot + 64 ≤ ringMemory then { m with ring := Memory.write (ringAt p.cmpBase + 64 * slot) bs m.ring } else m
  let s := s.setPair n fun p => { p with cmpTail := p.cmpTail + 1, loss := false,
                                         cmpHead := if p.inBand then p.cmpTail + 1 else p.cmpHead }
  if p.inBand then mdSend 2 p.ibPart p.ibPort n 1 0 0 bs s else s

/-- The event pair of a parcel: its lowest-numbered active pair (R300). -/
def eventPair (s : State) (parcel : Nat) : Option Nat :=
  (s.mailbox.pairs.zipIdx.find? fun e => e.1.active && e.1.parcel == parcel).map (·.2)

/-- Writes an event entry to a pair, or drops it, counts it and sets LOSS when no unreserved slot is free (R311). -/
def eventTo (n : Nat) (c : Completion) (s : State) : State :=
  if s.mailbox.freeSlots n = 0 then (s.setPair n fun p => { p with loss := true }).bump Counter.eventDrop partWide
  else putCompletion n c s

/-- An event of a parcel, to its event pair; dropped and counted when it has none (R311). During a hand-over up to 4,096
events are queued (R366). -/
def postEvent (parcel kind status result : Nat) (s : State) : State :=
  if s.mailbox.failed then s
  else if s.boot.handover.isSome then
    if s.boot.queuedEvents.length < 4096 then
      { s with boot := { s.boot with queuedEvents := s.boot.queuedEvents ++ [(parcel, kind, status, result)] } }
    else
      let s := s.bump Counter.eventDrop partWide
      match eventPair s parcel with
      | some n => s.setPair n fun p => { p with loss := true }
      | none => s
  else
    match eventPair s parcel with
    | some n => eventTo n { kind := kind, status := status, parcel := parcel, result := result } s
    | none => s.bump Counter.eventDrop partWide

/-- A FIRMWARE completion to every active pair (Table 14.6): 1 start, 2 restart, 3 hand-over. -/
def postFirmware (code : Nat) (s : State) : State :=
  forEach (List.range 64) (fun n s =>
    if (s.pair n).active then
      eventTo n { kind := 6, parcel := (s.pair n).parcel
                  result := packFields [(0, 32, s.boot.fwInstance.toNat), (32, 8, code), (64, 40, s.book.next)] } s
    else s) s

/-! ### The field book -/

/-- Slots of the field book (R314). -/
def bookSlots : Nat := 1048576

/-- An entry takes the next SEQ; the entry 1,048,576 older is overwritten (R314). -/
def FieldBook.append (e : FbEntry) (b : FieldBook) : FieldBook :=
  let seq := b.next
  let oldest := if seq + 1 - b.oldest > bookSlots then b.oldest + 1 else b.oldest
  { b with next := seq + 1, oldest := oldest,
           entries := b.entries.filter (fun x => oldest ≤ x.seq) ++ [{ e with seq := seq }],
           bad0 := b.bad0.filter (oldest ≤ ·), bad1 := b.bad1.filter (oldest ≤ ·) }

/-- An entry changed, in both copies (R316). -/
def FieldBook.update (seq : Nat) (f : FbEntry → FbEntry) (b : FieldBook) : FieldBook :=
  { b with entries := b.entries.map fun e => if e.seq = seq then f e else e }

/-- The 1,024 bytes of an entry (Table 14.8), with ENTRY_CRC. -/
def FbEntry.bytes (e : FbEntry) : Bytes :=
  let head := packFields [(0, 64, e.seq), (64, 8, e.kind), (72, 8, e.code), (80, 8, e.status), (88, 8, e.objKind),
    (96, 32, e.object), (128, 32, e.versionAfter), (160, 16, e.parcel), (176, 16, e.auxParcel), (192, 8, e.pair),
    (200, 2, e.transport), (208, 16, e.requester), (224, 8, e.srcPort), (256, 32, e.fwInstance), (320, 64, e.hash),
    (384, 64, e.acceptTick), (448, 32, e.doneUs)]
  let first := leBytes 60 head
  let rest := leBytes 256 e.body ++ leBytes 704 e.bufHead
  first ++ leBytes 4 (crc32c (first ++ rest)) ++ rest

/-- First byte of an entry's slot in a journal stack (R314). -/
def bookAt (seq : Nat) : Nat := 34 * 2 ^ 30 + 1024 * (seq % bookSlots)

/-- The copies that are kept, as (second, journal pair). -/
def State.bookCopies (s : State) : List (Bool × Nat) :=
  (if s.book.copy0 then [(false, s.placement.journal0)] else []) ++ (if s.book.copy1 then [(true, s.placement.journal1)] else [])

/-- SEQs kept whose entries share a line with that of `seq` (R316). -/
def State.bookMates (s : State) (seq : Nat) : List Nat :=
  (s.book.entries.filter fun e => bookAt e.seq / 2048 = bookAt seq / 2048).map (·.seq)

/-- The entries of a line are lost in one copy: the other serves their readers (R316). -/
def loseEntries (second : Bool) (seqs : List Nat) (b : FieldBook) : FieldBook :=
  if second then { b with bad1 := (b.bad1 ++ seqs).eraseDups } else { b with bad0 := (b.bad0 ++ seqs).eraseDups }

/-- Each copy's controller reads and decodes the line of an entry, replaces the entry and writes the line (R316). What DBG_MEM had written into the
slot is gone. -/
def writeBookLine (seq : Nat) (s : State) : State :=
  forEach s.bookCopies (fun c s =>
    let line := bookAt seq / 2048
    let lost := s.decoded c.2 line = .lost
    let s := decodeCount c.2 line true s
    if lost then { s with book := loseEntries c.1 (s.bookMates seq) s.book }
    else
      State.setStack c.2 (touchChecks line 1 true) { s with
        pokes := s.pokes.filter fun p => !(p.1.1 = 0x60 + c.2 && bookAt seq ≤ p.1.2 && p.1.2 < bookAt seq + 1024) }) s

/-- The book is written: work for the journal pairs (R346). -/
def bookWork (s : State) : State := workPairs (s.bookCopies.map (·.2)) s

/-- An entry takes the next SEQ in both copies (R314, R316). -/
def appendEntry (e : FbEntry) (s : State) : State := writeBookLine s.book.next (bookWork { s with book := s.book.append e })

/-- An entry is rewritten in both copies (R316). -/
def updateEntry (seq : Nat) (f : FbEntry → FbEntry) (s : State) : State := writeBookLine seq (bookWork { s with book := s.book.update seq f })

/-- The bytes of an entry as a copy holds them: DBG_MEM may have changed some. -/
def State.copyBytes (s : State) (pair : Nat) (e : FbEntry) : Bytes :=
  (s.pokes.filter fun p => p.1.1 = 0x60 + pair ∧ bookAt e.seq ≤ p.1.2 ∧ p.1.2 < bookAt e.seq + 1024).foldl
    (fun b p => b.set (p.1.2 - bookAt e.seq) p.2) e.bytes

/-- The bytes carry the SEQ sought and a good ENTRY_CRC (R316). -/
def entryGood (seq : Nat) (bs : Bytes) : Bool :=
  leNat (bs.take 8) == seq && leNat ((bs.drop 60).take 4) == crc32c (bs.take 60 ++ bs.drop 64)

/-- A copy gives an entry: its line decodes, and the entry is good (R316). -/
def State.copyGood (s : State) (c : Bool × Nat) (e : FbEntry) : Bool :=
  !(if c.1 then s.book.bad1 else s.book.bad0).contains e.seq && s.decoded c.2 (bookAt e.seq / 2048) != .lost &&
  (!(s.pokes.any fun p => p.1.1 == 0x60 + c.2 && bookAt e.seq ≤ p.1.2 && p.1.2 < bookAt e.seq + 1024) || entryGood e.seq (s.copyBytes c.2 e))

/-- An entry as a reader takes it: from the first copy, or from the second (R316); none where neither gives it. -/
def State.entryBytes (s : State) (e : FbEntry) : Option Bytes :=
  (s.bookCopies.find? fun c => s.copyGood c e).map fun c => s.copyBytes c.2 e

/-- At least one copy of the field book is kept (R305 check 6). -/
def FieldBook.kept (b : FieldBook) : Bool := b.copy0 || b.copy1

/-- The part journals an event of Table 14.9, unless MD has failed, no copy of the book is kept (R389, R316), or the crossbar, through which MD writes
the book, does not forward (R17): the detail is given as `(byte of the entry, bytes, value)`. -/
def journalEvent (code parcel : Nat) (detail : List (Nat × Nat × Nat)) (s : State) : State :=
  if s.mailbox.failed ∨ !s.book.kept ∨ s.xbar.stopped then s else
  let body := packFields (detail.map fun d => (8 * (d.1 - 64), 8 * d.2.1, d.2.2))
  let entry : FbEntry :=
    { kind := 2, code := code, status := 0, parcel := parcel, fwInstance := s.boot.fwInstance.toNat,
      hash := crc64 (leBytes 256 body), acceptTick := s.telemetry, body := body }
  appendEntry entry s

/-! ### Stopping a pair (R309, R301) -/

/-- A requester that owns no active pair is released (R301). -/
def releaseRequesters (m : Mailbox) : Mailbox :=
  { m with requesters := m.requesters.filter fun r => m.pairs.any fun p => p.active && p.owner == some (.requester r.1 r.2) }

/-- Stops a pair as a write of ENABLE = 0 does: commands not yet taken are discarded unread (R309). -/
def stopPair (n : Nat) (s : State) : State :=
  (s.setPair n fun p => { p with enable := false, active := false, cmdTail := p.cmdHead }).setMailbox releaseRequesters

/-- A doorbell that claims more commands than the ring holds sets RING_ERROR and stops the pair (R309). -/
def ringError (n : Nat) (s : State) : State := stopPair n (s.setPair n fun p => { p with ringError := true })

/-- Bytes the part writes to host memory through the endpoint of a pair's owner, or to ring memory (R323). -/
def writeHost (n addr : Nat) (ring : Bool) (bs : Bytes) (s : State) : State :=
  if ring then s.setMailbox fun m => { m with ring := Memory.write addr bs m.ring }
  else { s with hostOut := s.hostOut ++ [{ pair := n, addr := addr, bytes := bs }] }

end Sys2Proof.Machine
end

