-- ==== Sys2Proof/Machine/Regions.lean ====
section
/-! DEFINITION. Ledger regions in HBM: arrays, stripes, extents and placement (R129-R133, R264, R265, R272), allocation in
zeroed space (R372), reading and writing elements, and poison units (R379-R383). -/
namespace Sys2Proof.Machine

/-! ### Shape of a region -/

/-- Stripes of 4,096 elements (R130). -/
def Region.stripes (r : Region) : Nat := (r.count + 4095) / 4096

/-- The arrays of a region as (array code, bits per element), Table 6.2. -/
def Region.arrays (r : Region) : List (Nat × Nat) :=
  if r.kind = 0 then [(0, if r.int4 then 4 else 16)]
  else if r.kind = 2 then [(0, 16), (1, 16), (2, 16), (4, 32), (5, 32)]
  else if r.kind = 4 then [(3, if r.accType = 0 then 128 else if r.accType = 1 then 32 else 64)]
  else [(0, 16), (1, 16), (4, 32), (5, 32)]

/-- Bits per element of an array; 0 where the region has no such array. -/
def Region.bits (r : Region) (a : Nat) : Nat := ((r.arrays.find? fun e => e.1 = a).map (·.2)).getD 0

/-- Copies of an array: MIRROR keeps W, M and V twice (R131). -/
def Region.copies (r : Region) (a : Nat) : List Nat := if r.mirror ∧ a ≤ 2 then [0, 1] else [0]

/-- Bytes of one stripe of an array. -/
def Region.stripeSize (r : Region) (a : Nat) : Nat := 512 * r.bits a

/-- Bytes of a poison unit, and units of a stripe (R380). -/
def Region.unitSize (r : Region) (a : Nat) : Nat := min 4096 (r.stripeSize a)
def Region.units (r : Region) (a : Nat) : Nat := r.stripeSize a / max 1 (r.unitSize a)

/-- Logical ledger index of a stripe's copy (R130, R133). -/
def Region.logical (r : Region) (stripe copy : Nat) : Nat := (r.base + stripe + Config.half * copy) % Config.pairs

/-- The first stripe on a logical index. -/
def Region.firstOn (r : Region) (l copy : Nat) : Nat := (l + 2 * Config.pairs - r.base - Config.half * copy) % Config.pairs

/-- How many stripes a logical index holds of one copy. -/
def Region.countOn (r : Region) (l copy : Nat) : Nat :=
  if r.firstOn l copy < r.stripes then (r.stripes - r.firstOn l copy + 29) / Config.pairs else 0

/-- HANDLE of the region in a slot (Table 6.1). -/
def Region.handle (slot : Nat) (r : Region) : Nat := slot + r.serial * 65536

/-- The region a handle names: its slot is in use and its serial is the slot's (R129). -/
def State.regionAt (s : State) (handle : Nat) : Option (Nat × Region) :=
  let slot := handle % 65536
  match tget slot s.regions with
  | some r => if slot ≠ 0 ∧ r.serial = handle / 65536 then some (slot, r) else none
  | none => none

/-! ### Extents on a stack -/

/-- The working pairs that hold stripes of a region. -/
def State.regionPairs (s : State) (r : Region) : List Nat := ((r.extents.map (·.pair)).eraseDups).filter fun i => !s.pairFailed i

/-- Every extent on a stack, with its region's slot. -/
def State.extentsOn (s : State) (pair : Nat) : List (Nat × Extent) :=
  s.regions.flatMap fun e => (e.2.extents.filter fun x => x.pair = pair).map fun x => (e.1, x)

/-- Bytes that regions still reserve in a stack's map-out block (R273). -/
def State.blockReserved (s : State) (pair : Nat) : Nat :=
  (s.extentsOn pair).foldl (fun a e =>
    a + (min (e.2.base + e.2.len) (s.allocTop pair) - max e.2.base (s.allocEnd pair))) 0

/-- A pseudo-channel is declared that the map in force does not hold, and no copy runs to take it in (R272, R274). -/
def State.mapoutDue (s : State) (pair : Nat) : Bool :=
  let h := s.stack pair
  h.mapout == .idle && h.declared != h.mapped && !s.pairFailed pair

/-- MAPOUT_PENDING: a map-out is due, and the block contains extents of regions (R273). -/
def State.mapoutPending (s : State) (pair : Nat) : Bool := s.mapoutDue pair && s.blockReserved pair != 0

/-- Byte ranges a region or a spilled accumulator has taken on a stack. -/
def State.reserved (s : State) (pair : Nat) : List (Nat × Nat) :=
  ((s.extentsOn pair).map fun e => (e.2.base, e.2.len)) ++ (s.stack pair).spillLines.map fun l => (2048 * l, 2048)

/-- Byte ranges of a stack not yet zeroed. -/
def State.unzeroedBytes (s : State) (pair : Nat) : List (Nat × Nat) := (s.stack pair).unzeroed.map fun r => (2048 * r.1, 2048 * r.2)

/-- The lowest address below `top` at which `len` bytes avoid the taken ranges (R265). -/
def firstFit (taken : List (Nat × Nat)) (len top : Nat) : Option Nat :=
  let free (c : Nat) : Bool := c + len ≤ top && taken.all fun t => c + len ≤ t.1 || t.1 + t.2 ≤ c
  ((0 :: taken.map fun t => t.1 + t.2).filter free).foldl (fun best c => some (match best with
    | none => c
    | some b => min b c)) none

/-- Bytes of a list of ranges that lie below `top`. -/
def bytesBelow (top : Nat) (rs : List (Nat × Nat)) : Nat := rs.foldl (fun a r => a + (min (r.1 + r.2) top - r.1)) 0

/-- Free allocatable bytes of a pair: unreserved, zeroed, below any map-out block; none on a failed pair (R132, R386). -/
def State.freeBytes (s : State) (pair : Nat) : Nat :=
  if s.pairFailed pair ∨ !s.placement.usable.contains pair then 0
  else s.allocEnd pair - bytesBelow (s.allocEnd pair) (s.reserved pair) - bytesBelow (s.allocEnd pair) (s.unzeroedBytes pair)

/-- What an allocation asks of one stack: array, copy, logical index, pair, bytes, and the single stripe of a reload. -/
structure Need where
  array : Nat
  copy : Nat
  logical : Nat
  pair : Nat
  len : Nat
  stripe : Option Nat := none

/-- What the extents of a new region ask, every array at once (R131). -/
def Region.needs (s : State) (r : Region) : List Need :=
  r.arrays.flatMap fun a => (r.copies a.1).flatMap fun c => (List.range Config.pairs).filterMap fun l =>
    if r.countOn l c = 0 then none
    else some { array := a.1, copy := c, logical := l, pair := s.physical l, len := r.countOn l c * r.stripeSize a.1 }

/-- Places extents one after another, each at the lowest address where it fits (R265); `extra` gives ranges of a pair that
are taken besides. -/
def placeExtents (s : State) (extra : Nat → List (Nat × Nat)) (needs : List Need) : Option (List Extent) :=
  needs.foldl (fun acc n =>
    match acc with
    | none => none
    | some xs =>
      let taken := s.reserved n.pair ++ extra n.pair ++ (xs.filter fun x => x.pair = n.pair).map fun x => (x.base, x.len)
      if s.pairFailed n.pair ∨ !s.placement.usable.contains n.pair then none
      else (firstFit taken n.len (s.allocEnd n.pair)).map fun b =>
        xs ++ [{ array := n.array, copy := n.copy, logical := n.logical, pair := n.pair, base := b, len := n.len, stripe := n.stripe }])
    (some [])

/-- The outcome of an allocation: extents in zeroed space, or whether the space exists but is not yet zeroed: BUSY rather than NO_SPACE
(R131, R372). -/
def allocExtents (s : State) (needs : List Need) : List Extent ⊕ Bool :=
  match placeExtents s s.unzeroedBytes needs with
  | some xs => .inl xs
  | none => .inr ((placeExtents s (fun _ => []) needs).isSome)

/-- Bytes a parcel's regions reserve, against LEDGER_GB (R371). -/
def State.ledgerBytes (s : State) (parcel : Nat) : Nat :=
  s.regions.foldl (fun a e => if e.2.parcel = parcel then a + e.2.extents.foldl (fun a x => a + x.len) 0 else a) 0

/-- A byte range of a stack is freed: it is zeroed again before any allocation takes it (R372). -/
def freeRange (pair base len : Nat) (s : State) : State :=
  if len = 0 then s else s.setStack pair fun h => { h with unzeroed := runsGive (base / 2048, len / 2048) h.unzeroed }

/-- The extents of a region are freed. -/
def freeExtents (xs : List Extent) (s : State) : State := forEach xs (fun x s => freeRange x.pair x.base x.len s) s

/-! ### Finding and moving data -/

/-- Stack and address of one copy of a stripe; none where no working pair holds it (R386). -/
def State.locate (s : State) (r : Region) (a stripe copy : Nat) : Option (Nat × Nat) :=
  let here := r.extents.filter fun x => x.array = a ∧ x.copy = copy ∧ !s.pairFailed x.pair
  match here.find? fun x => x.stripe = some stripe with
  | some x => some (x.pair, x.base)
  | none =>
    match here.find? fun x => x.stripe = none ∧ x.logical = r.logical stripe copy with
    | some x => some (x.pair, x.base + stripe / Config.pairs * r.stripeSize a)
    | none => none

/-- The copies of a stripe that working pairs hold. -/
def State.copiesOf (s : State) (r : Region) (a stripe : Nat) : List Nat :=
  (r.copies a).filter fun c => (s.locate r a stripe c).isSome

/-- The unit is marked in one copy. -/
def Region.marked (r : Region) (a stripe unit copy : Nat) : Bool :=
  r.poison.contains { array := a, stripe := stripe, unit := unit, copy := copy }

/-- A unit is poisoned in every copy it has (R380). -/
def State.unitPoisoned (s : State) (r : Region) (a stripe unit : Nat) : Bool :=
  !(s.copiesOf r a stripe).isEmpty && (s.copiesOf r a stripe).all fun c => r.marked a stripe unit c

/-- POISONED of Table 6.1. -/
def State.poisonedUnits (s : State) (r : Region) : Nat :=
  ((r.poison.map fun u => (u.array, u.stripe, u.unit)).eraseDups.filter fun u => s.unitPoisoned r u.1 u.2.1 u.2.2).length

/-- Any unit of a stripe of an array is poisoned. -/
def State.stripePoisoned (s : State) (r : Region) (a stripe : Nat) : Bool :=
  (List.range (r.units a)).any fun u => s.unitPoisoned r a stripe u

/-- A stripe lost on a failed pair (R140, R386). -/
def Region.stripeLost (r : Region) (a stripe : Nat) : Bool := r.lost.contains (a, stripe)

/-- Bytes `[lo, lo + n)` of one stripe of an array, each unit from the first copy where it is good; none where the stripe is lost or a
unit there is poisoned. -/
def State.readStripe (s : State) (r : Region) (a stripe lo n : Nat) : Option Bytes :=
  let size := max 1 (r.unitSize a)
  let us := (List.range (r.units a)).filter fun u => lo < (u + 1) * size ∧ u * size < lo + n
  if r.stripeLost a stripe then none
  else us.foldl (fun acc u => acc.bind fun bs =>
    let first := max lo (u * size)
    ((s.copiesOf r a stripe).find? fun c => !r.marked a stripe u c).bind fun c =>
      (s.locate r a stripe c).map fun p => bs ++ Memory.readBytes (s.stack p.1).mem (p.2 + first) (min (lo + n) ((u + 1) * size) - first))
    (some [])

/-- A range of elements cut at stripe borders: (stripe, first element within it, count); `fuel` stripes at most. -/
def stripeParts : Nat → Nat → Nat → List (Nat × Nat × Nat)
  | 0, _, _ => []
  | fuel + 1, first, n =>
    if n = 0 then []
    else
      let k := min n (4096 - first % 4096)
      (first / 4096, first % 4096, k) :: stripeParts fuel (first + k) (n - k)

/-- Elements `first` to `first + n - 1` of an array of at most 64-bit elements: encodings, and whether any was lost or
poisoned (read as zero then). -/
def State.readElems (s : State) (r : Region) (a first n : Nat) : List Nat × Bool :=
  let bits := r.bits a
  (stripeParts (n / 4096 + 2) first n).foldl (fun acc p =>
    let lo := p.2.1 * bits / 8
    let hi := ((p.2.1 + p.2.2) * bits + 7) / 8
    match s.readStripe r a p.1 lo (hi - lo) with
    | some bs => (acc.1 ++ ((elemCodes bits bs).drop ((p.2.1 * bits % 8) / bits)).take p.2.2, acc.2)
    | none => (acc.1 ++ List.replicate p.2.2 0, true)) ([], false)

/-- A stripe's own elements: the last stripe's padding left out (R130, R137). -/
def Region.elemsOf (r : Region) (stripe : Nat) : Nat := min 4096 (r.count - 4096 * stripe)

/-- Arrays whose loading makes a region LOADED (R137). -/
def Region.loadable (r : Region) : List Nat := (r.arrays.map (·.1)).filter (· ≤ 3)

/-- Every stripe of every array the KIND needs is loaded (R137). -/
def Region.allLoaded (r : Region) : Bool := r.loadable.all fun a => (List.range r.stripes).all fun st => r.loaded.contains (a, st)

/-- STATE of Table 6.1: 0 NOT_LOADED, 1 LOADED, 2 LOST. -/
def Region.stateCode (r : Region) : Nat := if r.isLost then 2 else if r.allLoaded then 1 else 0

/-- A region whose last poisoned or lost unit has gone leaves LOST (R140, R383). -/
def settleLost (slot : Nat) (s : State) : State :=
  match tget slot s.regions with
  | some r => if r.isLost ∧ r.lost.isEmpty ∧ s.poisonedUnits r = 0 then s.setRegion slot fun r => { r with isLost := false } else s
  | none => s

/-- Stripes of an array marked loaded, or not loaded. -/
def Region.setLoaded (a first n : Nat) (on : Bool) (r : Region) : Region :=
  let rest := r.loaded.filter fun e => !(e.1 = a ∧ first ≤ e.2 ∧ e.2 < first + n)
  { r with loaded := if on then rest ++ (List.range n).map fun i => (a, first + i) else rest }

/-! ### Where an address lies -/

/-- The region unit at an address of a stack: slot, array, stripe, unit, copy. -/
def State.unitAt (s : State) (pair addr : Nat) : Option (Nat × PoisonUnit) :=
  ((s.extentsOn pair).find? fun e => e.2.base ≤ addr ∧ addr < e.2.base + e.2.len).bind fun e =>
    (tget e.1 s.regions).map fun r =>
      let x := e.2
      let off := addr - x.base
      let size := max 1 (r.stripeSize x.array)
      let stripe := x.stripe.getD (r.firstOn x.logical x.copy + Config.pairs * (off / size))
      (e.1, { array := x.array, stripe := stripe, unit := off % size / max 1 (r.unitSize x.array), copy := x.copy })

/-! ### Poison (R379-R383) -/

/-- Event 0x0B (Table 18.8): action 1 MARKED, 2 REPAIRED, 3 CLEARED. -/
def poisonEvent (slot : Nat) (r : Region) (a stripe unit action : Nat) (s : State) : State :=
  journalEvent 0x0B r.parcel [(64, 4, r.handle slot), (68, 1, a), (69, 1, action), (72, 8, stripe * r.units a + unit), (80, 4, 1)] s

/-- Event 0x09 (Table 18.7). -/
def yieldEvent (parcel lower higher case object which other : Nat) (s : State) : State :=
  journalEvent 0x09 parcel [(64, 1, lower), (65, 1, higher), (66, 1, case), (68, 4, object), (72, 4, which), (76, 2, other)] s

/-- Event 0x0A (Table 18.8). -/
def lostEvent (slot : Nat) (r : Region) (stripes cause : Nat) (s : State) : State :=
  journalEvent 0x0A r.parcel [(64, 4, r.handle slot), (68, 5, stripes), (73, 1, cause)] s

/-- A unit is marked poisoned in the copies named. Once every copy it has is marked the event is written; an unmirrored
region with grants becomes LOST and each grantee yields (R380, R383). -/
def markPoison (slot : Nat) (a stripe unit : Nat) (copies : List Nat) (s : State) : State :=
  match tget slot s.regions with
  | none => s
  | some r =>
    let was := s.unitPoisoned r a stripe unit
    let new := (copies.filter fun c => !r.marked a stripe unit c).map fun c =>
      ({ array := a, stripe := stripe, unit := unit, copy := c } : PoisonUnit)
    let r := { r with poison := r.poison ++ new }
    let s := s.setRegion slot fun _ => r
    if was ∨ !s.unitPoisoned r a stripe unit then s
    else
      let s := poisonEvent slot r a stripe unit 1 s
      if r.grantees.isEmpty ∨ r.mirror then s
      else
        let s := if r.isLost then s else lostEvent slot r 1 2 (s.setRegion slot fun r => { r with isLost := true })
        forEach r.grantees (fun g s => yieldEvent g 2 1 1 (r.handle slot) 0 r.parcel s) s

/-- Lines `lo` to `lo + n - 1` in bytes of one copy of a stripe, as (pair, line, unit). -/
def State.copyLines (s : State) (r : Region) (a stripe copy lo n : Nat) : List (Nat × Nat × Nat) :=
  match s.locate r a stripe copy with
  | none => []
  | some p =>
    let first := (p.2 + lo) / 2048
    if n = 0 then []
    else (List.range ((p.2 + lo + n - 1) / 2048 + 1 - first)).map fun i =>
      (p.1, first + i, (2048 * (first + i) - p.2) / max 1 (r.unitSize a))

/-- Data passes between two ledger pairs: it does so as frames through the crossbar (R15, log 96). -/
def State.passes (s : State) (a b : Nat) : Bool := a == b || !s.xbar.stopped

/-- A copy of a unit decodes, and can be brought to a pair. -/
def State.unitGood (s : State) (r : Region) (u : PoisonUnit) (pair : Nat) : Bool :=
  !r.marked u.array u.stripe u.unit u.copy &&
  (s.copyLines r u.array u.stripe u.copy (u.unit * r.unitSize u.array) (r.unitSize u.array)).all fun l =>
    s.decoded l.1 l.2.1 != .lost && s.passes l.1 pair

/-- A decode finds one copy of a unit uncorrectable: repaired from the other copy where that decodes, or marked; where neither decodes both are
marked (R380, R382, Table 18.2). -/
def damagedUnit (slot : Nat) (u : PoisonUnit) (s : State) : State :=
  match tget slot s.regions with
  | none => s
  | some r =>
    if s.unitPoisoned r u.array u.stripe u.unit ∨ r.stripeLost u.array u.stripe ∨ r.marked u.array u.stripe u.unit u.copy then s
    else
      let others := (s.copiesOf r u.array u.stripe).filter fun c => c ≠ u.copy
      let here := ((s.locate r u.array u.stripe u.copy).map (·.1)).getD 0
      match (others.find? fun c => s.unitGood r { u with copy := c } here).bind (s.locate r u.array u.stripe), s.locate r u.array u.stripe u.copy with
      | some src, some dst =>
        let size := r.unitSize u.array
        poisonEvent slot r u.array u.stripe u.unit 2
          (storeBytes dst.1 (dst.2 + u.unit * size) (Memory.readBytes (s.stack src.1).mem (src.2 + u.unit * size) size) s)
      | _, _ =>
        let dead := others.filter fun c =>
          (s.copyLines r u.array u.stripe c (u.unit * r.unitSize u.array) (r.unitSize u.array)).any fun l => s.decoded l.1 l.2.1 = .lost
        markPoison slot u.array u.stripe u.unit (u.copy :: dead) s

/-- Every unit of a stripe of an array is marked in every copy (R381, APPLY). -/
def markStripe (slot a stripe : Nat) (s : State) : State :=
  match tget slot s.regions with
  | none => s
  | some r => forEach (List.range (r.units a)) (fun u s => markPoison slot a stripe u (r.copies a) s) s

/-! ### Whole-line reads and writes of regions (R268, R270, R380) -/

/-- A reader decodes the lines of part of one copy of a stripe. -/
def decodeCopy (slot a stripe copy lo n : Nat) (s : State) : State :=
  match tget slot s.regions with
  | none => s
  | some r =>
    let ls := s.copyLines r a stripe copy lo n
    match ls with
    | [] => s
    | l :: _ =>
      let h := s.stack l.1
      if h.errors.isEmpty ∧ h.deaf.isEmpty then s.setStack l.1 (touchChecks l.2.1 ls.length false)
      else forEach ls (fun l s =>
        let lost := s.decoded l.1 l.2.1 = .lost
        let s := decodeCount l.1 l.2.1 false s
        if lost then damagedUnit slot { array := a, stripe := stripe, unit := l.2.2, copy := copy } s else s) s

/-- A reader decodes the lines of part of a stripe, in the copy that State.readStripe reads of each unit, before it has any bit of them (R268). -/
def decodeStripe (slot a stripe lo n : Nat) (s : State) : State :=
  match tget slot s.regions with
  | none => s
  | some r =>
    let size := max 1 (r.unitSize a)
    if r.stripeLost a stripe then s
    else forEach ((List.range (r.units a)).filter fun u => lo < (u + 1) * size ∧ u * size < lo + n) (fun u s =>
      match (s.copiesOf r a stripe).find? fun c => !r.marked a stripe u c with
      | none => s
      | some c =>
        let first := max lo (u * size)
        decodeCopy slot a stripe c first (min (lo + n) ((u + 1) * size) - first) s) s

/-- A reader decodes the lines of a run of elements of an array. -/
def decodeElems (slot a first n : Nat) (s : State) : State :=
  match tget slot s.regions with
  | none => s
  | some r =>
    let bits := r.bits a
    forEach (stripeParts (n / 4096 + 2) first n) (fun p s =>
      let lo := p.2.1 * bits / 8
      decodeStripe slot a p.1 lo ((((p.2.1 + p.2.2) * bits + 7) / 8) - lo) s) s

/-- Bytes written from byte `lo` of a stripe, in every copy it has. Lines written in part are read, and so decoded, first (R270). -/
def writeStripe (slot : Nat) (r : Region) (a stripe lo : Nat) (bs : Bytes) (s : State) : State :=
  forEach (s.copiesOf r a stripe) (fun c s =>
    match s.locate r a stripe c with
    | some p =>
      let head := if (p.2 + lo) % 2048 = 0 then 0 else min bs.length (2048 - (p.2 + lo) % 2048)
      let tail := if (p.2 + lo + bs.length) % 2048 = 0 then 0 else min bs.length ((p.2 + lo + bs.length) % 2048)
      let s := decodeCopy slot a stripe c lo head s
      let s := decodeCopy slot a stripe c (lo + bs.length - tail) tail s
      storeBytes p.1 (p.2 + lo) bs s
    | none => s) s

/-- Encodings written to the elements from `first` on, which begin at a whole byte. -/
def writeElems (slot : Nat) (r : Region) (a first : Nat) (codes : List Nat) (s : State) : State :=
  let bits := r.bits a
  (forEach (stripeParts (codes.length / 4096 + 2) first codes.length) (fun p s =>
    writeStripe slot r a p.1 (p.2.1 * bits / 8) (elemBytes bits ((codes.drop (p.1 * 4096 + p.2.1 - first)).take p.2.2)) s) s)

/-- Every stripe of an array set to zero, as a pending slot reads before any chain reaches it (R142). -/
def zeroArray (r : Region) (a : Nat) (s : State) : State :=
  forEach (r.extents.filter fun x => x.array = a) (fun x s => storeZeros x.pair x.base x.len s) s

/-- LEDGER_LOAD clears the marks of the stripes it rewrites, with event CLEARED for each unit that was poisoned in every
copy (R380). -/
def clearPoison (slot a first n : Nat) (s : State) : State :=
  match tget slot s.regions with
  | none => s
  | some r =>
    let mine (u : PoisonUnit) : Bool := u.array == a && first ≤ u.stripe && u.stripe < first + n
    let gone := ((r.poison.filter mine).map fun u => (u.stripe, u.unit)).eraseDups.filter fun u => s.unitPoisoned r a u.1 u.2
    let s := s.setRegion slot fun r => { r with poison := r.poison.filter fun u => !mine u }
    forEach gone (fun u s => poisonEvent slot r a u.1 u.2 3 s) s

/-! ### Bound gradients (R134, R135, R141-R143) -/

/-- Regions bound to a traverse: (slot, region). -/
def State.bound (s : State) (t : Nat) : List (Nat × Region) :=
  s.regions.filter fun e => e.2.gradValid && e.2.gradTraverse == t

/-- The bound region whose stream range holds an element position, and the shard element there (R134, R135). -/
def State.boundAt (s : State) (t pos : Nat) : Option (Nat × Region × Nat) :=
  ((s.bound t).find? fun e => e.2.gradElemFirst ≤ pos ∧ pos < e.2.gradElemFirst + 4096 * e.2.stripes).map fun e =>
    (e.1, e.2, pos - e.2.gradElemFirst)

/-- The region's slot of a generation: array code 4 or 5 and the slot (R141). -/
def Region.slotOf (r : Region) (gen : BitVec 32) : Option (Nat × Slot) :=
  match r.slot0 with
  | some p => if p.gen = gen then some (4, p) else
      match r.slot1 with
      | some q => if q.gen = gen then some (5, q) else none
      | none => none
  | none =>
    match r.slot1 with
    | some q => if q.gen = gen then some (5, q) else none
    | none => none

/-- The slot of an array code replaced. -/
def Region.putSlot (r : Region) (a : Nat) (v : Option Slot) : Region := if a = 4 then { r with slot0 := v } else { r with slot1 := v }

/-- Slots that hold a COMPLETE generation, the older generation first (R141): PENDING_GEN0 is the first. -/
def Region.pendingSlots (r : Region) : List (Nat × Slot) :=
  let held (a : Nat) (o : Option Slot) : List (Nat × Slot) := match o with
    | some p => if p.complete then [(a, p)] else []
    | none => []
  let l := held 4 r.slot0 ++ held 5 r.slot1
  match l with
  | [x, y] => if before32 y.2.gen x.2.gen then [y, x] else [x, y]
  | l => l

/-- Bytes of a list of needs. -/
def needBytes (ns : List Need) : Nat := ns.foldl (fun a n => a + n.len) 0

/-- Bytes a parcel may reserve, none where it is unlimited (R371). -/
def State.overQuota (s : State) (parcel bytes : Nat) : Bool :=
  match s.parcel parcel with
  | none => true
  | some p => p.plat.ledgerGb != 0xFFFFFFFF && decide (s.ledgerBytes parcel + bytes > p.plat.ledgerGb * 2 ^ 30)

/-- The slot the next generation takes in a region. -/
def Region.nextSlot (r : Region) : Nat := if r.slot0.isNone then 4 else 5

/-- Space that a slot asks anew for the stripes whose pair has failed: on the pair to which their logical index now resolves
(R386, as R137 provides for a reload; log 76). -/
def State.slotNeeds (s : State) (r : Region) : List Need :=
  let a := r.nextSlot
  ((List.range r.stripes).filter fun st => (s.copiesOf r a st).isEmpty).map fun st =>
    { array := a, copy := 0, logical := r.logical st 0, pair := s.physical (r.logical st 0), len := r.stripeSize a, stripe := some st }

/-- Every region bound to the traverse has a free slot (R141), and the slots' stripes have their space. -/
def State.slotsFree (s : State) (t : Nat) : Bool :=
  let needs := (s.bound t).flatMap fun e => s.slotNeeds e.2
  ((s.bound t).all fun e => (e.2.slot0.isNone || e.2.slot1.isNone) &&
      ((s.slotNeeds e.2).isEmpty || !s.overQuota e.2.parcel (needBytes (s.slotNeeds e.2)))) &&
  (match allocExtents s needs with
   | .inl _ => true
   | .inr _ => false)

/-- A generation takes one free slot of every bound region; a slot reads +0 where no chain reaches it (R141, R142). -/
def takeSlots (t : Nat) (gen : BitVec 32) (seed : BitVec 64) (s : State) : State :=
  forEach (s.bound t) (fun e s =>
    let xs := match allocExtents s (s.slotNeeds e.2) with
      | .inl xs => xs
      | .inr _ => []
    let r := { e.2 with extents := e.2.extents ++ xs }
    zeroArray r r.nextSlot (s.setRegion e.1 fun _ => r.putSlot r.nextSlot (some { gen := gen, seed := seed }))) s

/-- The slots of a generation are freed (R141). -/
def dropSlots (t : Nat) (gen : BitVec 32) (s : State) : State :=
  forEach (s.bound t) (fun e s =>
    match e.2.slotOf gen with
    | some (a, _) => s.setRegion e.1 fun r => r.putSlot a none
    | none => s) s

/-- The slots of a generation hold a COMPLETE gradient (R141). -/
def completeSlots (t : Nat) (gen : BitVec 32) (s : State) : State :=
  forEach (s.bound t) (fun e s =>
    match e.2.slotOf gen with
    | some (a, p) => s.setRegion e.1 fun r => r.putSlot a (some { p with complete := true })
    | none => s) s

/-- A ready chain of FP32 encodings from stream position `pos` on ledger die `die` is written into its region's slot, with
its squared-norm partial (R142, R143). False where no bound region with a slot of this generation holds it. -/
def writePending (t : Nat) (gen : BitVec 32) (pos die : Nat) (codes : List Nat) (s : State) : Option State :=
  (s.boundAt t pos).bind fun b =>
    let (slot, r, elem) := b
    (r.slotOf gen).map fun p =>
      let own := codes.take (r.count - elem)
      let s := writeElems slot r p.1 elem own s
      let sq := own.map fun c => Lx.ofNum r.normD r.normF ((Fp.fp32.decode c).mul (Fp.fp32.decode c))
      let old := (tget die p.2.norms).getD {}
      let norms := tset die (sq.foldl (fun a x => Lx.sumWide [a, x]) old) p.2.norms
      s.setRegion slot fun r => r.putSlot p.1 (some { p.2 with norms := norms })

end Sys2Proof.Machine
end

