-- ==== Sys2Proof/Machine/Tallies.lean ====
section
/-! DEFINITION. Tallies as operations (R81-R85, R113): releasing a round in either mode, the last-arrival record and SUSPECT,
and the frames a part sends for a tally. The home of index t is logical ledger index t mod 30 (R16). -/
namespace Sys2Proof.Machine

/-- Crossbar port of the ledger die that homes a traverse or tally index (R16). -/
def State.homePort (s : State) (t : Nat) : Nat := Config.diePort (s.physical (t % Config.pairs))

/-- A CONTROL frame of an index, sent from its home die to external ports. -/
def sendControl (vc sub t : Nat) (gen : BitVec 32) (datum survey : Int) (payload : Bytes) (targets : List Nat) (s : State) : State :=
  if targets.isEmpty then s
  else
    let src := s.homePort t
    sendDown src (controlFrame s src vc sub t gen datum survey payload) targets s

/-- SURVEY field of a frame that names none (Table 4.2). -/
def noSurvey : Int := -32768

/-- T_h in ns (R76). -/
def limitNs (height timeoutUs : Nat) : Nat := (height + 1) * timeoutUs * 1000

/-- STATE of Table 3.10: 1 ARMED, 2 FAILED_ROUND until the next round begins with its first arrival (R83). -/
def Tally.stateCode (y : Tally) : Nat := if y.failedRound ∧ y.arrived.isEmpty then 2 else 1

/-- EXPECT: one arrival per member-table entry (Table 3.10). -/
def Tally.expect (y : Tally) : Nat := y.entries.length

/-- Ports of a tally's members and children. -/
def Tally.ports (y : Tally) : List Nat := y.entries.map (·.port)

/-- The 16-byte payload of a RELEASE (Table 4.4): status, then bytes 0 to 14 of the record; zero for OK in BARRIER mode. -/
def releasePayload (status : Nat) (record : Option AbortRec) : Bytes :=
  match record with
  | none => BitVec.ofNat 8 status :: List.replicate 15 0
  | some r => BitVec.ofNat 8 status :: r.bytes.take 15

/-- How many of the last WINDOW successful rounds name a port as last to arrive (R85). -/
def Tally.lastCount (y : Tally) (port : Nat) : Nat := (y.lastArrivals.filter (· = port)).length

/-- SUSPECT completion (Table 14.6). -/
def suspectEvent (t : Nat) (y : Tally) (port : Nat) (set : Bool) (s : State) : State :=
  postEvent y.parcel 4 0 (packFields [(0, 12, t), (16, 8, port), (24, 1, if set then 1 else 0), (32, 16, y.lastCount port),
    (64, 32, y.round.toNat)]) s

/-- SUSPECT follows the counts: set above SUSPECT_SET, cleared at SUSPECT_CLEAR or less; each change is reported (R85). -/
def settleSuspects (t : Nat) (s : State) : State :=
  match s.tally t with
  | none => s
  | some y =>
    forEach y.ports (fun p s =>
      match s.tally t with
      | none => s
      | some y =>
        let c := y.lastCount p
        if !y.suspects.contains p ∧ c > y.suspectSet then
          suspectEvent t y p true (s.setTally t fun y => { y with suspects := y.suspects ++ [p] })
        else if y.suspects.contains p ∧ c ≤ y.suspectClear then
          suspectEvent t y p false (s.setTally t fun y => { y with suspects := y.suspects.filter (· ≠ p) })
        else s) s

/-- The record of the member whose arrival made COUNT reach EXPECT joins the last-arrival record (R85). -/
def Tally.recordLast (y : Tally) : Tally :=
  match y.arrived.getLast? with
  | some p => if y.arrived.length = y.expect then { y with lastArrivals := (p :: y.lastArrivals).take y.window } else y
  | none => y

/-- A round ends: ROUND rises, COUNT clears, the release is kept for queries (R82, R83, R113). -/
def Tally.endRound (status : Nat) (record : AbortRec) (y : Tally) : Tally :=
  { y with round := y.round + 1, arrived := [], requested := false, waitAt := none
           released := some (y.round, status, record)
           failedRound := status == 6
           timeouts := if status = 6 then y.timeouts + 1 else y.timeouts }

/-- A BARRIER round is released here and passed to every member and child: status 0 OK or 6 TIMEOUT (R82, R83, R85). -/
def releaseBarrier (t status : Nat) (record : AbortRec) (s : State) : State :=
  match s.tally t with
  | none => s
  | some y =>
    let s := sendControl 0 8 t y.round 0 0 (releasePayload status (if status = 0 then none else some record)) y.ports s
    let s := if status = 0 then settleSuspects t (s.setTally t Tally.recordLast) else s
    s.setTally t fun y => y.endRound status record

/-- A GEN-mode tally releases its current round on a verdict, to its ENDPOINT members (R84). -/
def releaseGen (t status : Nat) (record : AbortRec) (s : State) : State :=
  match s.tally t with
  | none => s
  | some y =>
    if !y.genMode then s
    else
      let s := sendControl 0 8 t y.round 0 0 (releasePayload status (some record))
        ((y.entries.filter fun e => e.role = .endpoint).map (·.port)) s
      s.setTally t fun y => y.endRound status record

/-- A discarded tally frame (R81). -/
def discardTally (t : Nat) (s : State) : State := s.bump Counter.arrivalDiscard t

end Sys2Proof.Machine
end

