-- ==== Sys2Proof/Machine/Generations.lean ====
section
/-! DEFINITION. Traverses and generations as operations (R51-R80, R111, R113): the context of a generation, its members, the
choice of D, aborting, completing and passing the verdict down, and the return of a traverse to READY or FREE. -/
namespace Sys2Proof.Machine

/-! ### Contexts and members -/

/-- The context that applies to a generation (R58). -/
def Traverse.ctxAt (v : Traverse) (g : BitVec 32) : Ctx :=
  match v.prev with
  | some (old, first) => if before32 g first then old else v.ctx
  | none => v.ctx

def Ctx.isRoot (c : Ctx) : Bool := c.position == .root

/-- A pass traverse's source at the root: an ENDPOINT entry of a BROADCAST with RANK_COUNT 0 (R197). -/
def Ctx.isPass (c : Ctx) : Bool :=
  c.kind == .broadcast && c.isRoot && c.entries.any fun e => e.role == .endpoint && e.rankCount == 0

/-- The entry at index i owes chains to this part (R76, R90): a contributor of a REDUCE or PERMUTE with ranks of its own, or
the source of a pass traverse. -/
def Ctx.owes (c : Ctx) (e : Member) : Bool :=
  match c.kind with
  | .broadcast => c.isRoot && e.role == .endpoint && e.rankCount == 0
  | _ => e.rankCount > 0 && e.role != .dest

/-- Indices of the entries that owe chains. -/
def Ctx.contributors (c : Ctx) : List Nat := (c.entries.zipIdx.filter fun e => c.owes e.1).map (·.2)

/-- Receiving entries of a BROADCAST (R51). -/
def Ctx.receivers (c : Ctx) : List Member := c.entries.filter fun e => (e.role == .endpoint || e.role == .child) && e.rankCount > 0

/-- Receiving entries of one chain: all, or under SHARD_CHAINS = S those whose ranks r hold chain rS to rS + S - 1 (Table 3.1). -/
def Ctx.receiversOf (c : Ctx) (chain : Nat) : List Member :=
  if c.shardChains = 0 then c.receivers
  else c.receivers.filter fun e => e.rankFirst * c.shardChains ≤ chain ∧ chain < (e.rankFirst + e.rankCount) * c.shardChains

/-- Ports that a verdict goes to: every child part and every member (R66). -/
def Ctx.memberPorts (c : Ctx) : List Nat := ((c.entries.filter fun e => e.port < 128).map (·.port)).eraseDups

/-- Ports an OPEN or DATUM frame goes down to: child parts and ENDPOINT members (R61, R71). -/
def Ctx.downPorts (c : Ctx) : List Nat :=
  ((c.entries.filter fun e => e.role = .endpoint ∨ e.role = .child).map (·.port)).eraseDups

/-- VC of a generation's verdict (R66). -/
def Ctx.verdictVc (c : Ctx) : Nat := if c.kind = .broadcast then 2 else 0

/-- A traverse's SURVEYING state exists for a REDUCE only: no other kind has surveying entries (R400). -/
def Ctx.surveys (c : Ctx) : Bool := c.dmode == .survey && c.kind == .reduce

/-! ### Generations -/

def GenPhase.isTerminal : GenPhase → Bool
  | .complete | .aborted => true
  | _ => false

/-- SURVEYING, OPEN or SENT. -/
def Gen.isOpen (x : Gen) : Bool := x.phase == .surveying || x.phase == .open_ || x.phase == .sent

def Traverse.gen? (v : Traverse) (g : BitVec 32) : Option Gen := v.gens.find? fun x => x.gen = g

/-- One generation of a traverse replaced by a function of it. -/
def State.setGen (t : Nat) (g : BitVec 32) (f : Gen → Gen) (s : State) : State :=
  s.setTraverse t fun v => { v with gens := v.gens.map fun x => if x.gen = g then f x else x }

/-- A generation of a traverse. -/
def State.genOf (s : State) (t : Nat) (g : BitVec 32) : Option Gen := (s.traverse t).bind fun v => v.gen? g

/-- The generation is within the window OLDEST_GEN to OLDEST_GEN + 7 (R60). -/
def Traverse.inWindow (v : Traverse) (g : BitVec 32) : Bool := (g - v.oldestGen).toNat < 8

/-- No generation is open: what ACTIVE means has ended (Table 3.5). -/
def Traverse.quiet (v : Traverse) : Bool := v.gens.all fun x => x.phase.isTerminal

/-- The binding of a traverse (Table 7.3). -/
def State.binding (s : State) (t : Nat) : Binding := (tget t s.bindings).getD {}

/-- Basis and RECON of a projected generation (R179). A traverse with a region bound to it uses RECON (R174). -/
def State.projection (s : State) (t : Nat) (g : BitVec 32) : Option (Basis × Bool) :=
  let b := s.binding t
  let bound := !(s.bound t).isEmpty
  if b.valid ∧ ¬ before32 g b.firstGen then some (s.bases.getD b.slot {}, b.recon || bound)
  else if b.prevValid ∧ before32 g b.firstGen then some (s.bases.getD b.prevSlot {}, b.prevRecon || bound)
  else none

/-- Basis slot of a projected generation (R179). -/
def State.projSlot (s : State) (t : Nat) (g : BitVec 32) : Option Nat :=
  let b := s.binding t
  if b.valid ∧ ¬ before32 g b.firstGen then some b.slot else if b.prevValid ∧ before32 g b.firstGen then some b.prevSlot else none

/-- Bytes of a slot in a basis store, and of the store itself: SRAM banks 0 and 1 (R178, R279; the place of a slot is DESIGN CHOICE, log 99). -/
def slotBytes : Nat := 65536
def basisBytes : Nat := 524288

/-- Bytes of a slot's pre-skewed Q that differ from the slot's in a die's basis store, by their place in the slot. -/
def LedgerDie.pokedIn (d : LedgerDie) (slot : Nat) : List (Nat × Byte) :=
  (d.sram.filter fun e => e.1 / slotBytes = slot ∧ e.1 % slotBytes < 32768).map fun e => (e.1 % slotBytes, e.2)

/-- The bytes the arrays of a die hold for a slot: those of the last stationary load while the slot is active, else what the next one puts there. -/
def LedgerDie.cellsOf (d : LedgerDie) (slot : Nat) : List (Nat × Byte) := if d.activeBasis = some slot then d.cells else d.pokedIn slot

/-- The bytes the arrays of a die hold for a projected generation. -/
def State.cellsFor (s : State) (die t : Nat) (g : BitVec 32) : List (Nat × Byte) := ((s.projSlot t g).map (s.die die).cellsOf).getD []

/-- A die projects or reconstructs a chain of a generation: a stationary load makes the chain's slot its active basis (R182, R184). -/
def activate (t : Nat) (g : BitVec 32) (die : Nat) (s : State) : State :=
  match s.projSlot t g with
  | some n => s.setDie die fun d => { d with cells := d.cellsOf n, activeBasis := some n }
  | none => s

/-- A die's copy of a slot in its basis store is lost: it is copied from another die's store, or, where no other has it, the die's projection is
unavailable until the slot is loaded again (Table 18.2). -/
def loseStore (die slot : Nat) (s : State) : State :=
  let other := (List.range Config.pairs).any fun j => j ≠ die ∧ !s.pairFailed j ∧ !(s.die j).lostSlots.contains slot ∧ s.passes j die
  s.setDie die fun d =>
    { d with sram := d.sram.filter fun e => e.1 / slotBytes ≠ slot
             lostSlots := if other ∨ d.lostSlots.contains slot then d.lostSlots else d.lostSlots ++ [slot] }

/-- A ledger die can project: every array passes and its basis store is good (R186, Table 18.2). -/
def State.projAvail (s : State) (i : Nat) : Bool :=
  !s.pairFailed i && (s.die i).lostSlots.isEmpty && (s.die i).spares.all (· ≠ 3)

/-- The dies whose projection is available, in increasing logical ledger index (R183). -/
def State.projDies (s : State) : List Nat := ((List.range Config.pairs).map s.physical).eraseDups.filter s.projAvail

/-- The part has ledger pairs enough to hold accumulators (R388). -/
def State.ledgerOk (s : State) : Bool := s.placement.usable.length > Config.half

/-- The die that accumulates a chain (R134, R183). -/
def State.placeChain (s : State) (t : Nat) (g : BitVec 32) (c : Ctx) (chain : Nat) : Nat :=
  match s.projection t g with
  | some _ => let ds := s.projDies; ds.getD ((t + chain) % max 1 ds.length) 0
  | none =>
    match (if c.isRoot then s.boundAt t (chain * fmtElems c.fmtIn) else none) with
    | some (_, r, elem) => s.physical (r.logical (elem / 4096) 0)
    | none => s.physical ((t + chain) % Config.pairs)

/-! ### The datum (R70-R72) -/

/-- D from a survey (R71, R72); DATUM where nothing finite and nonzero was met. -/
def surveyDatum (s : Int) (headroom : Nat) (datum : Int) : Int :=
  if s = noSurvey then datum else max (-256) (min (s + 1 + headroom) 255)

/-- D of a generation under CARRIED: from the highest-numbered generation at or below g - 8 that completed with a survey (R72). -/
def Traverse.carriedDatum (v : Traverse) (g : BitVec 32) : Int :=
  let c := v.ctxAt g
  let old := v.surveys.filter fun e => e.1 = g - 8 ∨ before32 e.1 (g - 8)
  match old with
  | [] => c.datum
  | e :: es => surveyDatum (es.foldl (fun b x => if before32 b.1 x.1 then x else b) e).2 c.headroom c.datum

/-! ### Accumulators freed -/

/-- What an accumulator holds in HBM is freed (R284, R285). -/
def freeAcc (a : Acc) (s : State) : State :=
  forEach a.spilled (fun l s => freeRange a.die (2048 * l) 2048
    (s.setStack a.die fun h => { h with spillLines := h.spillLines.filter (· ≠ l) })) s

/-- Every accumulator of a generation is freed (R68). -/
def freeAccs (t : Nat) (g : BitVec 32) (s : State) : State :=
  match s.genOf t g with
  | some x => (forEach x.accs freeAcc s).setGen t g fun x => { x with accs := [] }
  | none => s

/-! ### Gap frames (R111) -/

/-- The gap frame of a lost chain: its header with GAP and LAST set, FIRST_ELEM and PAYLOAD_LEN zero, and CKIND 0. -/
def gapFrame (l : LostChain) : Frame :=
  let h := withBits (withBits (withBits (withBits l.header 11 1 1) 13 1 1) 160 13 0) 173 13 0
  let f : Frame := { header := withHcrc h, payload := [], trailer := 0 }
  { f with trailer := BitVec.ofNat 128 (frameCrc f <<< 64) }

/-- A gap frame goes to every target; each is counted in GAP_SENT, at the die that homes the traverse. -/
def sendGaps (t : Nat) (ls : List LostChain) (s : State) : State :=
  forEach ls (fun l s =>
    (stageFrame (s.homePort t) (s.homePort t) false (gapFrame l) l.targets s).bumpBy l.targets.length Counter.gapSent
      (s.physical (t % Config.pairs))) s

/-- The parcel's non-determinism counter rises (R89). -/
def bumpNondet (parcel : Nat) (s : State) : State := s.setParcel parcel fun p => { p with nondet := p.nondet + 1 }

/-! ### The destination of a PERMUTE (R195, R196) -/

/-- Stripes of a destination region that a run of shard elements touches. -/
def stripesOf (first n : Nat) : List Nat := if n = 0 then [] else (List.range ((first + n - 1) / 4096 + 1 - first / 4096)).map (first / 4096 + ·)

/-- Part of a PERMUTE chain that falls in the destination: (first shard element, offset in the chain, count) (R195). -/
def permuteSpan (c : Ctx) (r : Region) (ch : Nat) : Nat × Nat × Nat :=
  let e := fmtElems c.fmtIn
  let lo := c.seed.toNat + ch * e
  let a := max lo r.elemFirst
  let b := min (lo + e) (r.elemFirst + r.count)
  if a < b then (a - r.elemFirst, a - lo, b - a) else (0, 0, 0)

/-- Chains of a PERMUTE: MEMBERS times SHARD_CHAINS, read as 1 where 0 (R195). -/
def Ctx.permuteChains (c : Ctx) : Nat := c.ranks * max 1 c.shardChains

/-- The destination region of a PERMUTE root (R195). -/
def State.destRegion (s : State) (c : Ctx) : Option (Nat × Region) :=
  (c.entries.find? fun e => e.role = .dest ∧ e.region ≠ 0).bind fun e => s.regionAt e.region

/-- Every stripe of the destination that a PERMUTE writes becomes not loaded: when it opens at its root, and when it aborts there (R68,
R196). -/
def permuteUnload (c : Ctx) (s : State) : State :=
  match s.destRegion c with
  | some (slot, _) =>
    s.setRegion slot fun r =>
      let spans := (List.range c.permuteChains).flatMap fun ch => let p := permuteSpan c r ch; stripesOf p.1 p.2.2
      { r with loaded := r.loaded.filter fun e => !(e.1 = 0 ∧ spans.contains e.2) }
  | none => s

/-! ### Frames of a generation still in the part -/

/-- Chains of a BROADCAST generation are staged, stored or awaiting their lookup: not yet sent to every receiver (Table 3.6). -/
def State.chainsInside (s : State) (t : Nat) (g : BitVec 32) : Bool :=
  (s.xbar.records.any fun r => r.frame.chainOf t g) ||
  (s.xbar.inputs.any fun e => e.2.staging.any fun st => st.record.isNone && st.frame.chainOf t g) ||
  (s.xbar.lookup.any fun x => x.frame.chainOf t g)

/-! ### Verdicts -/

/-- The record of a verdict joins the 64 most recent (R113). -/
def Traverse.remember (w : Verdict) (v : Traverse) : Traverse := { v with verdicts := (w :: v.verdicts).take 64 }

/-- The verdict of a generation is recorded as COMPLETE. -/
def Traverse.completed? (v : Traverse) (g : BitVec 32) : Bool := v.verdicts.any fun w => w.gen == g && w.phase == .complete

/-- An accepted APPLY still has to take its gradient from a pending slot of the region (R148). -/
def State.applyHolds (s : State) (slot : Nat) (p : Slot) : Bool :=
  s.mailbox.running.any fun r => match r.ending with
    | .apply h g _ _ _ _ _ _ => h % 65536 == slot && g == p.gen
    | _ => false

/-- The traverse returns to FREE: pending slots go, but for one that an accepted APPLY has yet to consume, and so does the binding (R59,
R141, R148, R181). -/
def freeTraverse (t : Nat) (s : State) : State :=
  let s := forEach (s.bound t) (fun e s => s.setRegion e.1 fun r =>
    { r with slot0 := r.slot0.filter (s.applyHolds e.1), slot1 := r.slot1.filter (s.applyHolds e.1) }) s
  let s := match s.traverse t with
    | some v => forEach v.kept (fun k s => freeAcc k.2.2 s) s
    | none => s
  { s with traverses := tdel t s.traverses
           bindings := tmap t (fun b => { b with valid := false, prevValid := false }) s.bindings }

/-- OLDEST_GEN moves past terminal generations, lowest first (Table 3.2); `fuel` of them at most. -/
def Traverse.passTerminal : Nat → Traverse → Traverse
  | 0, v => v
  | fuel + 1, v =>
    match v.gens with
    | x :: rest => if x.phase.isTerminal then Traverse.passTerminal fuel { v with gens := rest, oldestGen := v.oldestGen + 1 } else v
    | [] => v

/-- After a generation has ended: OLDEST_GEN, and READY or FREE when none is open (Table 3.5). -/
def settleTraverse (t : Nat) (s : State) : State :=
  let s := s.setTraverse t (Traverse.passTerminal 9)
  match s.traverse t with
  | none => s
  | some v =>
    if v.quiet then
      if v.state = .closing then freeTraverse t s else s.setTraverse t fun v => { v with state := .ready }
    else s

/-- VERDICT completion at the root (R69, Table 14.6). -/
def reportVerdict (c : Ctx) (status : Nat) (r : AbortRec) (s : State) : State :=
  if c.isRoot ∧ c.report ≥ 1 then postEvent c.parcel 2 status (leNat r.bytes) s else s

/-- The tally the context names is notified of a verdict (R69, R84). -/
def notifyTally (t : Nat) (c : Ctx) (status : Nat) (r : AbortRec) (s : State) : State :=
  if c.tallyValid then
    match s.tally c.tally with
    | some y => if y.traverse = t then releaseGen c.tally status r s else s
    | none => s
  else s

/-- BROADCAST traverses of this root that take generation `g` of their chains from REDUCE `t`, under the context that applies to `g`
(R58, R61). -/
def State.linkedTo (s : State) (t : Nat) (g : BitVec 32) : List Nat :=
  (s.traverses.filter fun e =>
    let c := e.2.ctxAt g
    c.kind == .broadcast && c.linkValid && c.link == t && c.isRoot).map (·.1)

/-- Linked BROADCAST generation `g` has not reached a terminal state: it is open, or it opens yet (R60, R69). -/
def State.linkedLive (s : State) (b : Nat) (g : BitVec 32) : Bool :=
  (s.traverse b).any fun w => match w.gen? g with
    | some y => !y.phase.isTerminal
    | none => w.state != .closing && !before32 g w.nextGen

/-- The accumulators that REDUCE `t` kept for its linked BROADCAST generations are freed once the last of these is terminal (R69). -/
def releaseKept (t : Nat) (g : BitVec 32) (s : State) : State :=
  if (s.linkedTo t g).any fun b => s.linkedLive b g then s
  else match s.traverse t with
    | none => s
    | some v =>
      (forEach (v.kept.filter fun k => k.1 = g) (fun k s => freeAcc k.2.2 s) s).setTraverse t fun v =>
        { v with kept := v.kept.filter fun k => k.1 ≠ g }

/-- What the end of a linked BROADCAST generation frees at its REDUCE (R69). -/
def releaseLink (c : Ctx) (g : BitVec 32) (s : State) : State :=
  if c.kind = .broadcast ∧ c.linkValid ∧ c.isRoot then releaseKept c.link g s else s

/-- Sends an ABORT_COMMON verdict, or lets it wait behind the chains of a BROADCAST generation that are still inside (R66). -/
def sendAbort (t : Nat) (g : BitVec 32) (c : Ctx) (r : AbortRec) (s : State) : State :=
  if c.kind = .broadcast ∧ s.chainsInside t g then
    { s with owedVerdicts := s.owedVerdicts ++ [{ traverse := t, gen := g, record := r, ports := c.memberPorts }] }
  else sendControl c.verdictVc 5 t g 0 0 r.bytes c.memberPorts s

/-- Verdicts whose chains have all left the part are sent (R66). -/
def sendOwed (s : State) : State :=
  let (wait, go) := s.owedVerdicts.partition fun o => s.chainsInside o.traverse o.gen
  forEach go (fun o s => sendControl 2 5 o.traverse o.gen 0 0 o.record.bytes o.ports s) { s with owedVerdicts := wait }

/-- A generation becomes ABORTED here with a record: accumulators, slots and what it loaded are void, the verdict goes down, the record is
kept, reported and passed to the tally (R66, R68, R69). -/
def abortedHere (t : Nat) (g : BitVec 32) (r : AbortRec) (s : State) : State :=
  match s.traverse t with
  | none => s
  | some v =>
    let c := v.ctxAt g
    let s := dropSlots t g (freeAccs t g s)
    let s := if c.isRoot ∧ c.kind = .permute then permuteUnload c s else s
    let s := s.setGen t g fun x => { x with phase := .aborted, record := some r }
    let s := s.setTraverse t fun v => Traverse.remember { gen := g, phase := .aborted, record := r }
      { v with aborted := v.aborted + 1 }
    let s := releaseLink c g (sendAbort t g c r s)
    settleTraverse t (notifyTally t c 8 r (reportVerdict c 8 r s))

/-- ABORT_REQs of a generation that have reached this part together with the cause it settles: those delivered to a ledger die and not yet
taken, each with its port (R67; DESIGN CHOICE, log 59). -/
def State.abortReqs (s : State) (t : Nat) (g : BitVec 32) (c : Ctx) : List (Nat × AbortRec) :=
  (s.dies.flatMap fun d => d.reseq.inbox).filterMap fun rx =>
    if isControl 6 rx.frame ∧ controlOk rx.frame ∧ rx.frame.traverse = t ∧ rx.frame.gen = g ∧ c.entries.any (fun e => e.port == rx.port) then
      some (rx.port, abortRecOf rx.frame.payload)
    else none

/-- The record with which a root aborts: of the cause at hand, which came by `port`, and every ABORT_REQ that reached it with that one (R67). -/
def State.settledCause (s : State) (t : Nat) (g : BitVec 32) (port : Nat) (r : AbortRec) : AbortRec :=
  match s.traverse t with
  | none => r
  | some v => ((s.abortReqs t g (v.ctxAt g)).foldl firstCause (port, r)).2

/-- The root aborts a generation, and with it the linked BROADCAST generations of the same number, with one record (R66, R67). -/
def finishAborted (t : Nat) (g : BitVec 32) (port : Nat) (r : AbortRec) (s : State) : State :=
  let r := s.settledCause t g port r
  forEach (s.linkedTo t g) (fun b s =>
    match s.genOf b g with
    | some x => if x.phase.isTerminal then s else abortedHere b g r s
    | none => s) (abortedHere t g r s)

/-- Cause with which a PERMUTE into a region that carries a grant ends: Table 3.8 has none for it, and R161 fails the PERMUTE with DENIED,
a status no frame carries (DESIGN CHOICE, log 81: CLOSED). -/
def deniedCause : Nat := 0x0A

/-- No chain concerned (Table 3.9). -/
def noChain : Nat := 0xFFFFFFFFFF

/-- The part detects a cause (R66): the root aborts the generation, a non-root part enters ABORTING, frees its accumulators and
sends an ABORT_REQ. Nothing happens to a generation that is not SURVEYING, OPEN or SENT. -/
def abortGen (t : Nat) (g : BitVec 32) (cause port chain : Nat) (s : State) : State :=
  match s.traverse t with
  | none => s
  | some v =>
    match v.gen? g with
    | none => s
    | some x =>
      if !x.isOpen then s
      else
        let c := v.ctxAt g
        let r : AbortRec := { gen := g, traverse := t, cause := cause, port := port, part := s.number, chain := chain }
        if c.isRoot then finishAborted t g ownRank r s
        else
          let s := (freeAccs t g s).setGen t g fun x => { x with phase := .aborting, record := some r, waitAt := s.clock }
          sendControl 0 6 t g 0 0 r.bytes [c.uptree] s

/-- The survey a DONE verdict carries (R72, Table 4.4). -/
def doneSurvey (c : Ctx) (sv : Int) : Int := if c.dmode = .carried then sv else noSurvey

/-- A generation becomes COMPLETE here (R65): gap frames for chains lost on their way down go first, with the yield of
determinism (R111, R393), then DONE goes down; the verdict is kept, reported and passed to the tally. -/
def completeHere (t : Nat) (g : BitVec 32) (sv : Int) (s : State) : State :=
  match s.traverse t with
  | none => s
  | some v =>
    match v.gen? g with
    | none => s
    | some x =>
      let c := v.ctxAt g
      let r := doneRec t g s.number
      let s := if x.lost.isEmpty then s
        else bumpNondet c.parcel (yieldEvent c.parcel 3 1 2 t g.toNat 0xFFFF (sendGaps t x.lost s))
      let s := if c.isRoot then s else freeAccs t g s
      let s := if c.isRoot then completeSlots t g s else s
      let s := s.setGen t g fun x => { x with phase := .complete }
      let s := s.setTraverse t fun v => Traverse.remember { gen := g, record := r, survey := doneSurvey c sv, yielded := !x.lost.isEmpty }
        { v with completed := v.completed + 1
                 surveys := if c.dmode = .carried ∧ sv ≠ noSurvey then ((g, sv) :: v.surveys).take 64 else v.surveys }
      let s := releaseLink c g (sendControl c.verdictVc 4 t g 0 (doneSurvey c sv) [] c.memberPorts s)
      settleTraverse t (notifyTally t c 0 r (reportVerdict c 0 r s))

/-- What a BROADCAST generation still owes its receivers has been read and sent: by its REDUCE, its source entry, or this root's
regions (Table 3.6, R61). -/
def State.sourceDone (s : State) (v : Traverse) (x : Gen) : Bool :=
  let c := v.ctxAt x.gen
  if c.linkValid then
    match s.traverse c.link with
    | some w => match w.gen? x.gen with
        | some y => y.phase == .complete
        | none => w.completed? x.gen
    | none => false
  else x.emitted || x.endSent

/-- BROADCAST generations whose chains have all left the part: COMPLETE at the root, SENT elsewhere once END has passed
(Table 3.6). -/
def settleBroadcast (t : Nat) (s : State) : State :=
  match s.traverse t with
  | none => s
  | some v =>
    if v.ctx.kind ≠ .broadcast then s
    else
      forEach v.gens (fun x s =>
        if x.phase ≠ .open_ ∨ s.chainsInside t x.gen then s
        else if (v.ctxAt x.gen).isRoot then
          if s.sourceDone v x then completeHere t x.gen x.survey s else s
        else if x.endSent then s.setGen t x.gen fun y => { y with phase := .sent, waitAt := s.clock }
        else s) s

/-- The root completes a generation (Table 3.6); accumulators no reader is left for are freed, the others are kept for NORM_READ
or until the linked BROADCAST generation of the number ends (R69, R154). -/
def completeGen (t : Nat) (g : BitVec 32) (s : State) : State :=
  match s.genOf t g with
  | none => s
  | some x =>
    let kind := (s.traverse t).map (·.ctx.kind)
    let linked := s.linkedTo t g
    let s := completeHere t g x.survey s
    let keep := kind = some .reduce ∧ (s.traverse t).isSome ∧
      (if linked.isEmpty then (s.bound t).isEmpty else linked.any fun b => s.linkedLive b g)
    let (held, rest) := x.accs.partition fun a => keep ∧ a.done
    let s := forEach rest freeAcc s
    let s := s.setTraverse t fun v => { v with kept := v.kept ++ held.map fun a => (g, x.datum, a) }
    forEach linked settleBroadcast s

/-- Generations of a REDUCE or PERMUTE of this root whose every entry has ended are COMPLETE once the RESULT chains for their DEST
endpoints have left the part, so that DONE reaches no member before them (Table 3.6, R66). -/
def settleResults (t : Nat) (s : State) : State :=
  match s.traverse t with
  | none => s
  | some v =>
    if v.ctx.kind = .broadcast ∨ !v.ctx.isRoot then s
    else
      forEach v.gens (fun x s =>
        if x.phase ≠ .open_ ∨ !x.endSent ∨ s.chainsInside t x.gen then s else completeGen t x.gen s) s

/-- What the departure of chains settles: the verdicts that waited behind them, the roots' destinations, then every BROADCAST of the part. -/
def settleChains (s : State) : State :=
  let ts := s.traverses.map (·.1)
  forEach ts settleBroadcast (forEach ts settleResults (sendOwed s))

/-- An up-tree port went down: every generation that awaits a verdict through it ends ABORTED with TREE_BROKEN, delivered to
this part's own subtree (R65, R67). -/
def breakTrees (port : Nat) (s : State) : State :=
  forEach s.traverses (fun e s =>
    forEach e.2.gens (fun x s =>
      if (e.2.ctxAt x.gen).uptree = port ∧ !(e.2.ctxAt x.gen).isRoot ∧ !x.phase.isTerminal then
        abortedHere e.1 x.gen { gen := x.gen, traverse := e.1, cause := 0x0B, port := port, part := s.number } s
      else s) s) s

end Sys2Proof.Machine
end

