-- ==== Sys2Proof/Machine/Reduce.lean ====
section
/-! DEFINITION. Chains in a ledger die (R90-R92, R100-R104, R142, R167-R176, R195, R197): accumulating contributions, completing
chains in order, packing them up-tree, and delivering them at the root. -/
namespace Sys2Proof.Machine

/-! ### Frames of chains (Tables 4.1, 4.2, 4.6) -/

/-- A frame of a chain that the part itself sends. -/
def chainFrame (s : State) (src type vc t : Nat) (g : BitVec 32) (fmt chain first : Nat) (datum survey : Int) (last end_ : Bool)
    (payload : Bytes) (closure ckind : Nat) : Frame :=
  mkFrame (ownFields s src type vc t g ++ [(11, 1, if last then 1 else 0), (12, 1, if end_ then 1 else 0), (84, 4, fmt),
    (120, 40, chain), (160, 13, first), (173, 13, payload.length), (186, 9, unsignedOf 9 datum), (195, 16, unsignedOf 16 survey)])
    payload closure ckind

/-- A NODE frame (R74). -/
def nodeFrame (s : State) (src t : Nat) (g : BitVec 32) (chain first a k : Nat) (last end_ : Bool) (vals : List (BitVec 64)) : Frame :=
  let codes := vals.map (·.toNat)
  mkFrame (ownFields s src 4 1 t g ++ [(11, 1, if last then 1 else 0), (12, 1, if end_ then 1 else 0), (84, 4, 0), (120, 40, chain),
    (160, 13, first), (173, 13, 8 * vals.length), (186, 32, a), (218, 6, k)]) (elemBytes 64 codes) (closureCodes 64 first codes) 3

/-- A chain of encodings cut into frames of 4,096 payload bytes: (first element, encodings, whether it is the last) (R92). -/
def cutChain (bits : Nat) (codes : List Nat) : List (Nat × List Nat × Bool) :=
  let per := 32768 / bits
  let parts := (chunks per 64 codes).zipIdx
  parts.map fun p => (per * p.2, p.1, p.2 + 1 == parts.length)

/-- RESULT frames of a chain of FMT_OUT encodings (R92, Table 4.6). -/
def resultFrames (s : State) (src t : Nat) (g : BitVec 32) (c : Ctx) (chain : Nat) (datum survey : Int) (lastChain : Bool)
    (codes : List Nat) : List Frame :=
  let bits := fmtBits c.fmtOut
  (cutChain bits codes).map fun p =>
    chainFrame s src 5 2 t g c.fmtOut chain p.1 datum survey p.2.2 (p.2.2 && lastChain) (elemBytes bits p.2.1)
      (closureCodes bits p.1 p.2.1) 3

/-- Frames sent down to a list of ports, in order. -/
def sendFrames (src : Nat) (fs : List Frame) (targets : List Nat) (s : State) : State := forEach fs (fun f s => sendDown src f targets s) s

/-! ### Values of a chain -/

/-- Elements of a generation's chains: E, or E' where it is projected (R90, R170). -/
def State.elems (s : State) (t : Nat) (g : BitVec 32) (c : Ctx) : Nat :=
  match s.projection t g with
  | some (q, _) => q.coefs (fmtElems c.fmtIn)
  | none => fmtElems c.fmtIn

/-- The value of an element of a contribution (R26, R28). -/
def Ctx.value (c : Ctx) (code : Nat) : Num := expandElem c.fmtIn c.expand c.table c.scale c.zeroPoint code

/-- The elements of a CONTRIB payload. -/
def Ctx.codes (c : Ctx) (payload : Bytes) : List Nat := elemCodes (fmtBits c.fmtIn) payload

/-- The FP64 values of a chain under CANON64: node(0, K) of every segment (R44); none where one has not formed. -/
def canonValues (m elems : Nat) (ns : List Node) : Option (List Nat) :=
  ((List.range (max 1 (elems / 512))).mapM fun j =>
    (ns.find? fun n => n.a = 0 ∧ n.k = canonHeight m ∧ n.first = 512 * j).map fun n => n.vals.map (·.toNat)).map List.flatten

/-- The chain's values as encodings of a format, rounded once from what the accumulator holds (R38, R44, R47, R142). -/
def encodeAcc (c : Ctx) (d : Int) (elems : Nat) (a : Acc) (out : Fp) (sat : Bool) : List Nat :=
  match c.rmode with
  | .lx96 => (lxDense 0 elems a.lx).map fun x => x.encode out sat d
  | .canon64 => ((canonValues c.ranks elems a.nodes).getD []).map fun v => out.encode sat (Fp.fp64.decode v)
  | .arrive => a.fp.map fun v => out.encode sat ((arriveFp c.fmtIn).decode v.toNat)

/-! ### Where members stand (R90, R91) -/

/-- The member has sent chain `ch` or skipped it. -/
def Progress.past (p : Progress) (ch : Nat) : Bool :=
  p.ended || (match p.last with | some l => ch ≤ l | none => false) || (match p.part with | some q => ch < q.1 | none => false)

/-- Chain `ch` is complete at this part: every entry has sent it or skipped it (R90). -/
def Gen.chainDone (x : Gen) (c : Ctx) (ch : Nat) : Bool := c.contributors.all fun i => (x.progress.getD i {}).past ch

/-- Every entry has sent END. -/
def Gen.allEnded (x : Gen) (c : Ctx) : Bool := c.contributors.all fun i => (x.progress.getD i {}).ended

/-- The accumulator of a chain. -/
def Gen.acc? (x : Gen) (ch : Nat) : Option Acc := x.accs.find? fun a => a.chain = ch

/-- The accumulator of a chain replaced, or added in chain order. -/
def Gen.putAcc (a : Acc) (x : Gen) : Gen :=
  { x with accs := x.accs.filter (fun b => b.chain < a.chain) ++ a :: x.accs.filter (fun b => a.chain < b.chain) }

def Gen.dropAcc (ch : Nat) (x : Gen) : Gen := { x with accs := x.accs.filter fun b => b.chain ≠ ch }

/-! ### Accumulating -/

/-- One member's values of a chain, checked and ready to add. -/
inductive Input8 where
  /-- LX96 values from a position, with the I term they bring (R104, R173). -/
  | lx (first : Nat) (xs : List Lx) (i : Nat)
  /-- The coefficients of a contribution, with their predicted I term (R169, R173). -/
  | projected (xs : List Lx) (i : Nat)
  /-- Exact values to add in order from a position (R47). -/
  | fp (first : Nat) (xs : List Num)
  /-- CANON64 nodes (R45). -/
  | nodes (ns : List Node)
  /-- Payload bits to copy (R51, R197). -/
  | raw (bs : Bytes)

/-- The accumulator with an input added. -/
def Acc.take (c : Ctx) (now : Nat) (i : Input8) (a : Acc) : Acc :=
  let a := { a with addedAt := now }
  match i with
  | .lx first xs t => { a with lx := lxMerge first xs a.lx, iIn := (a.iIn + t) % closureP }
  | .projected xs t => { a with lx := lxMerge 0 xs a.lx, iIn := (a.iIn + t) % closureP }
  | .fp first xs => { a with fp := arriveAdd (arriveFp c.fmtIn) first xs a.fp }
  | .nodes ns => { a with nodes := ns.foldl (fun acc n => nodeAdd c.ranks n acc) a.nodes }
  | .raw bs => { a with raw := some bs }

/-- Adds an input to a chain's accumulator, which is placed at its first input. A spill under way is cancelled (R284). -/
def addInput (t : Nat) (g : BitVec 32) (c : Ctx) (ch : Nat) (i : Input8) (s : State) : State :=
  match s.genOf t g with
  | none => s
  | some x =>
    let a := (x.acc? ch).getD { chain := ch, die := s.placeChain t g c ch, addedAt := s.clock }
    let cancel := a.residency == .spilling
    let s := if cancel then (freeAcc a s).bump Counter.spillCancel a.die else s
    let a := if cancel then { a with residency := .sram, spilled := [] } else a
    let s := match i with
      | .projected _ _ => activate t g a.die s
      | _ => s
    s.setGen t g (Gen.putAcc (a.take c s.clock i))

/-- Entries that skipped a chain count as +0 in every element (R90): zeros are added under ARRIVE, and their ranks stand as
nodes of zeros under CANON64. -/
def addSkips (c : Ctx) (elems ch : Nat) (x : Gen) (a : Acc) : Acc :=
  let idle := c.contributors.filter fun i => !((x.progress.getD i {}).sent.contains ch)
  match c.rmode with
  | .lx96 => a
  | .arrive => if idle.isEmpty ∨ a.fp.isEmpty then a
      else { a with fp := arriveAdd (arriveFp c.fmtIn) 0 (List.replicate elems (Num.fin false 0 0)) a.fp }
  | .canon64 =>
    { a with nodes := idle.foldl (fun ns i =>
        let e := c.entries.getD i {}
        (List.range (max 1 (elems / 512))).foldl (fun ns j =>
          zeroNodes c.ranks (512 * j) (min 512 elems) 4096 e.rankFirst e.rankCount ns) ns) a.nodes }

/-! ### Completing a chain below the root -/

/-- A chain's accumulator is freed, with the lines it took in HBM, and leaves the generation (R68, R91, R284). -/
def dropChain (t : Nat) (g : BitVec 32) (a : Acc) (s : State) : State := (freeAcc a s).setGen t g (Gen.dropAcc a.chain)

/-- Sends a checked chain up-tree and frees its accumulator (R91, R100, R104). END goes on the last frame of the last chain. -/
def sendChainUp (t : Nat) (g : BitVec 32) (c : Ctx) (x : Gen) (a : Acc) (lastChain : Bool) (s : State) : State :=
  let src := Config.diePort a.die
  let sv := if c.dmode = .carried then x.survey else noSurvey
  let elems := s.elems t g c
  let frames : List Frame :=
    match a.raw with
    | some bs => [chainFrame s src 1 5 t g c.fmtIn a.chain 0 x.datum sv true lastChain bs
        (closureCodes (fmtBits c.fmtIn) 0 (c.codes bs)) 3]
    | none =>
      match c.rmode with
      | .lx96 =>
        let ps := packFrames (lxDense 0 elems a.lx)
        ps.zipIdx.map fun p =>
          let last := p.2 + 1 == ps.length
          chainFrame s src 2 1 t g c.fmtIn a.chain p.1.1 x.datum sv last (last && lastChain) p.1.2.2 (closureLx p.1.1 p.1.2.1) 2
      | .arrive =>
        let f := arriveFp c.fmtIn
        (cutChain f.width (a.fp.map (·.toNat))).map fun p =>
          chainFrame s src 3 1 t g (if c.fmtIn = 0 then 0 else 1) a.chain p.1 x.datum sv p.2.2 (p.2.2 && lastChain)
            (elemBytes f.width p.2.1) (closureCodes f.width p.1 p.2.1) 3
      | .canon64 =>
        let tags := ((a.nodes.map fun n => (n.a, n.k)).eraseDups).mergeSort fun p q => decide (p.1 ≤ q.1)
        let ns := tags.flatMap fun p => (a.nodes.filter fun n => n.a = p.1 ∧ n.k = p.2).mergeSort fun m n => decide (m.first ≤ n.first)
        ns.zipIdx.map fun p =>
          let last := p.2 + 1 == ns.length
          nodeFrame s src t g a.chain p.1.first p.1.a p.1.k last (last && lastChain) p.1.vals
  dropChain t g a (forEach frames (fun f s => sendUp a.die f c.uptree s) s)

/-! ### Completing a chain at the root -/

/-- CHAIN completion (R69, Table 14.6). -/
def reportChain (t : Nat) (g : BitVec 32) (c : Ctx) (ch : Nat) (s : State) : State :=
  if c.report = 2 then postEvent c.parcel 3 0 (packFields [(0, 12, t), (32, 32, g.toNat), (64, 40, ch)]) s else s

/-- Writes a chain's elements into the destination, and marks loaded the stripes all of whose chains are written (R137, R196). A destination
that carries a grant is not written: the generation aborts (R161, log 81). -/
def permuteWrite (t : Nat) (g : BitVec 32) (c : Ctx) (ch : Nat) (codes : List Nat) (s : State) : State :=
  match s.destRegion c with
  | none => s
  | some (slot, r) =>
    let (first, off, n) := permuteSpan c r ch
    if n = 0 then s
    else if !r.grantees.isEmpty then abortGen t g deniedCause 0xFF ch s
    else
      let s := writeElems slot r 0 first ((codes.drop off).take n) s
      let e := fmtElems c.fmtIn
      let done (k : Nat) : Bool := k == ch || k ≥ c.permuteChains ||
        (match s.genOf t g with | some x => (x.acc? k).isSome && ((x.acc? k).map (·.done)).getD false | none => false)
      let whole (st : Nat) : Bool :=
        let lo := r.elemFirst + 4096 * st
        let hi := lo + r.elemsOf st
        let k0 := (lo - c.seed.toNat) / e
        (List.range ((hi - c.seed.toNat + e - 1) / e - k0)).all fun i => done (k0 + i)
      let ok := (stripesOf first n).filter whole
      forEach ok (fun st s => settleLost slot (s.setRegion slot fun r =>
        { (r.setLoaded 0 st 1 true) with lost := r.lost.filter (· ≠ (0, st)) })) s

/-- What a projected chain of a REDUCE is rebuilt to, with its datum and whether R176 holds; none where it is not reconstructed (R174). -/
def State.rebuild (s : State) (t : Nat) (g : BitVec 32) (c : Ctx) (d : Int) (a : Acc) : Option (List Lx × Int × Bool) :=
  match s.projection t g with
  | some (q, true) => some (q.reconstruct (s.cellsFor a.die t g) d (lxDense 0 (s.elems t g c) a.lx))
  | _ => none

/-- The encodings of a checked chain at the root in a format (R38, R44, R47, R142, R174, R175). -/
def State.chainCodes (s : State) (t : Nat) (g : BitVec 32) (c : Ctx) (d : Int) (a : Acc) (f : Fp) (sat : Bool) : List Nat :=
  match s.rebuild t g c d a with
  | some r => r.1.map fun v => v.encode f sat r.2.1
  | none => encodeAcc c (if (s.projection t g).isSome then d + 16 else d) (s.elems t g c) a f sat

/-- Multicasts a chain of REDUCE `t` down one linked BROADCAST (Table 3.1). -/
def sendLinked (t b : Nat) (g : BitVec 32) (c : Ctx) (d sv : Int) (a : Acc) (lastChain : Bool) (s : State) : State :=
  match s.traverse b with
  | none => s
  | some w =>
    let k := w.ctxAt g
    let src := Config.diePort a.die
    reportChain b g k a.chain
      (sendFrames src (resultFrames s src b g k a.chain d sv lastChain (s.chainCodes t g c d a ((fpOf k.fmtOut).getD .bf16) k.sat))
        ((k.receiversOf a.chain).map (·.port)) s)

/-- Delivers a checked chain at the root (R51, R104, R142, R174, R197): into a pending slot, to the DEST endpoint, down the
linked BROADCAST generations that are open, or held. A chain that a linked generation has yet to open for is held too (R61, log 83). -/
def deliverChain (t : Nat) (g : BitVec 32) (c : Ctx) (x : Gen) (a : Acc) (lastChain : Bool) (s : State) : State :=
  let src := Config.diePort a.die
  let sv := if c.dmode = .carried then x.survey else noSurvey
  match c.kind with
  | .broadcast =>
    let s := sendFrames src (resultFrames s src t g c a.chain x.datum sv lastChain (c.codes (a.raw.getD [])))
      ((c.receiversOf a.chain).map (·.port)) s
    reportChain t g c a.chain (dropChain t g a s)
  | .permute =>
    let s := permuteWrite t g c a.chain (c.codes (a.raw.getD [])) s
    if (s.genOf t g).any Gen.isOpen then reportChain t g c a.chain (s.setGen t g (Gen.putAcc { a with raw := none, done := true })) else s
  | .reduce =>
    let rebuilt := s.rebuild t g c x.datum a
    let s := if rebuilt.isSome then activate t g a.die s else s
    if (rebuilt.map (·.2.2)).getD true = false then
      abortGen t g 2 0xFF a.chain (s.setDie a.die fun l =>
        { l with projClosure := min 0xFFFFFFFF (l.projClosure + 1), selfTestOwed := true })
    else
      let codes := s.chainCodes t g c x.datum a
      let pos := a.chain * fmtElems c.fmtIn
      let isBound := !(s.bound t).isEmpty
      let s := if !isBound then s
        else match writePending t g pos ((s.boundAt t pos).elim a.die fun b => s.physical (b.2.1.logical (b.2.2 / 4096) 0))
            (codes .fp32 false) s with
          | some s => s
          | none => s.bump Counter.unboundChains a.die
      let dests := (c.entries.filter fun e => e.role = .dest).map (·.port)
      let s := sendFrames src (if dests.isEmpty then [] else
        resultFrames s src t g c a.chain x.datum sv lastChain (codes ((fpOf c.fmtOut).getD .bf16) c.sat)) dests s
      let live := (s.linkedTo t g).filter fun b => s.linkedLive b g
      let (open_, late) := live.partition fun b => (s.genOf b g).isSome
      let s := forEach open_ (fun b s => sendLinked t b g c x.datum sv a lastChain s) s
      reportChain t g c a.chain
        (if (isBound ∨ !dests.isEmpty) ∧ late.isEmpty then dropChain t g a s
         else s.setGen t g (Gen.putAcc { a with done := true, addedAt := s.clock }))

/-- A chain that every entry has sent or skipped: the end-to-end check of R104 (under projection that of R173), then on its
way. Under CANON64 the root aborts where node(0, K) cannot form (R57). -/
def finishChain (t : Nat) (g : BitVec 32) (ch : Nat) (s : State) : State :=
  match s.traverse t, s.genOf t g with
  | some v, some x =>
    match x.acc? ch with
    | none => s
    | some a =>
      let c := v.ctxAt g
      let elems := s.elems t g c
      let a := addSkips c elems ch x a
      let lastChain := x.allEnded c && x.accs.all fun b => b.done || b.chain ≤ ch
      if c.kind = .reduce ∧ c.rmode = .lx96 ∧ iSparse a.lx ≠ a.iIn then
        let s := if (s.projection t g).isSome then s.setDie a.die fun l =>
            { l with projClosure := min 0xFFFFFFFF (l.projClosure + 1), selfTestOwed := true }
          else s
        abortGen t g 2 0xFF ch s
      else if c.isRoot then
        if c.kind = .reduce ∧ c.rmode = .canon64 ∧ (canonValues c.ranks elems a.nodes).isNone then abortGen t g 1 0xFF ch s
        else deliverChain t g c x a lastChain s
      else sendChainUp t g c x a lastChain s
  | _, _ => s

/-- Chains of a PERMUTE that nobody sent are written as +0 once every entry has ended (R90). -/
def permuteZeros (t : Nat) (g : BitVec 32) (c : Ctx) (s : State) : State :=
  match s.genOf t g with
  | none => s
  | some x =>
    let gone := (List.range c.permuteChains).filter fun k => (x.acc? k).isNone
    forEach gone (fun k s =>
      permuteWrite t g c k (List.replicate (fmtElems c.fmtIn) 0)
        (s.setGen t g (Gen.putAcc { chain := k, die := 0, done := true }))) s

/-- A complete chain waits: its accumulator is in HBM or being filled (R285), its die owes an array self-test before it projects or
reconstructs (R186), or its data must pass to another pair's stack and the crossbar does not forward (R15, log 96). -/
def State.chainWaits (s : State) (t : Nat) (g : BitVec 32) (a : Acc) : Bool :=
  a.residency == .hbm || a.residency == .filling || ((s.projection t g).isSome && (s.die a.die).selfTestOwed) ||
  (s.xbar.stopped && ((s.traverse t).any fun v => (v.ctxAt g).isRoot && ((v.ctxAt g).kind == .permute || !(s.bound t).isEmpty)))

/-- A read of a chain in HBM starts its fill (R285). -/
def Acc.startFill (a : Acc) : Acc := if a.residency = .hbm then { a with residency := .filling } else a

/-- The chains that are complete go on their way, lowest first, up to the first that waits; then the generation is SENT, or COMPLETE at the
root, once every entry has ended and nothing is left (R91, Table 3.6). -/
def settleGen (t : Nat) (g : BitVec 32) (s : State) : State :=
  match s.traverse t, s.genOf t g with
  | some v, some x =>
    let c := v.ctxAt g
    let ready := x.accs.filter fun a => !a.done && x.chainDone c a.chain
    let s := s.setGen t g fun x => { x with accs := x.accs.map fun a => if !a.done && x.chainDone c a.chain then a.startFill else a }
    let s := forEach ((ready.takeWhile fun a => !s.chainWaits t g a).map (·.chain)) (finishChain t g) s
    match s.genOf t g with
    | none => s
    | some x =>
      if x.phase ≠ .open_ ∨ !x.allEnded c ∨ x.accs.any (fun a => !a.done) ∨ c.contributors.isEmpty then s
      else if c.kind = .broadcast then settleBroadcast t (s.setGen t g fun x => { x with endSent := true })
      else if c.isRoot then
        settleResults t ((if c.kind = .permute then permuteZeros t g c s else s).setGen t g fun x => { x with endSent := true })
      else s.setGen t g fun x => { x with phase := .sent, endSent := true, waitAt := s.clock }
  | _, _ => s

end Sys2Proof.Machine
end

