-- ==== Sys2Proof/Machine/Opening.lean ====
section
/-! DEFINITION. Opening generations (R60-R62, R141, R158, R196) and reading the regions that feed them: layer generations and
all-gathers (R155-R157, R381) and PERMUTE sources (R195, R196). -/
namespace Sys2Proof.Machine

/-! ### Reading regions for the fabric -/

/-- An APPLY that was accepted before generation `g` of traverse `t` opened runs on the region: the generation's reads of it wait (R150,
R196). -/
def State.applying (s : State) (slot t : Nat) (g : BitVec 32) : Bool :=
  s.mailbox.running.any fun r => match r.ending with
    | .apply h _ _ _ _ _ _ before => h % 65536 == slot && !before.contains (t, g)
    | _ => false

/-- A generation still owes its readers a region: it is open at its root, has the region among its sources, and has not read them (R150,
R196). -/
def State.readsOwed (s : State) (slot : Nat) (v : Traverse) (x : Gen) : Bool :=
  let c := v.ctxAt x.gen
  !x.emitted && x.phase == .open_ && c.kind != .reduce && !(c.kind == .broadcast && (!c.isRoot || c.linkValid)) &&
  c.entries.any fun e => e.role == .region && (match s.regionAt e.region with
    | some (n, r) => n == slot && (match x.layer with
      | some j => r.layer == j.layer
      | none => true)
    | none => false)

/-- The generations that read a region before an APPLY accepted now changes it (R150, R196). -/
def State.readsBefore (s : State) (slot : Nat) : List (Nat × BitVec 32) :=
  s.traverses.flatMap fun e => (e.2.gens.filter (s.readsOwed slot e.2)).map fun x => (e.1, x.gen)

/-- Weights `first` to `first + n - 1` as BF16 encodings, table entries expanded (R29, R156), and whether any cannot be given:
lost, poisoned or not loaded (R140, R381). -/
def State.readWeights (s : State) (r : Region) (first n : Nat) : List Nat × Bool :=
  let (codes, bad) := s.readElems r 0 first n
  let unloaded := (stripesOf first n).any fun st => !r.loaded.contains (0, st)
  (if r.int4 then codes.map fun c => (r.table.getD (c % 16) 0).toNat else codes, bad || unloaded)

/-- Chains of a region: ceil(COUNT / E) (R155). -/
def Region.chains (r : Region) (e : Nat) : Nat := (r.count + e - 1) / max 1 e

/-- Closure of a SERVE payload: by encodings, or by bytes in an MX format (R101). -/
def serveClosure (fmt : Nat) (payload : Bytes) : Nat :=
  if fmt = 6 ∨ fmt = 7 ∨ fmt = 8 then closureCodes 8 0 (elemCodes 8 payload)
  else closureCodes (fmtBits fmt) 0 (elemCodes (fmtBits fmt) payload)

/-- One chain of a region read for sending: the payload in FMT_OUT, whether it cannot be given, and the die it leaves from, the mirror
copy's where a load asks for it (R392). -/
def State.readChain (s : State) (r : Region) (c : Ctx) (mirror : Bool) (k : Nat) : Bytes × Bool × Nat :=
  let e := fmtElems c.fmtOut
  let n := min e (r.count - k * e)
  let (codes, bad) := s.readWeights r (k * e) n
  (serveChain c.fmtOut c.sat (codes ++ List.replicate (e - n) 0), bad, s.physical (r.logical (k * e / 4096) (if mirror && r.mirror then 1 else 0)))

/-- Regions of a root's source entries, in member-table order; those of one layer where a layer is named (R155). -/
def State.sources (s : State) (c : Ctx) (layer : Option Nat) : List (Nat × Region) :=
  (c.entries.filterMap fun e => if e.role = .region then s.regionAt e.region else none).filter fun e =>
    match layer with
    | some l => e.2.layer == l
    | none => true

/-- Sends one serve chain of a layer (R155, Table 18.3). -/
def sendServe (t : Nat) (g : BitVec 32) (c : Ctx) (d : Int) (chain : Nat) (last : Bool) (targets : List Nat) (r : Region)
    (mirror : Bool) (k : Nat) (s : State) : State :=
  let (payload, bad, die) := s.readChain r c mirror k
  let src := Config.diePort die
  let f := if bad then
      mkFrame (ownFields s src 6 3 t g ++ [(11, 1, 1), (12, 1, if last then 1 else 0), (14, 1, 1), (84, 4, c.fmtOut), (120, 40, chain),
        (186, 9, unsignedOf 9 d), (195, 16, 0x8000)]) [] 0 3
    else chainFrame s src 6 3 t g c.fmtOut chain 0 d noSurvey true last payload (serveClosure c.fmtOut payload) 3
  sendDown src f targets s

/-- Reads and sends what a root BROADCAST generation takes from its regions: the layer, or every chain (R155, Table 3.1). While
an APPLY accepted before the opening runs on one of the regions nothing is read; one accepted later waits for the reads (R150). The reads wait
for the exit of groups that sleep (R347). -/
def emitBroadcast (t : Nat) (g : BitVec 32) (c : Ctx) (x : Gen) (s : State) : State :=
  let rs := s.sources c (x.layer.map (·.layer))
  let pairs := rs.flatMap fun e => s.regionPairs e.2
  if rs.any fun e => s.applying e.1 t g then s
  else if !s.pairsRun pairs then workPairs pairs s
  else
    let s := workPairs pairs s
    let s := forEach rs (fun r s => decodeElems r.1 0 0 r.2.count s) s
    let rs := s.sources c (x.layer.map (·.layer))
    let e := fmtElems c.fmtOut
    let items := rs.flatMap fun r => (List.range (r.2.chains e)).map fun k => (r.2, k)
    let n := items.length
    let s := s.setGen t g fun x => { x with emitted := true }
    let s := match x.layer with
      | some job =>
        let targets := match job.only with
          | some i => [(c.entries.getD i {}).port]
          | none => c.receivers.map (·.port)
        forEach items.zipIdx (fun p s =>
          let ch := job.layer * 2 ^ 24 + p.2
          reportChain t g c ch (sendServe t g c x.datum ch (p.2 + 1 == n) targets p.1.1 job.only.isSome p.1.2 s)) s
      | none =>
        match items.zipIdx.find? fun p => (s.readChain p.1.1 c false p.1.2).2.1 with
        | some p => abortGen t g 3 0xFF p.2 s
        | none =>
          forEach items.zipIdx (fun p s =>
            let (payload, _, die) := s.readChain p.1.1 c false p.1.2
            let src := Config.diePort die
            let fs := resultFrames s src t g c p.2 x.datum noSurvey (p.2 + 1 == n) (elemCodes (fmtBits c.fmtOut) payload)
            reportChain t g c p.2 (sendFrames src fs ((c.receiversOf p.2).map (·.port)) s)) s
    settleBroadcast t s

/-- The lines that a REGION entry of a PERMUTE reads are decoded first (R268). -/
def permuteDecode (c : Ctx) (e : Member) (s : State) : State :=
  match s.regionAt e.region with
  | none => s
  | some (slot, r) =>
    let n := max 1 c.shardChains * fmtElems c.fmtIn
    let first := c.seed.toNat + e.rankFirst * n - r.elemFirst
    decodeElems slot 0 first (min (e.rankCount * n) (r.count - first)) s

/-- The contributions of one REGION entry of a PERMUTE: chains rS on, each element (tensor index - ELEM_FIRST) of W, +0 beyond
COUNT in the entry's last chain (R195). False where one cannot be read (Table 18.3). -/
def permuteSource (t : Nat) (g : BitVec 32) (c : Ctx) (i : Nat) (e : Member) (s : State) : State :=
  let s := permuteDecode c e s
  match s.regionAt e.region with
  | none => s
  | some (_, r) =>
    let sh := max 1 c.shardChains
    let n := fmtElems c.fmtIn
    let chains := (List.range (e.rankCount * sh)).map (e.rankFirst * sh + ·)
    let read (ch : Nat) : List Nat × Bool :=
      let first := c.seed.toNat + ch * n - r.elemFirst
      let k := min n (r.count - first)
      let (codes, bad) := s.readWeights r first k
      (codes ++ List.replicate (n - k) 0, bad)
    match chains.find? fun ch => (read ch).2 with
    | some ch => abortGen t g 3 0xFF ch s
    | none =>
      let s := forEach chains (fun ch s => addInput t g c ch (.raw (elemBytes 16 (read ch).1)) s) s
      s.setGen t g fun x => { x with progress := lmap i (fun p =>
        { p with last := chains.getLast?, sent := chains, ended := true, lastAt := s.clock }) x.progress }

/-- Reads and contributes a PERMUTE's own region sources, once no APPLY runs on them (R196) and while the crossbar takes their data to the dies of
the chains (R15, log 96). -/
def emitPermute (t : Nat) (g : BitVec 32) (c : Ctx) (s : State) : State :=
  let mine := c.entries.zipIdx.filter fun e => e.1.role = .region ∧ e.1.region ≠ 0
  let pairs := mine.flatMap fun e => ((s.regionAt e.1.region).map fun r => s.regionPairs r.2).getD []
  if mine.isEmpty ∨ s.xbar.stopped ∨ mine.any fun e => (s.regionAt e.1.region).any fun r => s.applying r.1 t g then s
  else if !s.pairsRun pairs then workPairs pairs s
  else
    let s := workPairs pairs s
    settleGen t g (forEach mine (fun e s => permuteSource t g c e.2 e.1 s) (s.setGen t g fun x => { x with emitted := true }))

/-- A generation's own sources are read, if that is still owed and nothing holds it up. -/
def emitSources (t : Nat) (g : BitVec 32) (s : State) : State :=
  match s.traverse t, s.genOf t g with
  | some v, some x =>
    let c := v.ctxAt g
    if x.emitted ∨ x.phase ≠ .open_ then s
    else if c.kind = .permute then emitPermute t g c s
    else if c.kind = .broadcast ∧ c.isRoot ∧ !c.linkValid ∧ !c.isPass then emitBroadcast t g c x s
    else s
  | _, _ => s

/-- Every generation that waits for an APPLY to end, or for a group's exit, tries again (R150, R196, R347). -/
def emitAll (s : State) : State :=
  forEach s.traverses (fun e s => forEach e.2.gens (fun x s => emitSources e.1 x.gen s) s) s

/-! ### Opening -/

/-- How a generation opens, which gives the direction of its OPEN frame (R61): on a member's frame, toward the root; or by GEN_OPEN, on any
frame from the parent or with its REDUCE, toward children and members (DEDUCED, log 60). -/
inductive How where
  | implicit | explicit
deriving DecidableEq, Repr

/-- The OPEN frame that a part sends, or passes on, for a generation with its D (R61). -/
def sendOpen (t : Nat) (how : How) (g : BitVec 32) (c : Ctx) (datum : Int) (s : State) : State :=
  let od : Int := if c.dmode = .survey then 0 else datum
  match how with
  | .implicit => if c.isRoot then s else sendControl 0 1 t g od 0 [] [c.uptree] s
  | .explicit => sendControl 0 1 t g od 0 [] c.downPorts s

/-- The generation may not run here: it writes a region that carries a grant (R161). -/
def State.grantBars (s : State) (c : Ctx) : Bool :=
  c.kind == .permute && c.isRoot && (s.destRegion c).any fun r => !r.2.grantees.isEmpty

/-- Ledger pairs for the accumulators, or dies for the projection, are missing: the generation cannot run (R183, R388). -/
def State.ledgerShort (s : State) (t : Nat) (g : BitVec 32) (c : Ctx) : Bool :=
  c.kind != .broadcast && ((!c.contributors.isEmpty && !s.ledgerOk) || ((s.projection t g).isSome && s.projDies.isEmpty))

/-- NEXT_GEN opens (R61, R65, R70-R72): its D, its OPEN frame, the non-determinism counter (R89), its pending slots (R141). -/
def openBare (t : Nat) (how : How) (d : Option Int) (job : Option LayerJob) (s : State) : State :=
  match s.traverse t with
  | none => s
  | some v =>
    let g := v.nextGen
    let c := v.ctxAt g
    let datum : Int := match c.dmode with
      | .fixed => d.getD c.datum
      | .carried => v.carriedDatum g
      | .survey => d.getD (if c.surveys then 0 else c.datum)
    let phase : GenPhase := if c.surveys ∧ d.isNone then .surveying else .open_
    let x : Gen := { gen := g, phase := phase, datum := datum, openedAt := s.clock, layer := job
                     progress := List.replicate c.entries.length {} }
    let s := s.setTraverse t fun v => { v with nextGen := g + 1, gens := v.gens ++ [x], state := if v.state = .ready then .active else v.state }
    let s := if c.rmode = .arrive then bumpNondet c.parcel s else s
    let s := sendOpen t how g c datum s
    if s.ledgerShort t g c then abortGen t g 8 0xFF noChain s
    else if s.grantBars c then abortGen t g deniedCause 0xFF noChain s
    else if c.isRoot ∧ c.kind = .reduce ∧ !(s.bound t).isEmpty then
      if s.slotsFree t then takeSlots t g c.seed s else abortGen t g 9 0xFF noChain s
    else if c.isRoot ∧ c.kind = .permute then permuteUnload c s
    else s

/-- The part opens NEXT_GEN up to `g`, in order; `fuel` of them at most. D applies to `g` alone. -/
def openBareTo : Nat → Nat → BitVec 32 → How → Option Int → State → State
  | 0, _, _, _, _, s => s
  | fuel + 1, t, g, how, d, s =>
    match s.traverse t with
    | none => s
    | some v =>
      if v.state = .closing ∨ before32 g v.nextGen ∨ !v.inWindow v.nextGen then s
      else openBareTo fuel t g how d (openBare t how (if v.nextGen = g then d else none) none s)

/-- Opens one generation with the linked BROADCAST generations of its number (R61), then reads its own sources. A linked BROADCAST whose
own window of 8 is full (R60) does not open it now but as soon as its window allows (openLate): R60 and R61 conflict there, and the spec
does not say which yields (DESIGN CHOICE, log 83). -/
def openOne (t : Nat) (how : How) (d : Option Int) (job : Option LayerJob) (s : State) : State :=
  match s.traverse t with
  | none => s
  | some v =>
    let g := v.nextGen
    let linked := if (v.ctxAt g).isRoot ∧ v.ctx.kind = .reduce then s.linkedTo t g else []
    let s := forEach linked (fun b s => openBareTo 8 b g .explicit none s) s
    emitSources t g (openBare t how d job s)

/-- Opens NEXT_GEN up to `g` with everything that goes with each (R61). -/
def openTo : Nat → Nat → BitVec 32 → How → Option Int → State → State
  | 0, _, _, _, _, s => s
  | fuel + 1, t, g, how, d, s =>
    match s.traverse t with
    | none => s
    | some v =>
      if v.state = .closing ∨ before32 g v.nextGen ∨ !v.inWindow v.nextGen then s
      else openTo fuel t g how d (openOne t how (if v.nextGen = g then d else none) none s)

/-- What REDUCE generation `g` holds for linked BROADCAST generations: its D, its survey, and its done accumulators in chain order. -/
def Traverse.heldFor (v : Traverse) (g : BitVec 32) : Option (Int × Int × List Acc) :=
  match v.gen? g with
  | some x => some (x.datum, if (v.ctxAt g).dmode = .carried then x.survey else noSurvey, x.accs.filter (·.done))
  | none => match v.kept.filter fun k => k.1 = g with
    | [] => none
    | k :: ks => some (k.2.1, (if (v.ctxAt g).dmode = .carried then ((v.surveys.find? fun e => e.1 = g).map (·.2)).getD noSurvey else noSurvey),
        (k :: ks).map (·.2.2))

/-- A linked BROADCAST opens the generation its REDUCE opened while the BROADCAST's window was full: the chains held for it are sent, and it
takes the verdict its REDUCE has reached (R61, R66; log 83). -/
def openLate (b : Nat) (s : State) : State :=
  match s.traverse b with
  | none => s
  | some w =>
    let g := w.nextGen
    let k := w.ctxAt g
    if !(k.kind = .broadcast ∧ k.linkValid ∧ k.isRoot) ∨ w.state = .closing ∨ !w.inWindow g then s
    else
      match s.traverse k.link with
      | none => s
      | some v =>
        if !before32 g v.nextGen then s
        else
          let s := openBare b .explicit none none s
          let ended := (v.gen? g).all (·.endSent)
          let s := match v.heldFor g with
            | some (d, sv, as) => forEach as.zipIdx (fun a s =>
                sendLinked k.link b g (v.ctxAt g) d sv a.1 (ended && a.2 + 1 == as.length) s) s
            | none => s
          match v.verdicts.find? fun o => o.gen = g with
          | some o => if o.phase = .aborted then abortedHere b g o.record s else settleBroadcast b s
          | none => s

/-- What the departure of chains settles, and the linked generations that open then. -/
def settleBroadcasts (s : State) : State := forEach (s.traverses.map (·.1)) openLate (settleChains s)

/-- A frame of a generation meets the traverse's state (R59, R61, R62, R80): true where the generation is open here and the frame
goes on to the next check; otherwise the frame is discarded and counted. -/
def admitGen (t : Nat) (g : BitVec 32) (parent : Bool) (how : How) (d : Option Int) (port : Nat) (s : State) : State × Bool :=
  match s.traverse t with
  | none => (s.bump Counter.discardClosed t, false)
  | some v =>
    match v.gen? g with
    | some x =>
      if x.isOpen then (s, true)
      else (s.bump (if x.phase = .complete then Counter.discardWindow else Counter.discardAborted) t, false)
    | none =>
      if v.verdicts.any fun w => w.gen = g ∧ w.phase = .aborted then (s.bump Counter.discardAborted t, false)
      else if v.state = .closing then (s.bump Counter.discardClosed t, false)
      else if v.inWindow g then
        if !parent ∧ !(v.ctxAt g).autoOpen then (s.bump Counter.discardWindow t, false)
        else
          let s := openTo 8 t g how d s
          match s.genOf t g with
          | some x => if x.isOpen then (s, true) else (s.bump Counter.discardAborted t, false)
          | none => (s.bump Counter.discardAborted t, false)
      else
        let s := s.bump Counter.discardWindow t
        if parent ∨ before32 g v.oldestGen then (s, false) else (abortGen t v.oldestGen 7 port noChain s, false)

end Sys2Proof.Machine
end

