-- ==== Sys2Proof/Machine/Receive.lean ====
section
/-! DEFINITION. A chain frame at the ledger die that accumulates its chain: the ordered checks of R112 (R73, R91, R92, R100-R104,
R400) and what the frame adds. -/
namespace Sys2Proof.Machine

/-- The entry from which a chain frame may come (R400); none where the frame is misdirected. -/
def Ctx.entryFor (c : Ctx) (port type : Nat) : Option Nat :=
  (c.entries.zipIdx.find? fun e =>
    e.1.port == port &&
    (if type = 1 then
       match c.kind with
       | .reduce => e.1.role == .endpoint && e.1.rankCount > 0
       | .permute => (e.1.role == .endpoint && e.1.rankCount > 0) || e.1.role == .child
       | .broadcast => c.owes e.1
     else c.kind == .reduce && e.1.role == .child)).map (·.2)

/-- The frame type a member sends (Table 4.1): contributions from endpoints, and from children what RMODE says. -/
def Ctx.typeFrom (c : Ctx) (role : Role) : Nat :=
  if role = .child ∧ c.kind = .reduce then (match c.rmode with | .lx96 => 2 | .arrive => 3 | .canon64 => 4) else 1

/-- FMT a frame of a type carries (Table 4.2). -/
def Ctx.fmtFor (c : Ctx) (type : Nat) : Nat := if type = 3 then (if c.fmtIn = 0 then 0 else 1) else if type = 4 then 0 else c.fmtIn

/-- CKIND a frame of a type carries (Table 4.6). -/
def Ctx.ckindFor (c : Ctx) (type : Nat) : Nat :=
  if type = 1 ∧ c.kind = .reduce ∧ c.rmode = .lx96 then 1 else if type = 2 then 2 else 3

/-- What a well-formed frame brings: the input, the position after it, the closure it should carry, and the NODE ranks. -/
structure Parsed where
  input : Input8
  next : Nat
  closure : Nat
  elems : Nat

/-- The payload of a chain frame of a generation, read by its type (R28, R35, R43, R92, R100); none where it is malformed. -/
def parseChain (s : State) (t : Nat) (g : BitVec 32) (c : Ctx) (d : Int) (e : Member) (f : Frame) : Option Parsed :=
  let total := s.elems t g c
  let first := f.firstElem
  if f.type = 1 then
    let all := fmtElems c.fmtIn
    let codes := c.codes f.payload
    if first ≠ 0 ∨ f.payload.length ≠ 4096 ∨ codes.length ≠ all ∨ !f.last then none
    else if c.kind ≠ .reduce then
      some { input := .raw f.payload, next := all, closure := closureCodes (fmtBits c.fmtIn) 0 codes, elems := all }
    else
      match c.rmode with
      | .lx96 =>
        match s.projection t g with
        | some (q, _) =>
          let xs := codes.map fun v => projFix d (c.value v)
          let die := (((s.genOf t g).bind fun x => x.acc? f.chain).map (·.die)).getD (s.placeChain t g c f.chain)
          some { input := .projected (q.project (s.cellsFor die t g) xs) (q.iPred xs), next := all, elems := all
                 closure := closureLx 0 (xs.map fun x => { Lx.ofInt x.1 with cls := x.2 }) }
        | none =>
          let xs := codes.map fun v => Lx.ofNum d c.floor (c.value v)
          some { input := .lx 0 xs (iTerm 0 xs), next := all, closure := closureLx 0 xs, elems := all }
      | .arrive =>
        some { input := .fp 0 (codes.map c.value), next := all, closure := closureCodes (fmtBits c.fmtIn) 0 codes, elems := all }
      | .canon64 =>
        some { input := .nodes ((chunks 512 32 (codes.map fun v => canonOf (c.value v))).zipIdx.map fun p =>
                 { a := e.rankFirst, k := 0, first := 512 * p.2, vals := p.1 })
               next := all, closure := closureCodes (fmtBits c.fmtIn) 0 codes, elems := all }
  else if f.type = 2 then
    match unpackBlocks 1024 f.payload with
    | none => none
    | some xs =>
      let next := first + xs.length
      if xs.isEmpty ∨ f.payload.length > 4096 ∨ first % 32 ≠ 0 ∨ next > total ∨ f.last ≠ (next == total) then none
      else some { input := .lx first xs (iTerm first xs), next := next, closure := closureLx first xs, elems := total }
  else if f.type = 3 then
    let a := arriveFp c.fmtIn
    let codes := elemCodes a.width f.payload
    let next := first + codes.length
    if f.payload.length ≠ 4096 ∨ next > total ∨ f.last ≠ (next == total) then none
    else some { input := .fp first (codes.map a.decode), next := next, closure := closureCodes a.width first codes, elems := total }
  else
    let codes := elemCodes 64 f.payload
    let next := first + codes.length
    let (a, k) := (f.nodeA, f.nodeK)
    if f.payload.length ≠ 4096 ∨ next > total ∨ k > canonHeight c.ranks ∨ a % 2 ^ k ≠ 0 ∨ a < e.rankFirst ∨ c.ranks ≤ a ∨
        min (a + 2 ^ k) c.ranks > e.rankFirst + e.rankCount ∨ (f.last ∧ next ≠ total) then none
    else some { input := .nodes [{ a := a, k := k, first := first, vals := codes.map (BitVec.ofNat 64 ·) }], next := next,
                closure := closureCodes 64 first codes, elems := total }

/-- The member's frame stands where its sequence allows (R91): the next position of the chain it is part-way through, or the
start of a chain above the last it sent, before its END. -/
def Progress.allows (p : Progress) (f : Frame) : Bool :=
  !p.ended &&
  (match p.part with
   | some (ch, next) => f.chain == ch && f.firstElem == next && (p.tag.isNone || p.tag == some (f.nodeA, f.nodeK))
   | none => f.firstElem == 0 && (match p.last with | some l => l < f.chain | none => true))

/-- Where the member stands after a good frame. A chain of NODE frames is whole once its nodes cover the entry's ranks. -/
def Progress.after (c : Ctx) (e : Member) (now : Nat) (f : Frame) (q : Parsed) (p : Progress) : Progress :=
  let covered := p.cover + (if f.type = 4 ∧ q.next = q.elems then min (f.nodeA + 2 ^ f.nodeK) c.ranks - f.nodeA else 0)
  let whole := f.last && (f.type != 4 || f.isEnd || min (e.rankFirst + e.rankCount) c.ranks - e.rankFirst ≤ covered)
  if whole then
    { p with last := some f.chain, sent := p.sent ++ [f.chain], part := none, cover := 0, tag := none, ended := f.isEnd, lastAt := now }
  else if f.type = 4 then
    let mid := q.next < q.elems
    { p with part := some (f.chain, if mid then q.next else 0), cover := covered
             tag := if mid then some (f.nodeA, f.nodeK) else none, lastAt := now }
  else { p with part := some (f.chain, q.next), lastAt := now }

/-- The checks of R112 from step 2 on, and the accumulation. A chain frame with GAP = 1 fails its structure check: step 7 does not list GAP,
and no sender of chains up-tree sets it (DESIGN CHOICE, log 82). -/
def receiveChain (rx : Rx) (s : State) : State :=
  let f := rx.frame
  let t := f.traverse
  let g := f.gen
  match s.traverse t with
  | none => s.bump Counter.discardClosed t
  | some v =>
    match (v.ctxAt g).entryFor rx.port f.type with
    | none => s.bump Counter.misdirected t
    | some i =>
      let (s, ok) := admitGen t g false .implicit none rx.port s
      if !ok then s
      else
        match s.traverse t, s.genOf t g with
        | some v, some x =>
          let c := v.ctxAt g
          let e := c.entries.getD i {}
          let p := x.progress.getD i {}
          let abort (cause : Nat) : State := abortGen t g cause rx.port f.chain s
          if f.taint ∨ !Frame.crcOk f then abort 4
          else if x.phase = .surveying ∨ f.fmt ≠ c.fmtFor f.type ∨ (f.type ≠ 4 ∧ f.datum ≠ x.datum) then abort 6
          else if f.poison then abort 3
          else if p.sent.contains f.chain then abort 5
          else if f.type ≠ c.typeFrom e.role ∨ f.ckind ≠ c.ckindFor f.type ∨ !reservedOk f ∨ f.gap ∨ (f.isEnd ∧ !f.last) ∨
              f.payloadLen ≠ f.payload.length ∨ !p.allows f then abort 4
          else
            match parseChain s t g c x.datum e f with
            | none => abort 4
            | some q =>
              if q.closure ≠ f.closure then abort 2
              else
                let s := addInput t g c f.chain q.input s
                let s := s.setGen t g fun x =>
                  { x with progress := x.progress.set i (p.after c e s.clock f q)
                           survey := if c.dmode = .carried ∧ f.type ≠ 4 then max x.survey f.survey else x.survey }
                settleGen t g s
        | _, _ => s

/-- Where a frame's chain stands when it may not be added yet: its accumulator is in HBM or being filled (R285), or the die owes
an array self-test before it projects (R186). -/
inductive Wait where
  | no | fill | yes
deriving DecidableEq, Repr

def waitFor (s : State) (die : Nat) (f : Frame) : Wait :=
  match (s.genOf f.traverse f.gen).bind fun x => x.acc? f.chain with
  | some a => match a.residency with
    | .hbm => .fill
    | .filling => .yes
    | _ => if (s.projection f.traverse f.gen).isSome ∧ (s.die die).selfTestOwed then .yes else .no
  | none => if (s.projection f.traverse f.gen).isSome ∧ (s.die die).selfTestOwed then .yes else .no

end Sys2Proof.Machine
end

