-- ==== Sys2Proof/Machine/Collectives.lean ====
section
/-! DEFINITION. The rows of the collectives: chain and CONTROL frames at a ledger die, results on their way down, serve requests
and layer generations, and their timers (03_traverses_and_generations.md, 04_chains_frames_closure.md, 06). Each frame row takes
the oldest frame its die has had delivered; a row whose frame or whose event is not there leaves the state as it is (log 4). -/
namespace Sys2Proof.Machine

/-! ### Taking a frame from a die's delivered frames -/

/-- The oldest delivered frame of a ledger die, where it satisfies `p`. -/
def headOf (die : Nat) (p : Frame → Bool) (s : State) : Option Rx :=
  match (s.die die).reseq.inbox.head? with
  | some rx => if p rx.frame then some rx else none
  | none => none

/-- The die's oldest delivered frame leaves its waiting frames. -/
def passHead (die : Nat) (s : State) : State :=
  s.setDie die fun d => { d with reseq := { d.reseq with inbox := d.reseq.inbox.drop 1 } }

/-- The die takes its oldest delivered frame; a marked frame owes an echo on its arrival port (R237). -/
def takeHead (die : Nat) (rx : Rx) (s : State) : State := oweEcho rx.frame rx.port (passHead die s)

/-- A CONTROL row: the frame is taken; tainted or failing its CRC it is discarded without a report (R110); with a reserved bit
set it is discarded and counted in TYPE_ERR of the die (R94); otherwise it has its effect. -/
def controlRow (die sub : Nat) (effect : Rx → State → State) (s : State) : State :=
  match headOf die (isControl sub) s with
  | none => s
  | some rx =>
    onDie die (fun s =>
      let s := takeHead die rx s
      if rx.frame.taint ∨ !Frame.crcOk rx.frame then s
      else if !reservedOk rx.frame ∨ !controlPayloadOk rx.frame then s.bump Counter.dieTypeErr die
      else effect rx s) s

/-- The entry of a context whose port a frame came by. -/
def Ctx.entryAt (c : Ctx) (port : Nat) : Option Nat := (c.entries.zipIdx.find? fun e => e.1.port == port).map (·.2)

/-- The frame came from the parent. -/
def Ctx.fromParent (c : Ctx) (port : Nat) : Bool := !c.isRoot && c.uptree == port

/-- A member's timer restarts with its frame (R76). -/
def touchMember (t : Nat) (g : BitVec 32) (port : Nat) (s : State) : State :=
  match s.traverse t with
  | none => s
  | some v =>
    match (v.ctxAt g).entryAt port with
    | none => s
    | some i => s.setGen t g fun x => { x with progress := lmap i (fun p => { p with lastAt := s.clock }) x.progress }

/-! ### Chain frames -/

/-- Frames of one member and generation still on their way to a ledger die, in staging, on an internal queue, in a resequencer or
delivered to another die: (chain, port). -/
def State.onTheWay (s : State) (die : Nat) : List Rx :=
  s.xbar.inputs.flatMap (fun e => (e.2.staging.filter fun st => st.record.isNone).map fun st => ({ frame := st.frame, port := st.port } : Rx)) ++
  s.xbar.queues.flatMap (fun e => if queuePort e.1 < 128 then [] else e.2.descs.filterMap fun d =>
    (s.xbar.record d.record).map fun r => ({ frame := r.frame, port := r.port } : Rx)) ++
  s.xbar.outputs.flatMap (fun e => if e.1 < 128 then [] else match e.2.sending with
    | some sd => ((s.xbar.record sd.desc.record).map fun r => ({ frame := r.frame, port := r.port } : Rx)).toList
    | none => []) ++
  s.dies.zipIdx.flatMap (fun d => d.1.reseq.arrivals ++ d.1.reseq.flows.flatMap (fun f => f.held.map (·.rx)) ++
    (if d.2 = die then [] else d.1.reseq.inbox))

/-- An earlier chain of the same member is still on its way through another die: the member has not skipped it (R90, R91, R218). -/
def State.earlierInside (s : State) (die : Nat) (rx : Rx) : Bool :=
  (s.onTheWay die).any fun o => o.port == rx.port && 1 ≤ o.frame.type && o.frame.type ≤ 4 && o.frame.traverse == rx.frame.traverse &&
    o.frame.gen == rx.frame.gen && o.frame.chain < rx.frame.chain

/-- The die that accumulates a frame's chain (R134, R183, R218). -/
def State.accDie (s : State) (f : Frame) : Option Nat :=
  (s.traverse f.traverse).map fun v =>
    match (v.gen? f.gen).bind fun x => x.acc? f.chain with
    | some a => a.die
    | none => s.placeChain f.traverse f.gen (v.ctxAt f.gen) f.chain

/-- What a ledger die does with a chain frame that its sequencer delivered: hands it to the accumulating die (R218), lets it wait
behind a fill (R285), or runs the checks of R112. -/
def chainRow (die : Nat) (rx : Rx) (s : State) : State :=
  let target := (s.accDie rx.frame).getD die
  if target ≠ die ∧ !rx.handed then
    stageFrame (Config.diePort die) rx.port true rx.frame [Config.diePort target] (passHead die s)
  else
    match waitFor s die rx.frame with
    | .yes => s
    | .fill => s.setGen rx.frame.traverse rx.frame.gen fun x =>
        { x with accs := x.accs.map fun a => if a.chain = rx.frame.chain then { a with residency := .filling } else a }
    | .no => receiveChain rx (takeHead die rx s)

/-- LEDGER_FRAME_RECEIVE (R112): a CONTRIB, PARTIAL, ACCUM or NODE frame. -/
def execLedgerFrameReceive (die : Nat) (s : State) : Host.Outcome State Fault Refusal :=
  guardUnit (die < Config.pairs)
    (match headOf die (fun f => 1 ≤ f.type && f.type ≤ 4) s with
     | none => s
     | some rx => if s.earlierInside die rx then s else onDie die (chainRow die rx) s)

/-! ### Surveys, opens, datums -/

/-- All surveying members have surveyed: the maximum goes up-tree, or the root settles D and sends it down (R71). -/
def settleSurvey (t : Nat) (g : BitVec 32) (s : State) : State :=
  match s.traverse t, s.genOf t g with
  | some v, some x =>
    let c := v.ctxAt g
    if x.phase ≠ .surveying ∨ !(c.contributors.all fun i => (x.progress.getD i {}).surveyed) then s
    else if c.isRoot then
      let d := surveyDatum x.survey 0 c.datum
      sendControl 0 3 t g d 0 [] c.downPorts (s.setGen t g fun x => { x with phase := .open_, datum := d })
    else sendControl 0 2 t g 0 x.survey [] [c.uptree] s
  | _, _ => s

/-- A SURVEY frame of an admitted generation (R71). -/
def surveyEffect (rx : Rx) (s : State) : State :=
  let f := rx.frame
  let t := f.traverse
  let g := f.gen
  match s.traverse t with
  | none => s.bump Counter.discardClosed t
  | some v =>
    let c := v.ctxAt g
    match c.entries.zipIdx.find? fun e => e.1.port == rx.port && c.kind == .reduce &&
        ((e.1.role == .endpoint && e.1.rankCount > 0) || e.1.role == .child) with
    | none => s.bump Counter.misdirected t
    | some (_, i) =>
      let (s, ok) := admitGen t g false .implicit none rx.port s
      if !ok then s
      else
        match s.genOf t g with
        | none => s
        | some x =>
          if !c.surveys then abortGen t g 6 rx.port noChain s
          else if x.phase ≠ .surveying ∨ (x.progress.getD i {}).surveyed then abortGen t g 5 rx.port noChain s
          else
            settleSurvey t g (s.setGen t g fun x =>
              { x with survey := max x.survey f.survey
                       progress := lmap i (fun p => { p with surveyed := true, lastAt := s.clock }) x.progress })

/-- SURVEY_FRAME (R71). -/
def execSurveyFrame (die : Nat) (s : State) : Host.Outcome State Fault Refusal :=
  guardUnit (die < Config.pairs) (controlRow die 2 surveyEffect s)

/-- An OPEN frame (R61): from the parent it opens downward, from a member or child upward; for a generation that is open here it is passed on
in its direction. One that names another D than the generation's, under FIXED or CARRIED, aborts it with PROTOCOL. -/
def openEffect (rx : Rx) (s : State) : State :=
  let f := rx.frame
  let t := f.traverse
  let g := f.gen
  match s.traverse t with
  | none => s.bump Counter.discardClosed t
  | some v =>
    let c := v.ctxAt g
    let parent := c.fromParent rx.port
    if !parent ∧ (c.entryAt rx.port).isNone then s.bump Counter.misdirected t
    else
      let how : How := if parent then .explicit else .implicit
      let wasOpen := (v.gen? g).isSome
      let (s, ok) := admitGen t g parent how (if c.dmode = .fixed then some f.datum else none) rx.port s
      if !ok then s
      else
        match s.genOf t g with
        | none => s
        | some x =>
          if c.dmode ≠ .survey ∧ f.datum ≠ x.datum then abortGen t g 6 rx.port noChain s
          else
            let s := if wasOpen then sendOpen t how g c x.datum s else s
            if parent then s else touchMember t g rx.port s

/-- OPEN_FRAME (R61). -/
def execOpenFrame (die : Nat) (s : State) : Host.Outcome State Fault Refusal :=
  guardUnit (die < Config.pairs) (controlRow die 1 openEffect s)

/-- A DATUM frame from the parent: a SURVEYING generation becomes OPEN with its D, one not open opens so; D goes on down (R61,
R71). -/
def datumEffect (rx : Rx) (s : State) : State :=
  let f := rx.frame
  let t := f.traverse
  let g := f.gen
  match s.traverse t with
  | none => s.bump Counter.discardClosed t
  | some v =>
    let c := v.ctxAt g
    if !c.fromParent rx.port then s.bump Counter.misdirected t
    else
      let fresh := (v.gen? g).isNone
      let (s, ok) := admitGen t g true .explicit (some f.datum) rx.port s
      if !ok then s
      else
        match s.genOf t g with
        | none => s
        | some x =>
          if x.phase = .surveying then
            sendControl 0 3 t g f.datum 0 [] c.downPorts (s.setGen t g fun x => { x with phase := .open_, datum := f.datum })
          else if fresh then sendControl 0 3 t g f.datum 0 [] c.downPorts s
          else s

/-- DATUM_FRAME (R65). -/
def execDatumFrame (die : Nat) (s : State) : Host.Outcome State Fault Refusal :=
  guardUnit (die < Config.pairs) (controlRow die 3 datumEffect s)

/-! ### Verdicts -/

/-- A verdict meets the traverse's state (R62, R65): true where it applies, generations up to it having opened. -/
def admitVerdict (t : Nat) (g : BitVec 32) (port : Nat) (s : State) : State × Bool :=
  match s.traverse t with
  | none => (s.bump Counter.discardClosed t, false)
  | some v =>
    if !(v.ctxAt g).fromParent port then (s.bump Counter.misdirected t, false)
    else
      match v.gen? g with
      | some x =>
        if x.phase = .complete then (s.bump Counter.discardWindow t, false)
        else if x.phase = .aborted then (s.bump Counter.discardAborted t, false)
        else (s, true)
      | none =>
        if v.verdicts.any fun w => w.gen = g ∧ w.phase = .aborted then (s.bump Counter.discardAborted t, false)
        else if v.state = .closing then (s.bump Counter.discardClosed t, false)
        else if v.inWindow g then (openBareTo 8 t g .explicit none s, true)
        else (s.bump Counter.discardWindow t, false)

/-- A DONE verdict (R65, R66, R72, R111). -/
def doneEffect (rx : Rx) (s : State) : State :=
  let (s, ok) := admitVerdict rx.frame.traverse rx.frame.gen rx.port s
  if ok then completeHere rx.frame.traverse rx.frame.gen rx.frame.survey s else s

/-- DONE_FRAME (R65). The verdict of a BROADCAST waits behind the generation's chains (R66). -/
def execDoneFrame (die : Nat) (s : State) : Host.Outcome State Fault Refusal :=
  guardUnit (die < Config.pairs)
    (match headOf die (isControl 4) s with
     | some rx => if s.chainsInside rx.frame.traverse rx.frame.gen then s else controlRow die 4 doneEffect s
     | none => s)

/-- An ABORT_COMMON verdict (R65, R68). -/
def abortCommonEffect (rx : Rx) (s : State) : State :=
  let (s, ok) := admitVerdict rx.frame.traverse rx.frame.gen rx.port s
  if ok then abortedHere rx.frame.traverse rx.frame.gen (abortRecOf rx.frame.payload) s else s

/-- ABORT_COMMON_FRAME (R68). -/
def execAbortCommonFrame (die : Nat) (s : State) : Host.Outcome State Fault Refusal :=
  guardUnit (die < Config.pairs) (controlRow die 5 abortCommonEffect s)

/-- An ABORT_REQ (R59, R61, R62, R66, R80): of a generation open here it is forwarded unchanged toward the root; the root aborts with its record
or that of one that reached it together with it (R67), or discards and counts it once the generation is COMPLETE. -/
def abortReqEffect (rx : Rx) (s : State) : State :=
  let f := rx.frame
  let t := f.traverse
  let g := f.gen
  match s.traverse t with
  | none => s.bump Counter.discardClosed t
  | some v =>
    let c := v.ctxAt g
    if (c.entryAt rx.port).isNone then s.bump Counter.misdirected t
    else if c.isRoot ∧ ((v.gen? g).any (·.phase == .complete) || v.completed? g) then s.bump Counter.abortReqLate t
    else
      let (s, ok) := admitGen t g false .implicit none rx.port s
      if !ok then s
      else if c.isRoot then finishAborted t g rx.port (abortRecOf f.payload) s
      else sendToward (s.homePort t) f c.uptree s

/-- ABORT_REQ_FRAME (R66). -/
def execAbortReqFrame (die : Nat) (s : State) : Host.Outcome State Fault Refusal :=
  guardUnit (die < Config.pairs) (controlRow die 6 abortReqEffect s)

/-- A VERDICT_QUERY is answered from the recorded verdicts; an older one is counted; before the outcome the part is silent (R113). -/
def verdictQueryEffect (rx : Rx) (s : State) : State :=
  let t := rx.frame.traverse
  let g := rx.frame.gen
  match s.traverse t with
  | none => s.bump Counter.discardClosed t
  | some v =>
    let c := v.ctxAt g
    match v.verdicts.find? fun w => w.gen = g with
    | some w =>
      if (c.entryAt rx.port).isNone then s.bump Counter.misdirected t
      else if w.phase = .complete then sendControl c.verdictVc 4 t g 0 w.survey [] [rx.port] s
      else sendControl c.verdictVc 5 t g 0 0 w.record.bytes [rx.port] s
    | none => if before32 g v.oldestGen then s.bump Counter.queryOld t else s

/-- VERDICT_QUERY_FRAME (R113). -/
def execVerdictQueryFrame (die : Nat) (s : State) : Host.Outcome State Fault Refusal :=
  guardUnit (die < Config.pairs) (controlRow die 0xA verdictQueryEffect s)

/-- A RELEASE_QUERY is answered for the last released round; silent for the current one; else counted (R113). -/
def releaseQueryEffect (rx : Rx) (s : State) : State :=
  let t := rx.frame.traverse
  match s.tally t with
  | none => discardTally t s
  | some y =>
    if !y.ports.contains rx.port then discardTally t s
    else if rx.frame.gen = y.round then s
    else
      match y.released with
      | some (n, status, r) =>
        if rx.frame.gen = n then
          sendControl 0 8 t n 0 0 (releasePayload status (if status = 0 ∧ !y.genMode then none else some r)) [rx.port] s
        else discardTally t s
      | none => discardTally t s

/-- RELEASE_QUERY_FRAME (R113). -/
def execReleaseQueryFrame (die : Nat) (s : State) : Host.Outcome State Fault Refusal :=
  guardUnit (die < Config.pairs) (controlRow die 0xB releaseQueryEffect s)

/-! ### Results on their way down -/

/-- A frame that entered by an external port goes to its targets from that port's input: one target by its eligible set (R233),
several each by a descriptor. -/
def forwardDown (port : Nat) (f : Frame) (targets : List Nat) (s : State) : State :=
  match targets with
  | [] => s
  | [o] =>
    let (choice, s) := chooseSpray port f (eligibleCtx s ((frameParcel s f).getD 0) o) s
    match choice with
    | some p => stageFrame port port false f [p] s
    | none => s.bump Counter.noPath o
  | _ => stageFrame port port false f targets s

/-- A result or serve chain was lost on its way down from this part (R110, R111): the generation aborts here with MALFORMED, and
the chain joins those that need a gap frame after DONE; where the generation is COMPLETE the gap frame goes at once. -/
def loseChain (f : Frame) (port : Nat) (targets : List Nat) (s : State) : State :=
  let t := f.traverse
  let g := f.gen
  let l : LostChain := { chain := f.chain, header := f.header, targets := targets }
  match s.traverse t with
  | none => s
  | some v =>
    if v.completed? g then
      let s := yieldEvent v.ctx.parcel 3 1 2 t g.toNat 0xFFFF (sendGaps t [l] s)
      if v.verdicts.any fun w => w.gen = g ∧ w.yielded then s
      else bumpNondet v.ctx.parcel (s.setTraverse t fun v =>
        { v with verdicts := v.verdicts.map fun w => if w.gen = g then { w with yielded := true } else w })
    else
      (abortGen t g 4 port f.chain s).setGen t g fun x =>
        if x.phase ≠ .aborting then x
        else if x.lost.any fun m => m.chain = f.chain then
          { x with lost := x.lost.map fun m =>
              if m.chain = f.chain then { m with targets := (m.targets ++ targets).eraseDups } else m }
        else { x with lost := x.lost ++ [l] }

/-- A RESULT or gap frame from the parent (R61, R65, R80, R224, R400): it opens its generation, and goes to every receiving entry;
one whose CRC failed on arrival here is reported (R110). -/
def resultEffect (rx : Rx) (s : State) : State :=
  let f := rx.frame
  let t := f.traverse
  let g := f.gen
  match s.traverse t with
  | none => s.bump Counter.discardClosed t
  | some v =>
    let c := v.ctxAt g
    if c.kind ≠ .broadcast ∨ !c.fromParent rx.port then s.bump Counter.misdirected t
    else
      let (s, ok) := if ((v.gen? g).map (·.phase)) = some .aborting then (s, true)
        else admitGen t g true .explicit (some f.datum) rx.port s
      if !ok then s
      else
        let targets := (if f.type = 5 then c.receiversOf f.chain else c.receivers).map (·.port)
        let s := forwardDown rx.port f targets s
        let s := s.setGen t g fun x => { x with endSent := x.endSent || f.isEnd, sourceAt := s.clock }
        let s := if rx.handed then loseChain f rx.port targets s else s
        settleBroadcast t s

/-- RESULT_FRAME (R66): the frame that has waited longest for its lookup; one that goes nowhere has its credits returned (R230, R400). -/
def execResultFrame (s : State) : Host.Outcome State Fault Refusal :=
  .next (match s.xbar.lookup with
    | [] => s
    | rx :: rest => ingressCredits rx.port rx.frame s (resultEffect rx (s.setXbar fun x => { x with lookup := rest })))

/-! ### Serve requests and layer generations -/

/-- A layer generation of this layer for the same receivers is open or queued (R157, R392). -/
def Traverse.hasLayer (v : Traverse) (l : Nat) (only : Option Nat) : Bool :=
  v.queue.contains (l, only) || v.gens.any fun x => !x.phase.isTerminal && x.layer.any fun j => j.layer == l && j.only == only

/-- Chains a layer takes at this root (R155). -/
def State.layerChains (s : State) (c : Ctx) (l : Nat) : Nat :=
  (s.sources c (some l)).foldl (fun a e => a + e.2.chains (fmtElems c.fmtOut)) 0

/-- A request or prefetch of a layer that passed its checks: opens a generation, or queues while 8 are open; a 65th distinct layer
is dropped (R158). -/
def requestLayer (t l : Nat) (only : Option Nat) (s : State) : State :=
  match s.traverse t with
  | none => s
  | some v =>
    if v.inWindow v.nextGen ∧ v.queue.isEmpty then openOne t .explicit none (some { layer := l, only := only }) s
    else if v.queue.length < 64 then s.setTraverse t fun v => { v with queue := v.queue ++ [(l, only)] }
    else s.bump Counter.serveDrop t

/-- A request for a layer at the root of a serve traverse (R155, R157): counted where it is bad, merged or refused. A load names its one
receiving entry (R392). -/
def layerRequest (t l : Nat) (only : Option Nat) (s : State) : State :=
  match s.traverse t with
  | none => s.bump Counter.serveBad t
  | some v =>
    let c := v.ctx
    if s.layerChains c l > 2 ^ 24 then s.bump Counter.serveBad t
    else if v.hasLayer l only then s.bump Counter.serveMerged t
    else if v.state = .closing ∨ (s.sources c (some l)).any (fun e => e.2.stateCode = 0) then s.bump Counter.serveRefused t
    else requestLayer t l only s

/-- A SERVE request at the die that homes its traverse (R157). -/
def serveEffect (die : Nat) (rx : Rx) (s : State) : State :=
  let f := rx.frame
  let t := f.traverse
  if f.taint ∨ !Frame.crcOk f then s
  else if !reservedOk f then s.bump Counter.dieTypeErr die
  else
    match s.traverse t with
    | none => s.bump Counter.serveBad t
    | some v =>
      let c := v.ctx
      if c.kind ≠ .broadcast then s.bump Counter.serveBad t
      else if !c.isRoot then sendToward (s.homePort t) f c.uptree s
      else if !(c.receivers.any fun e => e.port = rx.port) ∨ f.chain % 2 ^ 24 ≠ 0 ∨ f.fmt ≠ c.fmtOut ∨ f.gen ≠ 0 ∨
          !(c.entries.any fun e => e.role = .region) then s.bump Counter.serveBad t
      else layerRequest t (f.chain / 2 ^ 24) none s

/-- SERVE_REQUEST (R157). -/
def execServeRequest (die : Nat) (s : State) : Host.Outcome State Fault Refusal :=
  guardUnit (die < Config.pairs)
    (match headOf die (fun f => f.type == 6) s with
     | none => s
     | some rx => onDie die (fun s => serveEffect die rx (takeHead die rx s)) s)

/-- LAYER_GENERATION_OPEN (R158): the layer queued first opens once fewer than 8 generations are open. -/
def execLayerGenerationOpen (traverse : Nat) (s : State) : Host.Outcome State Fault Refusal :=
  guardUnit (traverse < Config.indices)
    (match s.traverse traverse with
     | none => s
     | some v =>
       match v.queue with
       | [] => s
       | (l, only) :: rest =>
         if v.inWindow v.nextGen ∧ v.state ≠ .closing then
           openOne traverse .explicit none (some { layer := l, only := only }) (s.setTraverse traverse fun v => { v with queue := rest })
         else s)

/-! ### Timers (R75-R77, R113) -/

/-- First chain a member still owes: the one it is part-way through, or the next after the last it sent. -/
def Progress.owed (p : Progress) : Nat :=
  match p.part with
  | some q => q.1
  | none => match p.last with
    | some l => l + 1
    | none => 0

/-- GEN_MEMBER_TIMEOUT (R76): a member that owes a survey or a chain has been silent for T_h. -/
def execGenMemberTimeout (traverse : Nat) (gen : BitVec 32) (entry : Nat) (s : State) : Host.Outcome State Fault Refusal :=
  guardUnit (traverse < Config.indices)
    (match s.traverse traverse, s.genOf traverse gen with
     | some v, some x =>
       let c := v.ctxAt gen
       let p := x.progress.getD entry {}
       if c.kind = .broadcast ∨ !c.contributors.contains entry ∨ !(x.phase = .surveying ∨ x.phase = .open_) ∨ p.ended then s
       else
         let s := s.reach (max x.openedAt p.lastAt + limitNs c.height c.timeoutUs)
         abortGen traverse gen 1 (c.entries.getD entry {}).port (if x.phase = .surveying then noChain else p.owed) s
     | _, _ => s)

/-- Chains of a generation that wait for a port: (chain, since when). -/
def State.waitingFor (s : State) (t : Nat) (g : BitVec 32) (port : Nat) : List (Nat × Nat) :=
  s.xbar.queues.flatMap fun e => if queuePort e.1 ≠ port then [] else e.2.descs.filterMap fun d =>
    match s.xbar.record d.record with
    | some r => if r.frame.chainOf t g then some (r.frame.chain, d.at_) else none
    | none => none

/-- BROADCAST_MEMBER_TIMEOUT (R77): the source side, when it owes chains and has sent none for T_h (a pass source by its entry, the
parent by the index after the last entry; the record of a late parent names no chain, since R77 does not say which of the chains owed it is:
DESIGN CHOICE, log 84), or a receiving entry that has returned no VC2 credits for T_h while chains wait for it. -/
def execBroadcastMemberTimeout (traverse : Nat) (gen : BitVec 32) (entry : Nat) (s : State) : Host.Outcome State Fault Refusal :=
  guardUnit (traverse < Config.indices)
    (match s.traverse traverse, s.genOf traverse gen with
     | some v, some x =>
       let c := v.ctxAt gen
       let th := limitNs c.height c.timeoutUs
       if c.kind ≠ .broadcast ∨ x.phase ≠ .open_ then s
       else if entry = c.entries.length then
         if c.isRoot ∨ c.linkValid ∨ x.endSent then s
         else abortGen traverse gen 1 c.uptree noChain (s.reach (max x.openedAt x.sourceAt + th))
       else
         let e := c.entries.getD entry {}
         if c.owes e then
           let p := x.progress.getD entry {}
           if p.ended then s else abortGen traverse gen 1 e.port p.owed (s.reach (max x.openedAt p.lastAt + th))
         else
           match s.waitingFor traverse gen e.port with
           | [] => s
           | w :: ws =>
             let since := max (max x.openedAt (s.link e.port).vc2At) (ws.foldl (fun m q => min m q.2) w.2)
             if c.receivers.contains e then abortGen traverse gen 1 e.port (ws.foldl (fun m q => min m q.1) w.1) (s.reach (since + th))
             else s
     | _, _ => s)

/-- VERDICT_WAIT_TIMEOUT (R113): a part that has waited T_h for a verdict or a release asks its parent, and goes on waiting. -/
def execVerdictWaitTimeout (tally : Bool) (index : Nat) (gen : BitVec 32) (s : State) : Host.Outcome State Fault Refusal :=
  guardUnit (index < Config.indices)
    (if tally then
       match s.tally index with
       | none => s
       | some y =>
         match y.waitAt with
         | none => s
         | some at_ =>
           if y.uptree = 0xFF ∨ gen ≠ y.round then s
           else
             let s := s.reach (at_ + limitNs y.height y.timeoutUs)
             sendControl 0 0xB index y.round 0 0 [] [y.uptree] (s.setTally index fun y => { y with waitAt := some s.clock })
     else
       match s.traverse index, s.genOf index gen with
       | some v, some x =>
         let c := v.ctxAt gen
         if c.isRoot ∨ !(x.phase = .sent ∨ x.phase = .aborting) then s
         else
           let s := s.reach (x.waitAt + limitNs c.height c.timeoutUs)
           sendControl 0 0xA index gen 0 0 [] [c.uptree] (s.setGen index gen fun x => { x with waitAt := s.clock })
       | _, _ => s)

/-- CONTEXT_DROP (R58): OLDEST_GEN has reached the newer context's FIRST_GEN. -/
def execContextDrop (traverse : Nat) (s : State) : Host.Outcome State Fault Refusal :=
  guardUnit (traverse < Config.indices)
    (s.setTraverse traverse fun v =>
      match v.prev with
      | some (_, first) => if before32 v.oldestGen first then v else { v with prev := none }
      | none => v)

/-- BINDING_PREV_CLEAR (R181): no generation before FIRST_GEN remains open. -/
def execBindingPrevClear (traverse : Nat) (s : State) : Host.Outcome State Fault Refusal :=
  guardUnit (traverse < Config.indices)
    (match s.traverse traverse with
     | some v =>
       { s with bindings := tmap traverse (fun b =>
          if b.prevValid ∧ ¬ before32 v.oldestGen b.firstGen then { b with prevValid := false } else b) s.bindings }
     | none => s)

/-! ### Tallies (R82, R83) -/

/-- An ARRIVAL (R82). -/
def arrivalEffect (rx : Rx) (s : State) : State :=
  let t := rx.frame.traverse
  match s.tally t with
  | none => discardTally t s
  | some y =>
    if y.genMode ∨ rx.frame.gen ≠ y.round ∨ !y.ports.contains rx.port ∨ y.arrived.contains rx.port then discardTally t s
    else
      let n := y.arrived.length + 1
      let s := s.setTally t fun y =>
        { y with arrived := y.arrived ++ [rx.port], firstAt := if y.arrived.isEmpty then s.clock else y.firstAt }
      if n < y.expect then s
      else if y.uptree = 0xFF then releaseBarrier t 0 {} s
      else sendControl 0 7 t y.round 0 0 [] [y.uptree] (s.setTally t fun y => { y with waitAt := some s.clock })

/-- TALLY_ARRIVAL (R82). -/
def execTallyArrival (die : Nat) (s : State) : Host.Outcome State Fault Refusal :=
  guardUnit (die < Config.pairs) (controlRow die 7 arrivalEffect s)

/-- A RELEASE from the parent: status OK or TIMEOUT (R82, R83). -/
def releaseEffect (rx : Rx) (s : State) : State :=
  let t := rx.frame.traverse
  let status := (rx.frame.payload.headD 0).toNat
  match s.tally t with
  | none => discardTally t s
  | some y =>
    if y.genMode ∨ rx.frame.gen ≠ y.round ∨ y.uptree = 0xFF ∨ rx.port ≠ y.uptree ∨ !(status = 0 ∨ status = 6) then discardTally t s
    else releaseBarrier t status (abortRecOf (rx.frame.payload.drop 1)) s

/-- TALLY_RELEASE (R82). -/
def execTallyRelease (die : Nat) (s : State) : Host.Outcome State Fault Refusal :=
  guardUnit (die < Config.pairs) (controlRow die 8 releaseEffect s)

/-- The record with which the root of a tally fails a round: of the cause at hand and every TIMEOUT_REQ of the round that reached it with that
one, as R67 settles ABORT_REQs (R83, log 59). -/
def State.settledTimeout (s : State) (t : Nat) (y : Tally) (port : Nat) (r : AbortRec) : AbortRec :=
  (((s.dies.flatMap fun d => d.reseq.inbox).filterMap fun rx =>
    if isControl 9 rx.frame ∧ controlOk rx.frame ∧ rx.frame.traverse = t ∧ rx.frame.gen = y.round ∧ y.ports.contains rx.port then
      some (rx.port, abortRecOf rx.frame.payload)
    else none).foldl firstCause (port, r)).2

/-- TALLY_MEMBER_LATE (R83): T_h after the round's first arrival a member is missing; the record names the lowest such port. -/
def execTallyMemberLate (tally : Nat) (s : State) : Host.Outcome State Fault Refusal :=
  guardUnit (tally < Config.indices)
    (match s.tally tally with
     | none => s
     | some y =>
       let late := y.ports.filter fun p => !y.arrived.contains p
       match late with
       | [] => s
       | p :: ps =>
         if y.genMode ∨ y.arrived.isEmpty ∨ y.requested then s
         else
           let s := s.reach (y.firstAt + limitNs y.height y.timeoutUs)
           let r : AbortRec := { gen := y.round, traverse := tally, cause := 1, port := ps.foldl min p, part := s.number }
           if y.uptree = 0xFF then releaseBarrier tally 6 (s.settledTimeout tally y ownRank r) s
           else sendControl 0 9 tally y.round 0 0 r.bytes [y.uptree] (s.setTally tally fun y => { y with requested := true }))

/-- A TIMEOUT_REQ: forwarded toward the root, which releases the current round with its record (R83). -/
def timeoutReqEffect (rx : Rx) (s : State) : State :=
  let t := rx.frame.traverse
  match s.tally t with
  | none => discardTally t s
  | some y =>
    if y.genMode ∨ !y.ports.contains rx.port then discardTally t s
    else if y.uptree ≠ 0xFF then sendToward (s.homePort t) rx.frame y.uptree s
    else if rx.frame.gen ≠ y.round then discardTally t s
    else releaseBarrier t 6 (s.settledTimeout t y rx.port (abortRecOf rx.frame.payload)) s

/-- TIMEOUT_REQ_FRAME (R83). -/
def execTimeoutReqFrame (die : Nat) (s : State) : Host.Outcome State Fault Refusal :=
  guardUnit (die < Config.pairs) (controlRow die 9 timeoutReqEffect s)

end Sys2Proof.Machine
end

