-- ==== Sys2Proof/Machine/Sequencers.lean ====
section
/-! DEFINITION. The resequencers (R106-R108, R217, R220): ingress at the ledger dies and MD, egress at the lane chiplets, and
their rows. A place is numbered 0-29 for the ledger dies, 30 for MD and 31 + c for lane chiplet c. -/
namespace Sys2Proof.Machine

/-- The resequencer of a place. -/
def State.reseqAt (s : State) (place : Nat) : Reseq :=
  if place < Config.pairs then (s.die place).reseq
  else if place = Config.pairs then s.mdReseq
  else (s.chiplets.getD (place - 31) {}).egress

def State.setReseq (place : Nat) (f : Reseq → Reseq) (s : State) : State :=
  if place < Config.pairs then s.setDie place fun d => { d with reseq := f d.reseq }
  else if place = Config.pairs then { s with mdReseq := f s.mdReseq }
  else { s with chiplets := lmap (place - 31) (fun c => { c with egress := f c.egress }) s.chiplets }

/-- Counts an event of a resequencer: 0 SEQ_OLD, 1 SEQ_OVERRUN, 2 HOLE_SKIP, 3 HOLE_FORCED, 4 SEQ_EVICT (Table 15.10 gives MD's
resequencer no counters). -/
def countSeq (place event : Nat) (s : State) : State :=
  if place < Config.pairs then s.bump (if event = 4 then 0x5A else 0x51 + event) place
  else if place = Config.pairs then s
  else s.bump (0x30 + event) (place - 31)

/-- Flows and held descriptors a place has room for (R106, R107, R220). The spec sizes ledger dies and lane chiplets only: MD's
resequencer is given a ledger die's 65,536 (DESIGN CHOICE, log 88). -/
def seqRoom (place : Nat) : Nat := if place ≤ Config.pairs then 65536 else 16384

/-- A frame leaves a resequencer without being delivered: its reference is released (R212). -/
def dropRx (rx : Rx) (s : State) : State :=
  match rx.record with
  | some id => releaseRef id s
  | none => s

/-- A frame is delivered: to its die's waiting frames, or out of the chiplet's port, where that is UP (R212, R220, R260). -/
def deliverRx (place : Nat) (rx : Rx) (s : State) : State :=
  let s := if place ≤ Config.pairs then s.setReseq place fun r => { r with inbox := r.inbox ++ [{ rx with record := none }] }
    else if s.portUp rx.port then sendOut rx.port rx.frame s else s
  dropRx rx s

/-! ### One flow -/

/-- The distance h - h0 of R106, signed. -/
def Flow.place (f : Flow) (h : BitVec 24) : Int := (h - f.h0).toInt

/-- Held frames that now follow x in order, delivered behind it. -/
def Flow.drain : Nat → Flow → Flow × List Rx
  | 0, f => (f, [])
  | fuel + 1, f =>
    match f.x with
    | none => (f, [])
    | some x =>
      match f.held.find? fun h => h.seq = x with
      | none => (f, [])
      | some h =>
        let r := Flow.drain fuel { f with x := some (x + 1), held := f.held.filter fun k => k.seq ≠ x }
        (r.1, h.rx :: r.2)

/-- What a flow does with a frame: the flow, the frames delivered, and the frames discarded with their counter (R106). -/
def Flow.take (now : Nat) (rx : Rx) (f : Flow) : Flow × List Rx × List (Nat × Rx) :=
  let s := BitVec.ofNat 24 rx.frame.seq
  let f := { f with lastAt := now }
  let hold := { f with held := f.held ++ [{ seq := s, at_ := now, rx := rx }] }
  if rx.frame.resync then
    let behind (h : Held) : Bool := (s - h.seq).toNat < 2 ^ 23
    let r := Flow.drain f.held.length { f with x := some (s + 1), held := f.held.filter fun h => !behind h }
    (r.1, rx :: r.2, (f.held.filter behind).map fun h => (0, h.rx))
  else
    match f.x with
    | none =>
      if f.held.isEmpty then ({ hold with h0 := s }, [], [])
      else if f.place s < -4095 ∨ 4095 < f.place s then (f, [], [(1, rx)])
      else if f.held.any fun h => h.seq = s then (f, [], [(0, rx)])
      else (hold, [], [])
    | some x =>
      let d := (s - x).toNat
      if d = 0 then
        let r := Flow.drain f.held.length { f with x := some (x + 1) }
        (r.1, rx :: r.2, [])
      else if d ≤ 4095 then
        if f.held.any fun h => h.seq = s then (f, [], [(0, rx)]) else (hold, [], [])
      else if d < 2 ^ 23 then (f, [], [(1, rx)])
      else (f, [], [(0, rx)])

/-- The lowest held number of a flow: beyond x, or by distance from h0 while unsynchronised. -/
def Flow.lowest (f : Flow) : Option (BitVec 24) :=
  let key (h : BitVec 24) : Int := match f.x with
    | some x => ((h - x).toNat : Int)
    | none => f.place h
  match f.held with
  | [] => none
  | h :: hs => some (hs.foldl (fun m k => if key k.seq < key m then k.seq else m) h.seq)

/-- Arrival of the oldest frame held beyond the awaited hole (R107). -/
def Flow.holeSince (f : Flow) : Option Nat :=
  match f.held with
  | [] => none
  | h :: hs => some (hs.foldl (fun m k => min m k.at_) h.at_)

/-- The awaited hole is skipped, or the flow becomes synchronised at its lowest held number: the frames delivered, and whether a
hole was skipped (R106, R107). -/
def Flow.skip (f : Flow) : Flow × List Rx × Bool :=
  match f.lowest with
  | none => (f, [], false)
  | some h =>
    let r := Flow.drain f.held.length { f with x := some h }
    (r.1, r.2, f.x.isSome)

/-- Every hole of a flow is skipped in turn: the frames delivered, and the holes skipped (R108). -/
def Flow.skipAll : Nat → Flow → Flow × List Rx × Nat
  | 0, f => (f, [], 0)
  | fuel + 1, f =>
    if f.held.isEmpty then (f, [], 0)
    else
      let (g, out, hole) := f.skip
      let r := Flow.skipAll fuel g
      (r.1, out ++ r.2.1, r.2.2 + (if hole then 1 else 0))

/-! ### The table of flows -/

/-- The flow of a key. -/
def Reseq.flow? (r : Reseq) (key : Nat × Nat × Nat) : Option Flow :=
  r.flows.find? fun f => (f.srcPart, f.srcPort, f.flow) == key

/-- A flow replaced, or added. -/
def Reseq.putFlow (g : Flow) (r : Reseq) : Reseq :=
  let same (f : Flow) : Bool := f.srcPart == g.srcPart && f.srcPort == g.srcPort && f.flow == g.flow
  if r.flows.any same then { r with flows := r.flows.map fun f => if same f then g else f }
  else { r with flows := r.flows ++ [g] }

/-- A flow removed. -/
def Reseq.dropFlow (g : Flow) (r : Reseq) : Reseq :=
  { r with flows := r.flows.filter fun f => !(f.srcPart == g.srcPart && f.srcPort == g.srcPort && f.flow == g.flow) }

/-- `f` comes before `g` where ties go to the lowest SRC_PART, SRC_PORT, FLOW (R107). -/
def Flow.before (f g : Flow) : Bool :=
  f.srcPart < g.srcPart || (f.srcPart == g.srcPart && (f.srcPort < g.srcPort || (f.srcPort == g.srcPort && f.flow < g.flow)))

/-- The flow that comes first under a strict order, ties by key. -/
def bestFlow (better : Flow → Flow → Bool) : List Flow → Option Flow
  | [] => none
  | f :: fs => some (fs.foldl (fun m g => if better g m || (!better m g && g.before m) then g else m) f)

/-- Puts a flow back with the frames its change delivered; one that held frames until now was busy until now (R106). -/
def settleFlow (place : Nat) (g : Flow) (out : List Rx) (s : State) : State :=
  let held := ((s.reseqAt place).flow? (g.srcPart, g.srcPort, g.flow)).any fun f => !f.held.isEmpty
  forEach out (deliverRx place) (s.setReseq place (Reseq.putFlow (if held then { g with busyAt := s.clock } else g)))

/-- The store of held descriptors is full: the oldest hole of the flow that holds the most is skipped at once (R107). -/
def makeHeldRoom (place : Nat) (s : State) : State :=
  let r := s.reseqAt place
  if (r.flows.foldl (fun a f => a + f.held.length) 0) < seqRoom place then s
  else
    let older (f g : Flow) : Bool := f.holeSince.getD 0 < g.holeSince.getD 0
    match bestFlow (fun f g => g.held.length < f.held.length || (f.held.length == g.held.length && older f g)) r.flows with
    | none => s
    | some f =>
      let (g, out, hole) := f.skip
      let s := settleFlow place g out s
      if hole then countSeq place 3 s else s

/-- The flow table is full: one flow is evicted (R108). Among equally old flows it is the one with the lowest SRC_PART, SRC_PORT,
FLOW, the order R107 gives for its own ties (DESIGN CHOICE, log 88). -/
def makeFlowRoom (place : Nat) (s : State) : State :=
  let r := s.reseqAt place
  if r.flows.length < seqRoom place then s
  else
    let quiet := r.flows.filter fun f => f.held.isEmpty
    match bestFlow (fun f g => f.lastAt < g.lastAt) quiet with
    | some f => countSeq place 4 (s.setReseq place (Reseq.dropFlow f))
    | none =>
      match bestFlow (fun f g => f.holeSince.getD 0 < g.holeSince.getD 0) r.flows with
      | none => s
      | some f =>
        let (_, out, holes) := Flow.skipAll f.held.length f
        let s := forEach out (deliverRx place) s
        let s := forEach (List.range holes) (fun _ => countSeq place 3) s
        countSeq place 4 (s.setReseq place (Reseq.dropFlow f))

/-- A frame is sequenced where it arrives: VC1 and VC5 at a ledger die, VC7 elsewhere (Table 9.5). -/
def sequencedAt (place : Nat) (f : Frame) : Bool := if place < Config.pairs then f.vc == 1 || f.vc == 5 else f.vc == 7

/-- The oldest frame that has reached a resequencer is delivered, held or discarded (R106, R217). -/
def arrive (place : Nat) (s : State) : State :=
  match (s.reseqAt place).arrivals with
  | [] => s
  | rx :: rest =>
    let s := s.setReseq place fun r => { r with arrivals := rest }
    if rx.handed ∨ !sequencedAt place rx.frame then deliverRx place rx s
    else
      let key := (rx.frame.srcPart, rx.frame.srcPort, rx.frame.flow)
      let s := if ((s.reseqAt place).flow? key).isNone then makeFlowRoom place s else s
      let flowOf (s : State) : Flow := ((s.reseqAt place).flow? key).getD
        { srcPart := key.1, srcPort := key.2.1, flow := key.2.2, lastAt := s.clock }
      let holds : Bool := (flowOf s).held.length < ((flowOf s).take s.clock rx).1.held.length
      let s := if holds then makeHeldRoom place s else s
      let (g, out, gone) := (flowOf s).take s.clock rx
      let s := settleFlow place g out s
      forEach gone (fun d s => countSeq place d.1 (dropRx d.2 s)) s

/-- The awaited hole of a flow reaches 32 µs of age (R107). -/
def skipHole (place : Nat) (key : Nat × Nat × Nat) (s : State) : State :=
  match (s.reseqAt place).flow? key with
  | none => s
  | some f =>
    match f.holeSince with
    | none => s
    | some at_ =>
      let s := s.reach (at_ + 32000)
      let (g, out, hole) := f.skip
      let s := settleFlow place g out s
      if hole then countSeq place 2 s else s

/-! ### The rows -/

/-- Work of a place: a ledger die's waits for its group (R347). -/
def onPlace (place : Nat) (work : State → State) (s : State) : State :=
  if place < Config.pairs then onDie place work s
  else if place = Config.pairs then work s
  else onGroup (groupOfPort (4 * (place - 31))) work s

/-- RESEQ_FRAME_ARRIVAL (R106): die 0-29, or 30 for MD's resequencer (Table 9.5). -/
def execReseqFrameArrival (die : Nat) (s : State) : Host.Outcome State Fault Refusal :=
  guardUnit (die ≤ Config.pairs) (onPlace die (arrive die) s)

/-- HOLE_SKIP (R107). -/
def execHoleSkip (die srcPart srcPort flow : Nat) (s : State) : Host.Outcome State Fault Refusal :=
  guardUnit (die ≤ Config.pairs) (onPlace die (skipHole die (srcPart, srcPort, flow)) s)

/-- SEQ_FLOW_RETIRE (R106): a flow with no frame, no hole and nothing held for 10 ms; places 31 to 62 are the lane chiplets (R220). -/
def execSeqFlowRetire (die srcPart srcPort flow : Nat) (s : State) : Host.Outcome State Fault Refusal :=
  guardUnit (die ≤ Config.pairs + Config.chiplets)
    (match (s.reseqAt die).flow? (srcPart, srcPort, flow) with
     | none => s
     | some f => if f.held.isEmpty then (s.reach (max f.lastAt f.busyAt + 10000000)).setReseq die (Reseq.dropFlow f) else s)

/-- EG_RESEQ_FRAME_ARRIVAL (R220). -/
def execEgReseqFrameArrival (chiplet : Nat) (s : State) : Host.Outcome State Fault Refusal :=
  guardUnit (chiplet < Config.chiplets) (onPlace (31 + chiplet) (arrive (31 + chiplet)) s)

/-- EG_HOLE_SKIP (R220). -/
def execEgHoleSkip (chiplet srcPart srcPort flow : Nat) (s : State) : Host.Outcome State Fault Refusal :=
  guardUnit (chiplet < Config.chiplets) (onPlace (31 + chiplet) (skipHole (31 + chiplet) (srcPart, srcPort, flow)) s)

end Sys2Proof.Machine
end

