-- ==== Sys2Proof/Machine/Switch.lean ====
section
/-! DEFINITION. The rows of the switch core: frames from a lane chiplet into staging (R93-R99, R109, R222-R224, R371), cell slots
and the central scheduler (R203-R205), outputs (R206-R209, R212, R240), and the timers of descriptors, thresholds, epochs, joins
and telemetry (R223, R225, R234, R235, R244). -/
namespace Sys2Proof.Machine

/-! ### Ingress -/

/-- SUBTYPE is one of its type's (Tables 4.4, 5.1, 9.7, 12.4, 14.7). -/
def subtypeOk (f : Frame) : Bool :=
  match f.type with
  | 7 => 1 ≤ f.subtype && f.subtype ≤ 11
  | 8 | 10 => f.sub8 == 1 || f.sub8 == 2
  | 9 => 1 ≤ f.sub8 && f.sub8 ≤ 5
  | 11 => f.sub8 == 1
  | _ => true

/-- TYPE is one of Table 4.3. -/
def typeOk (f : Frame) : Bool := 1 ≤ f.type && f.type ≤ 11

/-- The ports of a MARK's RELAY mask (R118), and the way of a NACK back toward its origin: the stream's INGRESS_PORT (R120). The analysis port
is never one (R216). -/
def stationTargets (s : State) (f : Frame) (arrival : Nat) : List Nat :=
  let st := s.stream f.stream
  let back := if st.originPart = s.number then [st.originPort] else [st.ingressPort]
  (if f.sub8 = 1 then maskPorts st.relay else back.filter (· < 128)).filter fun p => p ≠ arrival ∧ p ≠ s.monitor.analysisPort

/-- A MARK is copied onto the timebase ring (R118). -/
def copyMark (port : Nat) (f : Frame) (s : State) : State :=
  if f.sub8 = 1 then { s with timebases := s.timebases.map fun b =>
    if b.stopped then b else { b with marks := b.marks ++ [{ frame := f, port := port }] } } else s

/-- Where the entry of the part's own number delivers a frame (R221, R276): a MANAGEMENT frame to MD, a SCATTER frame to its stripe's die, a
TELEMETRY frame to DEST_PORT. -/
def localTargets (s : State) (f : Frame) : List Nat :=
  if f.type = 9 then [Config.mdPort]
  else if f.type = 11 then
    let base := ((s.regionAt (f.field 112 32)).map (·.2.base)).getD 0
    [Config.diePort (s.physical ((base + f.field 144 28) % Config.pairs))]
  else if f.destPort < 128 then [f.destPort] else []

/-- The targets the destination table gives a frame of types 0x9 to 0xB from input `port` (R221, R233): by a valid entry, or counted in NO_ROUTE;
by an up port of it, or counted in NO_PATH. -/
def routeTargets (port : Nat) (f : Frame) (s : State) : List Nat × State :=
  match routeEntry s f.destPart with
  | none => ([], s.bump Counter.noRoute partWide)
  | some e =>
    if f.destPart = s.number then ((localTargets s f).filter (· ≠ port), s)
    else if e.mcast then (e.fanOut.filter (· ≠ port), s)
    else
      let (choice, s) := chooseSpray port f ((eligibleDest s e.parcel e.ports).filter (· ≠ port)) s
      match choice with
      | some o => ([o], s)
      | none => ([], s.bump Counter.noPath ((maskPorts e.ports).headD 0))

/-- The lookup of a frame of types 0x9 to 0xB in the destination table. -/
def routeFrame (port : Nat) (f : Frame) (s : State) : State :=
  let (targets, s) := routeTargets port f s
  stageFrame port port false f targets s

/-- The lookup of a frame that has passed the lane chiplet's checks, by its type (R218, R221, R224, R118). -/
def lookupFrame (port : Nat) (bad : Bool) (f : Frame) (s : State) : State :=
  if f.type ≤ 4 then
    stageFrame port port false f [Config.diePort (s.physical ((f.traverse + f.chain) % Config.pairs))] s
  else if f.type = 5 then s.setXbar fun x => { x with lookup := x.lookup ++ [{ frame := f, port := port, handed := bad }] }
  else if f.type = 6 then
    if f.isRequest then stageFrame port port false f [s.homePort f.traverse] s
    else resultEffect { frame := f, port := port, handed := bad } s
  else if f.type = 7 then stageFrame port port false f [s.homePort f.traverse] s
  else if f.type = 8 then stageFrame port port false f (stationTargets s f port) (copyMark port f s)
  else routeFrame port f s

/-- An endpoint's frame of types 0x1 to 0x7 on a port its parcel's plat does not grant (R371). -/
def foreignPort (s : State) (port : Nat) (f : Frame) : Bool :=
  f.type ≤ 7 && s.endpointPort port &&
  (match frameParcel s f with
   | none | some 0 => false
   | some p => match s.parcel p with
     | some pc => !pc.plat.ports.getLsbD port
     | none => true)

/-- The frame is addressed to this part (R313): by its number, or while the part has none. -/
def forMd (s : State) (f : Frame) : Bool := f.type == 9 && (s.number == 0xFFFF || f.destPart == s.number)

/-- A frame of a good type enters staging: credit, then the lookup (R230, R343, R371). `bad` says that this part found it bad (R110). -/
def admitFrame (port : Nat) (bad : Bool) (f : Frame) (s : State) : State :=
  ingressCredits port f s
    (if !mayStart (s.occupied port) f.vc (creditsOf f.payload.length) then s.bump Counter.creditViol port
     else if forMd s f then stageFrame port port false f [Config.mdPort] s
     else if !s.routes.committed then s.bump Counter.noRoute partWide
     else if foreignPort s port f then s.bump Counter.platMiss port
     else lookupFrame port bad f s)

/-- An echo that a frame carries in CE has come back, and goes no further (R237, R238). -/
def takeCe (port : Nat) (f : Frame) (s : State) : Frame × State :=
  if f.ce then ({ f with header := withHcrc (withBits f.header 8 1 0) }, s.setLink port (takeEchoIn s.clock)) else (f, s)

/-- What an ingress lane chiplet does with a frame whose header passed HCRC (R95, R109, R110, R230, R238, R343, R371). -/
def ingressFrame (port : Nat) (g : Frame) (s : State) : State :=
  let (f, s) := takeCe port g s
  if !typeOk f ∨ !subtypeOk f then
    returnCredits port f.vc (creditsOf f.payload.length) (s.bump Counter.portTypeErr port)
  else
    let bad := !f.taint && !Frame.crcOk f
    let s := if f.taint then s.bump Counter.taintSeen port else if bad then s.bump Counter.crcErr port else s
    admitFrame port bad (if bad then setTaint f else f) s

/-! ### The byte stream of a port (R250, R399) -/

/-- The frame that the bytes `rx` begin with, cut to a payload of `n` bytes. -/
def cutFrame (rx : Bytes) (n : Nat) : Frame :=
  { header := BitVec.ofNat 256 (leNat (rx.take 32)), payload := (rx.drop 32).take n
    trailer := BitVec.ofNat 128 (leNat ((rx.drop (32 + n)).take 16)) }

/-- Payload bytes of the frame `rx` begins with: as its header announces, and for COMMAND the entry and the BUF_LEN bytes it names (R312,
R399, log 91); none until the bytes that tell it are there. -/
def frontLen (rx : Bytes) : Option Nat :=
  match announcedLen (cutFrame rx 0) with
  | some n => some n
  | none => if rx.length < 288 then none else some (256 + min 3840 (bitsAt (leNat ((rx.drop 32).take 256)) 192 17))

/-- Bytes of a frame on the wire, up to the next 8-byte boundary (R250). -/
def wireBytes (n : Nat) : Nat := (48 + n + 7) / 8 * 8

/-- The stream shows a taint stub of a type whose header has no PAYLOAD_LEN (R208): at the announced length the CRC fails, and the 16 bytes behind
the header are a trailer with TAINT (DESIGN CHOICE, log 91). -/
def stubInFront (rx : Bytes) (n : Nat) : Bool :=
  let f := cutFrame rx n
  let stub := cutFrame rx 0
  9 ≤ f.type && f.type ≤ 11 && !f.taint && !Frame.crcOk f && stub.taint && stub.tfield 99 29 == 0

/-- What a receiver does with the front of its stream (R250, R399): waits for more bytes (none), or takes bytes off it, with the frame they were and
whether a run of skipped bytes begins. A word whose bits [3:0] are 0 is filler; a word that begins no header passing HCRC is skipped. -/
def frameStep (l : Link) : Option (Nat × Option Frame × Bool) :=
  match l.rx.head? with
  | none => none
  | some b =>
    if b.toNat % 16 = 0 then some (8, none, false)
    else if l.rx.length < 32 then none
    else if !Frame.hcrcOk (cutFrame l.rx 0) then some (8, none, true)
    else match frontLen l.rx with
      | none => none
      | some n =>
        if l.rx.length < wireBytes n then none
        else if stubInFront l.rx n then some (48, some (cutFrame l.rx 0), false)
        else some (wireBytes n, some (cutFrame l.rx n), false)

/-- Frames of a port's stream, one after another, until it waits for more bytes. A frame that began before credit initialisation was acknowledged, or
on a port that is not UP, is discarded without a count (R232, R254). -/
def takeFrames : Nat → Nat → State → State
  | 0, _, s => s
  | fuel + 1, p, s =>
    let l := s.link p
    match frameStep l with
    | none => s
    | some (n, got, skip) =>
      let deaf := l.awaitAck || !s.portUp p
      let s := s.setLink p fun l => { l with rx := l.rx.drop n, skipping := skip || (l.skipping && got.isNone)
                                             rxVoid := l.rxVoid && got.isNone }
      let s := if skip ∧ !l.skipping ∧ !deaf then s.bump Counter.hdrErr p else s
      let s := match got with
        | some f => if deaf ∨ l.rxVoid then s else ingressFrame p f s
        | none => s
      takeFrames fuel p s

/-- Logical lane received at data position `k` (LANE_MAP, Table 11.5). -/
def Port.laneAt (x : Port) (k : Nat) : Nat := bitsAt x.laneMap.toNat (3 * k) 3

/-- What data position `k` carries, its polarity corrected (Table 11.3). -/
def Port.upright {w : Nat} (x : Port) (k : Nat) (v : BitVec w) : BitVec w := if x.polarity.getLsbD k then ~~~v else v

/-- The payloads of a row by logical lane, from the blocks' payloads by data position. -/
def Port.byLane (x : Port) (row : List (BitVec 256)) : List Nat :=
  (List.range 8).map fun lane =>
    ((row.zipIdx.find? fun e => x.laneAt e.2 = lane).map fun e => (x.upright e.2 e.1).toNat).getD 0

/-- A data row's payload joins the port's stream: polarity, lane order, scrambler, striping (R250); then its frames are taken. -/
def takeRow (p : Nat) (row : List (BitVec 256)) (s : State) : State :=
  let r := scrambleRow (s.link p).rxScr ((s.port p).byLane row)
  let s := s.setLink p fun l => { l with rx := l.rx ++ bytesOfLanes 32 r.1, rxScr := r.2 }
  takeFrames ((s.link p).rx.length / 8 + 1) p s

/-- LANE_FRAME_INGRESS (R97): the payloads of the blocks of data rows, by data position, as they reach a port. A port carries data rows in UP and in
step 7 (R256). -/
def execLaneFrameIngress (port : Nat) (rows : List (List (BitVec 256))) (s : State) : Host.Outcome State Fault Refusal :=
  guardUnit (port < Config.ports && rows.all fun r => r.length == 8)
    (if s.portUp port ∨ ((s.port port).state = .training ∧ (s.port port).step = 7) then
       forEach rows (takeRow port) (onGroup (groupOfPort port) id s)
     else s)

/-- ALLOC_RETRY (R289): a frame that waits at the head of a VC's staging tries again; the input counts one ALLOC_STALL for a slot in which it
goes on waiting. -/
def execAllocRetry (input vc : Nat) (s : State) : Host.Outcome State Fault Refusal :=
  guardUnit (input < Config.xports && vc < 8) (if s.xbar.stopped then s else askCells input vc s)

/-! ### Cell slots (R203-R205) -/

/-- Cells a crossbar port moves in cell slot `n`: Table 9.1, three quarters of it in three-slice mode (R202), a fraction spread
over the slots. -/
def slotCap (three : Bool) (n c : Nat) : Nat :=
  let q := if c < 128 then 16 else if c < 158 then 40 else 4
  let q := if three then q * 3 / 4 else q
  q * (n + 1) / 8 - q * n / 8

/-- A cell slot's bookkeeping: cells moved so far by input and by output. -/
structure SlotUse where
  ins : List Nat := List.replicate Config.xports 0
  outs : List Nat := List.replicate Config.xports 0

def SlotUse.take (i o : Nat) (u : SlotUse) : SlotUse := { ins := u.ins.modify i (· + 1), outs := u.outs.modify o (· + 1) }

/-- The die group of a crossbar port. -/
def groupOfXport (c : Nat) : Nat := if c < 128 then groupOfPort c else if c < 158 then groupOfDie (c - 128) else groupM

/-- The head frame of a VC of an input moves one cell into the buffer; after its last cell it leaves staging (R203, R205). -/
def moveCell (i vc : Nat) (s : State) : State :=
  match (s.xbar.input i).headOf vc with
  | none => s
  | some (idx, st) =>
    match st.record with
    | none => s
    | some id =>
      let st2 := { st with written := st.written + 1 }
      let whole : Bool := st2.written ≥ st2.cells
      let s := s.setXbar fun x =>
        let inp := x.input i
        (Xbar.setRecord id (fun r => { r with written := st2.written }) x).setInput i
          { inp with staging := if whole then inp.staging.eraseIdx idx else inp.staging.set idx st2 }
      returnCredits i vc (st2.returned - st.returned) s

/-- The output a staged frame names: its lowest-numbered target (R203). -/
def Staged.output (st : Staged) : Nat := st.targets.foldl min 0xFFFF

/-- Inputs with a staged frame, in rising number. -/
def State.busyInputs (s : State) : List Nat := (s.xbar.inputs.filter fun e => !e.2.staging.isEmpty).map (·.1)

/-- Standing matches (R205): one cell of each frame part-way through. -/
def standing (three : Bool) (n : Nat) (u : SlotUse) (s : State) : SlotUse × State :=
  (s.busyInputs.flatMap fun i => (List.range 8).map fun v => (i, v)).foldl (fun acc iv =>
    let (u, s) := acc
    match (s.xbar.input iv.1).headOf iv.2 with
    | none => (u, s)
    | some (_, st) =>
      let o := st.output
      if st.written > 0 ∧ u.ins.getD iv.1 0 < slotCap three n iv.1 ∧ u.outs.getD o 0 < slotCap three n o then
        (u.take iv.1 o, moveCell iv.1 iv.2 s)
      else (u, s)) (u, s)

/-- Requests of this slot as (input, output, VC): heads that hold their cells and have not begun, toward outputs below their
threshold (R203, R235, R289). -/
def State.requests (s : State) : List (Nat × Nat × Nat) :=
  s.busyInputs.flatMap fun i =>
    if !s.running (groupOfXport i) then []
    else (List.range 8).filterMap fun v =>
      match (s.xbar.input i).headOf v with
      | none => none
      | some (_, st) =>
        if st.record.isSome ∧ st.written = 0 ∧ s.charged st.output none < s.threshold st.output then some (i, st.output, v)
        else none

/-- The VC an input takes among its requests to one output (R240): VC0, else the next after the one it last took. -/
def pickVc (last : Nat) (vs : List Nat) : Nat :=
  if vs.contains 0 then 0 else ((vs.find? fun v => last < v).or vs.head?).getD 0

/-- Requests that remain, capacities used, and the state, within a slot. -/
abbrev Matching := List (Nat × Nat × Nat) × SlotUse × State

/-- Input `i` accepts a grant of output `o`: one cell of the VC that comes first (R240). The pointers move on acceptances of the first iteration. -/
def acceptOne (first : Bool) (i o : Nat) (m : Matching) : Matching :=
  let (reqs, u, s) := m
  let inp := s.xbar.input i
  let v := pickVc ((tget o inp.lastVc).getD 0) ((reqs.filter fun r => r.1 = i ∧ r.2.1 = o).map (·.2.2))
  let inp := { inp with lastVc := if v = 0 then inp.lastVc else tset o v inp.lastVc
                        accept := if first then (o + 1) % Config.xports else inp.accept }
  let s := s.setXbar fun x =>
    let x := x.setInput i inp
    if first then { x with grants := tset o ((i + 1) % Config.xports) x.grants } else x
  (reqs.filter (fun r => r ≠ (i, o, v)), u.take i o, moveCell i v s)

/-- The accept step of one input (R204): k counts from the pointer a[i] as it stands at each k. -/
def acceptInput (three : Bool) (n : Nat) (first : Bool) (granted : List (Nat × Nat)) (i : Nat) (m : Matching) : Matching :=
  (List.range Config.xports).foldl (fun m k =>
    let o := ((m.2.2.xbar.input i).accept + k) % Config.xports
    if granted.contains (o, i) ∧ m.1.any (fun r => r.1 = i ∧ r.2.1 = o) ∧ m.2.1.ins.getD i 0 < slotCap three n i ∧
        m.2.1.outs.getD o 0 < slotCap three n o then acceptOne first i o m else m) m

/-- One iteration of grant and accept (R204). The grant step lowers no capacity, so every output with capacity grants every requesting input
that has some, whatever its pointer g[o]. -/
def matchOnce (three : Bool) (n : Nat) (first : Bool) (m : Matching) : Matching :=
  let granted := (m.1.filter fun r => m.2.1.ins.getD r.1 0 < slotCap three n r.1 && m.2.1.outs.getD r.2.1 0 < slotCap three n r.2.1).map
    fun r => (r.2.1, r.1)
  (granted.map (·.2)).eraseDups.mergeSort.foldl (fun m i => acceptInput three n first granted i m) m

/-- A slot of the crossbar: standing matches, two iterations, the allocations of the frames that wait, the credits held back, and at its end the
cells freed in it (R204, R205, R232, R289, R291). -/
def crossbarSlot (s : State) : State :=
  let three := s.xbar.threeSlice
  let n := s.xbar.slots
  let s := forEach (s.busyInputs.map groupOfXport).eraseDups wakeGroup s
  let (u, s) := standing three n {} s
  let (_, _, s) := matchOnce three n false (matchOnce three n true (s.requests, u, s))
  (returnSlot n (allocSlot s)).setXbar fun x => settleFreed { x with slots := n + 1 }

/-- CELL_SLOT (R204): one slot of the crossbar, and one row of every port (R249). -/
def execCellSlot (s : State) : Host.Outcome State Fault Refusal :=
  .next (sendRows (if s.xbar.stopped then s else onGroup groupX crossbarSlot s))

/-! ### Outputs -/

/-- The header of a stub: PAYLOAD_LEN set to zero, which only types 0x1 to 0x7 have (R18, R208, log 91). -/
def stubHeader (h : BitVec 256) : BitVec 256 := if bitsAt h.toNat 0 4 ≤ 7 then withBits h 173 13 0 else h

/-- An echo owed on a port rides on a frame that starts within 1 µs (R237). -/
def takeEcho (o : Nat) (s : State) : Bool × State :=
  match (s.link o).echoOwed with
  | some at_ => if o < 128 ∧ s.clock ≤ at_ + 1000 then (true, s.setLink o fun l => { l with echoOwed := none }) else (false, s)
  | none => (false, s)

/-- Begins the head descriptor of queue `q` on output `o` (R206, R208, R230, R238). CE is the echo this port owes, but for a mirror copy, whose
header goes unchanged (R216, R237). -/
def beginCopy (o q : Nat) (d : Desc) (r : FrameRec) (s : State) : State :=
  let stub := r.marked
  let (echo, s) := if d.mirror then (r.frame.ce, s) else takeEcho o s
  let h := if stub then stubHeader r.frame.header else r.frame.header
  let h := withHcrc (withBits h 8 1 (if echo then 1 else 0))
  let s := s.setXbar fun x =>
    let rest := (x.queue q).descs.drop 1
    let x := x.setQueue q { descs := rest, deficit := if rest.isEmpty then 0 else (x.queue q).deficit }
    x.setOutput o { x.output o with sending := some { queue := q, desc := d, stub := stub, taint := stub, header := h } }
  if o ≥ 128 then s
  else
    let s := if stub then s.bump Counter.taintStub o else s
    let vc := queueVc q
    s.setLink o fun l =>
      { l with
        sentCells := l.sentCells.modify vc (· + creditsOf (if stub then 0 else r.frame.payload.length)),
        bucket := if spraysByFrame vc then l.tokens s.clock - copyBytes r else l.bucket,
        bucketAt := if spraysByFrame vc then s.clock else l.bucketAt }

/-- OUTPUT_FRAME_START (R240). -/
def execOutputFrameStart (output : Nat) (s : State) : Host.Outcome State Fault Refusal :=
  guardUnit (output < Config.xports)
    (if (s.xbar.output output).sending.isSome ∨ s.xbar.stopped then s
     else
       match chooseQueue s output with
       | none => s
       | some (q, x) =>
         match (s.xbar.queue q).descs.head? with
         | none => s
         | some d =>
           match s.xbar.record d.record with
           | none => s
           | some r => onGroup (groupOfXport output) (fun s => beginCopy output q d r { s with xbar := x }) s)

/-- Targets that a frame marked bad at output `o` reaches tainted: `o`, and the external outputs that have not begun it. -/
def taintedTargets (s : State) (o id : Nat) : List Nat :=
  o :: ((s.xbar.queues.filter fun e => queuePort e.1 < 128 ∧ e.2.descs.any fun d => d.record = id ∧ !d.mirror).map fun e => queuePort e.1)

/-- A cell quarter on crossbar die `k` reads uncorrectable: the copy and the stored frame become tainted, one XBAR_ERR counts, and a
result or serve chain is reported by this part (R209, R110). -/
def cellError (o k : Nat) (sd : Sending) (s : State) : State :=
  match s.xbar.record sd.desc.record with
  | none => s
  | some r =>
    let s := if r.errCounted then s else s.bump Counter.xbarErr k
    let fresh := !r.taint
    let targets := taintedTargets s o r.id
    let s := s.setXbar fun x =>
      (Xbar.setRecord r.id (fun r => { r with taint := true, errCounted := true }) x).setOutput o
        { x.output o with sending := some { sd with taint := true } }
    if fresh ∧ !sd.desc.mirror ∧ o < 128 ∧ (r.frame.type = 5 ∨ (r.frame.type = 6 ∧ !r.frame.isRequest)) then
      loseChain r.frame o targets s
    else s

/-- The copy as it leaves its output. -/
def copyFrame (sd : Sending) (r : FrameRec) : Frame :=
  let f : Frame := { header := sd.header, payload := if sd.stub then [] else r.frame.payload, trailer := r.frame.trailer }
  if sd.taint then setTaint f else f

/-- The last byte of a copy has been sent (R212): out of its port, to a lane chiplet's egress resequencer (R220), or to the die
behind an internal output. -/
def finishCopy (o : Nat) (sd : Sending) (r : FrameRec) (s : State) : State :=
  let f := copyFrame sd r
  let s := s.setXbar fun x => x.setOutput o { x.output o with sending := none }
  let rx : Rx := { frame := f, port := r.port, record := some r.id, handed := r.handed }
  if o < 128 then
    let s := if s.endpointPort o ∧ !sd.desc.mirror then oweEcho f r.port s else s
    if queueVc sd.queue = 7 ∧ s.endpointPort o then
      s.setReseq (31 + o / 4) fun q => { q with arrivals := q.arrivals ++ [{ rx with port := o }] }
    else releaseRef r.id (sendOut o f s)
  else
    let place := o - 128
    if r.handed then deliverRx place rx s else s.setReseq place fun q => { q with arrivals := q.arrivals ++ [rx] }

/-- OUTPUT_FRAME_END (R212): the copy's frame must be whole in the buffer; `readError` names the crossbar die whose read of a cell
quarter was uncorrectable (R209, log 10). -/
def execOutputFrameEnd (output : Nat) (readError : Option Nat) (s : State) : Host.Outcome State Fault Refusal :=
  guardUnit (output < Config.xports && readError.all (· < 4))
    (match (s.xbar.output output).sending with
     | none => s
     | some sd =>
       match s.xbar.record sd.desc.record with
       | none => s
       | some r =>
         if r.written < r.cells then s
         else
           let s := match readError with
             | some k => cellError output k sd s
             | none => s
           let sd := ((s.xbar.output output).sending).getD sd
           settleBroadcasts (finishCopy output sd r s))

/-! ### Timers of the switch core -/

/-- EPOCH_DRAINED (R223). -/
def execEpochDrained (s : State) : Host.Outcome State Fault Refusal :=
  .next (s.setRoutes fun r => if r.prevOrdered = 0 ∧ r.prevOther = 0 then { r with previous := [] } else r)

/-- Ports that share an eligible set with a port: in one bearing of a parcel's current phase plat, or in one destination entry
without MCAST (R233). -/
def State.setMates (s : State) (p : Nat) : List Nat :=
  (List.range 128).filter fun q => q ≠ p ∧
    ((s.parcels.any fun e => (e.2.phases.getD e.2.selected {}).bearings.any fun b => b.ports.getLsbD p && b.ports.getLsbD q) ||
     s.routes.current.any fun e => e.2.valid && !e.2.mcast && e.2.ports.getLsbD p && e.2.ports.getLsbD q)

/-- A port joins its eligible sets: it waits for the unsequenced frames queued on the sets' other ports (R234). -/
def startJoin (p : Nat) (s : State) : State :=
  let mates := s.setMates p
  let ahead := s.xbar.queues.flatMap fun e =>
    if mates.contains (queuePort e.1) ∧ queuePort e.1 < 128 ∧ !spraysByFrame (queueVc e.1) then e.2.descs.map fun d => (e.1, d) else []
  s.setXbar fun x => { x with joining := tdel p x.joining ++ (if ahead.isEmpty then [] else [(p, ahead)]) }

/-- Ports that have come into an eligible set by a route commit or a phase plat switch join it (R234). -/
def joinNew (old s : State) : State :=
  forEach ((List.range 128).filter s.portUp) (fun p s =>
    let before := old.setMates p
    if (s.setMates p).all fun q => before.contains q then s else startJoin p s) s

/-- A queued descriptor is still there, or its copy is being sent. -/
def State.descWaits (s : State) (e : Nat × Desc) : Bool :=
  (s.xbar.queue e.1).descs.contains e.2 ||
  (match (s.xbar.output (queuePort e.1)).sending with
   | some sd => sd.queue == e.1 && sd.desc == e.2
   | none => false)

/-- SPRAY_JOIN (R234). -/
def execSprayJoin (port : Nat) (s : State) : Host.Outcome State Fault Refusal :=
  guardUnit (port < Config.ports)
    (match tget port s.xbar.joining with
     | none => s
     | some ahead => if ahead.any s.descWaits then s else s.setXbar fun x => { x with joining := tdel port x.joining })

/-- DESCRIPTOR_AGE_DROP (R244): the head descriptor of an external queue after 10 ms. -/
def execDescriptorAgeDrop (queue : Nat) (s : State) : Host.Outcome State Fault Refusal :=
  guardUnit (queue < 262144 + 8 * 31)
    (match (s.xbar.queue queue).descs with
     | [] => s
     | d :: rest =>
       if queue ≥ 262144 then s
       else
         let s := s.reach (d.at_ + 10000000)
         let s := s.setXbar fun x => x.setQueue queue
           { descs := rest, deficit := if rest.isEmpty then 0 else (x.queue queue).deficit }
         settleBroadcasts (releaseRef d.record (s.bump Counter.ageDrop (queuePort queue))))

/-- T(o) of every output, from the free cells and the weights (R235); 4,096 where no weight is active (log 30). -/
def newThresholds (s : State) : List (Nat × Nat) :=
  let ws : List (Nat × Nat) :=
    ((s.xbar.queues.map fun e => queuePort e.1).eraseDups.mergeSort).map fun o => (o, outputWeight s o)
  let all : Nat := ws.foldl (fun a e => a + e.2) 0
  ws.filterMap fun (e : Nat × Nat) => if all = 0 ∨ e.2 = 0 then none else some (e.1, 4096 + s.xbar.freeCells * e.2 / (2 * all))

/-- BUFFER_THRESHOLD_UPDATE (R235): once a microsecond. -/
def execBufferThresholdUpdate (s : State) : Host.Outcome State Fault Refusal :=
  let s := s.reach (s.xbar.thresholdsAt + 1000)
  .next (s.setXbar fun x => { x with thresholds := newThresholds s, thresholdsAt := s.clock })

/-! ### Telemetry (R225) -/

/-- DIE of a counter's record (Tables 1.2, 9.8, 15.10); MD for one that no other die keeps. -/
def counterDie (s : State) (number inst : Nat) : Nat :=
  if number ≤ 0x10 then inst / 4 else if number ≤ 0x21 then inst / 36 else if number ≤ 0x34 then inst else if number = 0x40 then 0x20 + inst
  else if number = Counter.seqLost ∧ Config.pairs < inst then inst - 31
  else if number ≤ 0x5A then 0x40 + inst else if number ≤ 0x61 then 0x60 + inst / 64
  else if number ≤ 0x80 then 0x40 + s.physical (inst % Config.pairs)
  else if number = 0x93 ∨ number = 0x99 ∨ number = 0x9A then 0x82 + s.refclk.active else 0x80

/-- A telemetry record (Table 9.8). -/
def telemetryRecord (die number inst value : Nat) : Bytes :=
  leBytes 16 (packFields [(0, 8, die), (16, 16, number), (32, 32, inst), (64, 64, value)])

/-- The counters' records in order of number and instance (log 31). -/
def counterRecords (s : State) : List Bytes :=
  let le (a b : (Nat × Nat) × Nat) : Bool := a.1.1 < b.1.1 || (a.1.1 == b.1.1 && a.1.2 ≤ b.1.2)
  (s.counters.mergeSort le).map fun e => telemetryRecord (counterDie s e.1.1 e.1.2) e.1.1 e.1.2 e.2

/-- The events' records since the last period (R330). -/
def eventRecords (s : State) : List Bytes :=
  (s.book.entries.filter fun e => e.kind = 2 ∧ s.monitor.lastAt ≤ s.supply.releasedAt + e.acceptTick).map fun e =>
    telemetryRecord 0x80 (0x8000 + e.code) partWide e.acceptTick

/-- A TELEMETRY frame of MD (Table 9.7). -/
def telemetryFrame (s : State) (sub : Nat) (records : List Bytes) : Frame :=
  mkFrame [(0, 4, 10), (4, 3, 6), (48, 16, s.number), (64, 8, Config.mdPort), (72, 8, sub), (80, 16, s.monitor.collectorPart),
    (96, 8, s.monitor.collectorPort), (112, 9, records.length), (128, 64, s.telemetry)] records.flatten 0 0

/-- Sends one TELEMETRY frame toward the collector, or drops it whole where a port's VC6 credits do not allow it. -/
def sendTelemetry (sub : Nat) (records : List Bytes) (s : State) : State :=
  let f := telemetryFrame s sub records
  let (targets, s) := routeTargets Config.mdPort f s
  if targets.all fun o => o ≥ 128 ∨ mayStart (s.link o).used 6 (creditsOf f.payload.length) then
    stageFrame Config.mdPort Config.mdPort false f targets s
  else s.bump Counter.telemetryDrop partWide

/-- TELEMETRY_PERIOD (R225): a task of management core 3; none once MD has failed (R389). -/
def execTelemetryPeriod (s : State) : Host.Outcome State Fault Refusal :=
  .next (if s.monitor.periodUs = 0 ∨ !s.routes.committed ∨ s.mailbox.failed ∨ s.isHalted 0x80 3 then s
    else
      let s := s.reach (s.monitor.lastAt + 1000 * s.monitor.periodUs)
      let cs := counterRecords s
      let es := eventRecords s
      let s := forEach (chunks 256 (cs.length / 256 + 1) cs) (fun r s => if r.isEmpty then s else sendTelemetry 1 r s) s
      let s := forEach (chunks 256 (es.length / 256 + 1) es) (fun r s => if r.isEmpty then s else sendTelemetry 2 r s) s
      { s with monitor := { s.monitor with lastAt := s.clock } })

end Sys2Proof.Machine
end

