-- ==== Sys2Proof/Machine/Links.lean ====
section
/-! DEFINITION. Ports and links (11_lanes_and_ports.md): going down (R259, R260), bring-up step by step (R254-R256), the link control
word (R251, R252, R257), detectors (R258) and the rate of a transmitter (R238). -/
namespace Sys2Proof.Machine

/-- Port counters saturate at 16 bits (R262). -/
def bumpPort (number inst : Nat) (s : State) : State := s.bumpSat 65535 number inst

/-! ### Fields of an identity record (Table 11.4) -/
def identPart (r : BitVec 192) : Nat := bitsAt r.toNat 0 16
def identPort (r : BitVec 192) : Nat := bitsAt r.toNat 16 8
def identKind (r : BitVec 192) : Nat := bitsAt r.toNat 24 4
def identProto (r : BitVec 192) : Nat := bitsAt r.toNat 32 8
def identSerial (r : BitVec 192) : Nat := bitsAt r.toNat 64 64
def identNonce (r : BitVec 192) : BitVec 32 := BitVec.ofNat 32 (bitsAt r.toNat 128 32)
def identPeerNonce (r : BitVec 192) : BitVec 32 := BitVec.ofNat 32 (bitsAt r.toNat 160 32)

/-! ### Entering and leaving states -/

/-- The forwarding of the part is stopped, or the port is held: it stays in electrical idle (R21, R200, R259, R362). -/
def State.portHeld (s : State) (p : Nat) : Bool :=
  s.xbar.stopped || (s.port p).heldIdle || s.supply.inReset || s.boot.stage == .failed

/-- Physical position of the CK lane (R247). -/
def Port.ckPosition (x : Port) : Nat := if x.ckReversed then 0 else 8

/-- Physical positions of the data lanes (R247). -/
def Port.dataPositions (x : Port) : List Nat := (List.range 9).filter fun k => k ≠ x.ckPosition

/-- One position alone. -/
def onePosition (k : Nat) : BitVec 9 := BitVec.ofNat 9 (2 ^ k)

/-- A port enters step 1 at time `at_` with a fresh NONCE, which differs from the last attempt's (R254, Table 11.4, log 6). The data lanes seek
their lock anew; the CK lane regains its own (R258). -/
def enterIdleAt (at_ p : Nat) (s : State) : State :=
  let n := w32 s.drawn
  ((s.draw 1).setPort p fun x =>
    { x with state := .idle, step := 1, stepAt := at_, nonce := if n = x.nonce then n + 1 else n, ckAtZero := false
             markRuns := List.replicate 8 (none, 0), laneRuns := List.replicate 8 (0, 0), lastIdent := none, peerNonce := 0
             finalSent := false, finalRows := 0, gotRow := false, badRuns := List.replicate 8 0
             lol := x.lol &&& onePosition x.ckPosition }).setLink p fun l => { clearLink l with rxScr := scramblerSeeds }

/-- A port enters step 1 now. -/
def enterIdle (p : Nat) (s : State) : State := enterIdleAt s.clock p s

/-- A port goes to OFF, its last step kept (Table 11.5). -/
def enterOff (p : Nat) (s : State) : State := s.setPort p fun x => { x with state := .off, stepAt := s.clock }

/-- 64 rows, in which a port announces electrical idle, in ns (R259). -/
def goingIdleNs : Nat := 82

/-- The frame a port is receiving when it goes down, where its first cell has come: it is ended with TAINT, the bytes that had not come as zeros, and
counted in TRUNC_ERR; a shorter one goes (R260, log 25). -/
def truncatedFrame (l : Link) : Option Frame :=
  if l.rx.length < 256 ∨ l.skipping ∨ l.rxVoid ∨ l.awaitAck ∨ !Frame.hcrcOk (cutFrame l.rx 0) then none
  else (frontLen l.rx).map fun n => setTaint { cutFrame (l.rx ++ List.replicate n 0) n with trailer := 0 }

/-- A port leaves UP (R259, R260): its queues are flushed, what it was receiving is ended, and every generation that awaits a verdict through it is
broken (R65). It enters step 1, or OFF with its die group or RESET_N; `announce` where it first sends GOING_IDLE in 64 rows. -/
def leaveUp (p : Nat) (off announce : Bool) (s : State) : State :=
  if !s.portUp p then s
  else
    let cut := truncatedFrame (s.link p)
    let s := bumpPort Counter.linkDown p s
    let s := if off then enterOff p (s.setLink p clearLink) else enterIdleAt (if announce then s.clock + goingIdleNs else s.clock) p s
    let s := s.setLink p fun l => { l with goingIdleRows := if announce then 64 else 0 }
    let s := flushPort p s
    let s := match cut with
      | some f => admitFrame p true f (bumpPort Counter.truncErr p s)
      | none => s
    let s := s.setXbar fun x => { x with joining := tdel p x.joining }
    settleBroadcasts (breakTrees p s)

/-- A port leaves UP at once. -/
def portDown (p : Nat) (off : Bool) (s : State) : State := leaveUp p off false s

/-- A bring-up attempt fails: step and reason are recorded, and the port returns to step 1 (R254). -/
def failBringup (p reason : Nat) (s : State) : State :=
  let s := bumpPort Counter.trainFail p s
  enterIdle p (s.setPort p fun x => { x with lastFail := reason, failStep := x.step })

/-- After an identity exchange a port whose neighbour is not its bearing's PEER leaves the bearing's spray set and is counted (R190). -/
def checkPeers (p : Nat) (s : State) : State :=
  if s.neighbourKind p ≠ 1 then s
  else
    let part := s.neighbourPart p
    let wrong (b : Bearing) : Bool := b.axis != 7 && b.ports.getLsbD p && !b.excluded.getLsbD p && b.peer != part
    if s.parcels.any fun e => e.2.phases.any fun ph => ph.bearings.any wrong then
      let fix (b : Bearing) : Bearing := if wrong b then { b with excluded := b.excluded ||| BitVec.ofNat 128 (2 ^ p) } else b
      State.bump Counter.bearingPeerErr p
        { s with parcels := s.parcels.map fun e =>
            (e.1, { e.2 with phases := e.2.phases.map fun ph => { ph with bearings := ph.bearings.map fix } }) }
    else s

/-- A port enters UP (R256): RATE is full (R238), and the port joins its eligible sets (R234). -/
def enterUp (p : Nat) (s : State) : State :=
  let s := s.setPort p fun x => { x with state := .up, upTime := BitVec.ofNat 64 s.telemetry, cleanSince := s.clock }
  let s := s.setLink p fun l => { l with rate := 64, bucket := 8704, bucketAt := s.clock, decreasedAt := none, echoAt := s.clock
                                         vc2At := s.clock }
  startJoin p (checkPeers p s)

/-! ### The link control word -/

/-- Table 11.2's check and reserved bits. -/
def lcwOk (w : BitVec 88) : Bool :=
  bitsAt w.toNat 44 28 == 0 && bitsAt w.toNat 72 16 == crc16 (leBytes 9 (bitsAt w.toNat 0 72))

/-- Credits, echo, CINIT, CACK and GOING_IDLE of a valid word (R237, R252, R259). While CINIT arrives this side's CACK has 64 more rows to go; a
frame at the front of the stream when CACK comes began before it (R232). -/
def takeCredits (now w : Nat) (l : Link) : Link :=
  let vc := bitsAt w 0 8 % 8
  let total := bitsAt w 8 16
  let l := if bitAt w 41 then { clearCredits l with cackRows := 64 }
    else { l with creditIn := l.creditIn.set vc total, vc2At := if vc = 2 ∧ l.creditIn.getD 2 0 ≠ total then now else l.vc2At }
  let l := if bitAt w 40 then takeEchoIn now l else l
  let l := if bitAt w 42 then { l with cinit := false, awaitAck := false, rxVoid := l.rxVoid || (l.awaitAck && !l.rx.isEmpty) } else l
  { l with badWords := 0, goingIdleAt := if bitAt w 43 then some (l.goingIdleAt.getD now) else l.goingIdleAt }

/-- An identity slice (R257): the link, and a record that two consecutive assemblies agree on. -/
def takeSlice (w : Nat) (l : Link) : Link × Option (BitVec 192) :=
  let n := bitsAt w 0 8 % 16
  let d := bitsAt w 24 16
  if n = 0 then ({ l with slices := [(0, d)], sliceRun := 1 }, none)
  else if l.sliceRun ≠ n then ({ l with sliceRun := 0 }, none)
  else
    let l := { l with slices := l.slices ++ [(n, d)], sliceRun := n + 1 }
    if n < 15 then (l, none)
    else
      let r := BitVec.ofNat 192 ((l.slices.filter fun e => e.1 < 12).foldl (fun a e => a + e.2 <<< (16 * e.1)) 0)
      ({ l with sliceRun := 0, lastAssembly := some r }, if l.lastAssembly = some r then some r else none)

/-- A record adopted in UP, where it differs from the neighbour identity (R257): a change of SERIAL, PORT or KIND takes the port down, with
GOING_IDLE sent first (R259); a change of PART is counted; any other change is only adopted. -/
def adoptIdent (p : Nat) (r : BitVec 192) (s : State) : State :=
  let old := (s.port p).neighbour
  if r = old then s
  else if identSerial r ≠ identSerial old ∨ identPort r ≠ identPort old ∨ identKind r ≠ identKind old then leaveUp p false true s
  else
    let s := s.setPort p fun x => { x with neighbour := r }
    if identPart r ≠ identPart old then checkPeers p (bumpPort Counter.identUpdate p s) else s

/-- A link control word is discarded (R252); the 16th in a row takes the port down (R259). -/
def badWord (p : Nat) (s : State) : State :=
  let s := bumpPort Counter.lcwErr p s
  let s := s.setPort p fun x => { x with cleanSince := s.clock }
  let s := s.setLink p fun l => { l with badWords := l.badWords + 1, sliceRun := 0 }
  if (s.link p).badWords ≥ 16 then portDown p false s else s

/-- A valid link control word in UP, or in step 7, where CACK completes bring-up once the FINAL rows have gone (R256). -/
def goodWord (p w : Nat) (s : State) : State :=
  let was := s.portUp p
  let s := s.setLink p (takeCredits s.clock w)
  let (l, rec_) := takeSlice w (s.link p)
  let s := s.setLink p fun _ => l
  if !was then if bitAt w 42 ∧ 16 ≤ (s.port p).finalRows then enterUp p s else s
  else match rec_ with
    | some r => adoptIdent p r s
    | none => s

/-- A lane loses its lock: counted once; it takes a port in UP down (R258, R259). -/
def loseLock (p position : Nat) (s : State) : State :=
  if (s.port p).lol.getLsbD position then s
  else
    let s := bumpPort Counter.lolCount (9 * p + position) s
    portDown p false (s.setPort p fun x => { x with lol := x.lol ||| onePosition position, cleanSince := s.clock })

/-- The SYNC and LANE of a block at data position `k` are the mode's and the mapped lane's (R258). -/
def Port.blockOk (x : Port) (sync k : Nat) (overhead : BitVec 16) : Bool :=
  bitsAt overhead.toNat 0 2 == sync && bitsAt overhead.toNat 2 3 == x.laneAt k

/-- The blocks of one row count against each data lane's lock: four wrong ones in a row lose it (R249, R258). The overheads are upright. -/
def countBlocks (p sync : Nat) (overheads : List (BitVec 16)) (s : State) : State :=
  let x := s.port p
  let runs := (overheads.zipIdx.zip x.badRuns).map fun e => if x.blockOk sync e.1.2 e.1.1 then 0 else e.2 + 1
  let s := s.setPort p fun x => { x with badRuns := runs }
  forEach (runs.zipIdx.filter fun r => r.1 ≥ 4) (fun r => loseLock p (x.dataPositions.getD r.2 0)) s

/-- The link control word of a row, from the LCW_SLICE of each data position's lane (Table 11.1). -/
def Port.wordOf (x : Port) (overheads : List (BitVec 16)) : BitVec 88 :=
  BitVec.ofNat 88 (overheads.zipIdx.foldl (fun a e => a ||| bitsAt e.1.toNat 5 11 <<< (11 * x.laneAt e.2)) 0)

/-- LINK_CONTROL_WORD (R252): the overheads of one data row's blocks, by data position, which carry the row's word. -/
def execLinkControlWord (port : Nat) (overhead : List (BitVec 16)) (s : State) : Host.Outcome State Fault Refusal :=
  guardUnit (port < Config.ports && overhead.length == 8)
    (let x := s.port port
     if x.state = .up ∨ (x.state = .training ∧ x.step = 7) then
       let bits := overhead.zipIdx.map fun e => x.upright e.2 e.1
       let word := x.wordOf bits
       let s := countBlocks port syncData bits s
       if (s.port port).state = .idle then s
       else if lcwOk word then goodWord port word.toNat s
       else badWord port s
     else s)

/-- RATE_RECOVERY (R238): 8 µs without an echo. -/
def execRateRecovery (port : Nat) (s : State) : Host.Outcome State Fault Refusal :=
  guardUnit (port < Config.ports)
    (if !s.portUp port then s
     else
       let s := s.reach ((s.link port).echoAt + 8000)
       s.setLink port fun l => { settleBucket s.clock l with rate := min 64 (l.rate + 2), echoAt := s.clock })

/-- GOING_IDLE_EXPIRY (R259): 64 rows after a valid GOING_IDLE. -/
def execGoingIdleExpiry (port : Nat) (s : State) : Host.Outcome State Fault Refusal :=
  guardUnit (port < Config.ports)
    (match (s.link port).goingIdleAt with
     | some at_ => if s.portUp port then portDown port false (s.reach (at_ + 82)) else s
     | none => s)

/-! ### Bring-up (Table 11.3) -/

/-- A step is passed. -/
def nextStep (p step : Nat) (s : State) : State := s.setPort p fun x => { x with step := step, stepAt := s.clock }

/-- BRINGUP_IDLE_END (R254): step 1 lasts 1 ms exactly, and longer only where the port is held in idle (R261). -/
def execBringupIdleEnd (port : Nat) (s : State) : Host.Outcome State Fault Refusal :=
  guardUnit (port < Config.ports)
    (if (s.port port).state ≠ .idle ∨ s.portHeld port then s
     else nextStep port 2 ((s.reach ((s.port port).stepAt + 1000000)).setPort port fun x =>
       { x with state := .training, ckAtZero := false }))

/-- CK_WINDOW_SWITCH (R254): the next 2 ms boundary of step 2. -/
def execCkWindowSwitch (port : Nat) (s : State) : Host.Outcome State Fault Refusal :=
  guardUnit (port < Config.ports)
    (let x := s.port port
     if x.state ≠ .training ∨ x.step ≠ 2 then s
     else
       let s := s.reach (x.stepAt + ((s.clock - x.stepAt) / 2000000 + 1) * 2000000)
       s.setPort port fun x => { x with ckAtZero := !x.ckAtZero })

/-- CK_LOCK (R254): at the position now searched; a loss of lock of that lane ends (R258). -/
def execCkLock (port : Nat) (s : State) : Host.Outcome State Fault Refusal :=
  guardUnit (port < Config.ports)
    (let x := s.port port
     if x.state ≠ .training ∨ x.step ≠ 2 then s
     else nextStep port 3 (s.setPort port fun x =>
       { x with ckReversed := x.ckAtZero, lol := x.lol &&& ~~~(onePosition (if x.ckAtZero then 0 else 8)), losAt := s.clock }))

/-- LOS_CHECK_PASS (R254): 100 µs without LOS on any data position. -/
def execLosCheckPass (port : Nat) (s : State) : Host.Outcome State Fault Refusal :=
  guardUnit (port < Config.ports)
    (let x := s.port port
     if x.state ≠ .training ∨ x.step ≠ 3 ∨ x.dataPositions.any (fun k => x.los.getLsbD k) then s
     else nextStep port 4 (s.reach (max x.stepAt x.losAt + 100000)))

/-- One more block of a run. -/
def runOn {α : Type} [BEq α] (v : α) (r : α × Nat) : α × Nat := if r.1 == v then (v, r.2 + 1) else (v, 1)

/-- SYNC, LANE, TRC, marker and record of a training block (R249, R254). -/
def blockSync (b : BitVec 272) : Nat := bitsAt b.toNat 0 2
def blockLane (b : BitVec 272) : Nat := bitsAt b.toNat 2 3
def blockTrc (b : BitVec 272) : Nat := bitsAt b.toNat 5 11
def blockMarker (b : BitVec 272) : Nat := bitsAt b.toNat 16 64
def blockIdent (b : BitVec 272) : BitVec 192 := BitVec.ofNat 192 (bitsAt b.toNat 80 192)

/-- The marker arrives true, complemented, or not. -/
def markerSeen (b : BitVec 272) : Option Bool :=
  if blockMarker b = trainingMarker then some true
  else if blockMarker b = 2 ^ 64 - 1 - trainingMarker then some false
  else none

/-- A training row in step 4 (POLARITY): 64 consecutive blocks with the marker true or complemented at every position. -/
def polarityRow (p : Nat) (row : List (BitVec 272)) (s : State) : State :=
  let runs := ((s.port p).markRuns.zip row).map fun e => match markerSeen e.2 with
    | none => (none, 0)
    | some b => runOn (some b) e.1
  let s := s.setPort p fun x => { x with markRuns := runs }
  if runs.all fun r => r.2 ≥ 64 then
    let mask := (runs.zipIdx.filter fun r => r.1.1 == some false).foldl (fun a r => a + 2 ^ r.2) 0
    nextStep p 5 (s.setPort p fun x => { x with polarity := BitVec.ofNat 8 mask })
  else s

/-- A training row in step 5 (LANE_ORDER): one LANE in 64 consecutive training blocks at every position, the eight distinct. -/
def laneRow (p : Nat) (row : List (BitVec 272)) (s : State) : State :=
  let runs := ((s.port p).laneRuns.zip row).map fun e =>
    if blockSync e.2 = syncTraining then runOn (blockLane e.2) e.1 else (e.1.1, 0)
  let s := s.setPort p fun x => { x with laneRuns := runs }
  if (runs.all fun r => r.2 ≥ 64) ∧ (runs.map (·.1)).eraseDups.length = 8 then
    let map := (runs.zipIdx).foldl (fun a r => a + (r.1.1 % 8) <<< (3 * r.2)) 0
    nextStep p 6 (s.setPort p fun x => { x with laneMap := BitVec.ofNat 24 map })
  else s

/-- Rows by which TRC `a` is ahead of `b`, modulo 2,048, nearer to zero. -/
def trcAhead (a b : Nat) : Int := signedOf 11 (a + 2048 - b)

/-- The TRCs of the blocks that arrive together lie within 15 rows of one another (step 6). -/
def skewOk (row : List (BitVec 272)) : Bool :=
  row.all fun a => row.all fun b => trcAhead (blockTrc a) (blockTrc b) ≤ 15

/-- A training row in step 6 (DESKEW). From its passing on, the rows of the table are rows as the receiver has aligned them (log 90). -/
def deskewRow (p : Nat) (row : List (BitVec 272)) (s : State) : State :=
  if (row.all fun b => blockSync b = syncTraining) ∧ skewOk row then nextStep p 7 s else s

/-- The record of a training row, where every lane carries the same. -/
def rowIdent (row : List (BitVec 272)) : Option (BitVec 192) :=
  match row with
  | [] => none
  | b :: bs => if bs.all fun c => blockIdent c = blockIdent b then some (blockIdent b) else none

/-- A training row in step 7 (IDENT, R256): two consecutive rows with one record on every lane. -/
def identRow (p : Nat) (row : List (BitVec 272)) (s : State) : State :=
  let x := s.port p
  let s := s.setPort p fun x => { x with lastIdent := rowIdent row }
  match rowIdent row with
  | none => s
  | some r =>
    if x.lastIdent ≠ some r then s
    else if identProto r ≠ 1 ∨ (identKind r ≠ 1 ∧ identKind r ≠ 2) then failBringup p 7 s
    else if identSerial r = s.trust.serial.toNat ∧ identPort r = p ∧ identNonce r = x.nonce then failBringup p 8 s
    else s.setPort p fun x =>
      { x with neighbour := r, peerNonce := identNonce r, gotRow := true, finalSent := x.finalSent || identPeerNonce r = x.nonce }

/-- TRAINING_ROW (R254): the blocks of one row by data position. -/
def execTrainingRow (port : Nat) (row : List (BitVec 272)) (s : State) : Host.Outcome State Fault Refusal :=
  guardUnit (port < Config.ports && row.length == 8)
    (let x := s.port port
     let up := row.zipIdx.map fun e => x.upright e.2 e.1
     if x.state = .up then countBlocks port syncData (up.map fun b => b.truncate 16) s
     else if x.state ≠ .training then s
     else if x.step = 4 then polarityRow port row s
     else if x.step = 5 then laneRow port up s
     else if x.step = 6 then deskewRow port up s
     else if x.step = 7 then
       let s := countBlocks port syncTraining (up.map fun b => b.truncate 16) s
       identRow port up s
     else s)

/-- Limit of a step in ns, and the reason its end gives (Tables 11.3, 11.5). -/
def stepLimit : Nat → Option (Nat × Nat)
  | 2 => some (20000000, 1)
  | 3 => some (5000000, 2)
  | 4 => some (2000000, 3)
  | 5 => some (1000000, 4)
  | 6 => some (1000000, 5)
  | 7 => some (50000000, 6)
  | _ => none

/-- BRINGUP_STEP_TIMEOUT (R254). -/
def execBringupStepTimeout (port : Nat) (s : State) : Host.Outcome State Fault Refusal :=
  guardUnit (port < Config.ports)
    (let x := s.port port
     match (if x.state = .training then stepLimit x.step else none) with
     | some (limit, reason) => failBringup port reason (s.reach (x.stepAt + limit))
     | none => s)

/-! ### Detectors (R258) -/

/-- LOS_ASSERT: counted once; it takes a port in UP down (R259). -/
def execLosAssert (port position : Nat) (s : State) : Host.Outcome State Fault Refusal :=
  guardUnit (port < Config.ports && position < 9)
    (if (s.port port).los.getLsbD position then s
     else
       let s := bumpPort Counter.losCount (9 * port + position) s
       let s := s.setPort port fun x => { x with los := x.los ||| onePosition position, cleanSince := s.clock
                                                 losAt := if position = x.ckPosition then x.losAt else s.clock }
       portDown port false s)

/-- LOS_CLEAR. -/
def execLosClear (port position : Nat) (s : State) : Host.Outcome State Fault Refusal :=
  guardUnit (port < Config.ports && position < 9)
    (if (s.port port).los.getLsbD position then
       s.setPort port fun x => { x with los := x.los &&& ~~~(onePosition position), losAt := if position = x.ckPosition then x.losAt else s.clock }
     else s)

/-- LOSS_OF_LOCK. -/
def execLossOfLock (port position : Nat) (s : State) : Host.Outcome State Fault Refusal :=
  guardUnit (port < Config.ports && position < 9) (loseLock port position s)

/-- LOCK_REGAINED: the CK lane. -/
def execLockRegained (port : Nat) (s : State) : Host.Outcome State Fault Refusal :=
  guardUnit (port < Config.ports)
    (s.setPort port fun x => { x with lol := x.lol &&& ~~~(onePosition x.ckPosition) })

end Sys2Proof.Machine
end

