-- ==== Sys2Proof/Machine/Power.lean ====
section
/-! DEFINITION. Power states of the die groups (R345-R348, R350-R352), the power and thermal loops and the hardware throttle (R24, R353,
R354). -/
namespace Sys2Proof.Machine

/-! ### States and their times (Table 16.6), in ns -/
def PState.depth : PState → Nat
  | .l0 => 0
  | .l1 => 1
  | .l2 => 2
  | .l3 => 3
def PState.idleNs : PState → Nat
  | .l0 => 0
  | .l1 => 1000
  | .l2 => 20000
  | .l3 => 100000
def PState.entryNs : PState → Nat
  | .l0 => 0
  | .l1 => 50
  | .l2 => 2000
  | .l3 => 150000
def PState.exitNs : PState → Nat
  | .l0 => 0
  | .l1 => 200
  | .l2 => 5000
  | .l3 => 200000

/-- States a group may enter (Table 1.8). -/
def allowedStates (g : Nat) : List PState := if g = groupM then [] else if g = groupX then [.l1] else [.l1, .l2, .l3]

/-! ### Budgets (R349-R351) -/

/-- The budgets held for a group, with the stream each is bound to. -/
def State.budgetsOf (s : State) (g : Nat) : List Budget := s.parcels.filterMap fun e => tget g e.2.budgets

/-- R350: the state's exit time is within the group's effective budget. -/
def State.budgetAllows (s : State) (g : Nat) (st : PState) : Bool := (s.budgetsOf g).all fun b => st.exitNs ≤ b.ns

/-- I_min of a stream in ns (R351). -/
def Stream.iMin (x : Stream) : Option Nat :=
  match x.intervals with
  | [] => none
  | i :: is => some (1000 * is.foldl min i)

/-- The wake point w of a group in a state deeper than its budget permits (R351); none where a budget it exceeds has no stream to
count on. -/
def State.wakePoint (s : State) (g : Nat) (st : PState) : Option Nat :=
  let short := (s.budgetsOf g).filter fun b => b.ns < st.exitNs
  let points := short.map fun b => match b.stream with
    | some n =>
      let x := s.stream n
      if x.state = .running then x.iMin.map fun i => x.markAt + i - (10000 + st.exitNs) else none
    | none => none
  if points.any (·.isNone) then none
  else match points.filterMap id with
    | [] => none
    | p :: ps => some (ps.foldl min p)

/-- R351's four conditions for a state deeper than R350 permits, at time `now`. -/
def State.sleepAllows (s : State) (g : Nat) (st : PState) (now : Nat) : Bool :=
  match s.wakePoint g st with
  | none => false
  | some w => now + st.entryNs ≤ w && 4 * (st.entryNs + st.exitNs) ≤ w - (now + st.entryNs)

/-! ### Idleness (R346) -/

/-- Ledger dies of a group. -/
def groupDies (g : Nat) : List Nat := (List.range Config.pairs).filter fun i => groupOfDie i = g
/-- External ports of a group. -/
def groupPorts (g : Nat) : List Nat := (List.range 128).filter fun p => groupOfPort p = g

/-- A generation of traverse `t` is open, or a tally round of tally `t` has begun. -/
def State.timersOf (s : State) (t : Nat) : Bool :=
  (match s.traverse t with
   | some v => v.gens.any fun x => !x.phase.isTerminal
   | none => false) ||
  (match s.tally t with
   | some y => !y.arrived.isEmpty
   | none => false)

/-- Indices of traverses and tallies that are not FREE. -/
def State.indices (s : State) : List Nat := (s.traverses.map (·.1) ++ s.tallies.map (·.1)).eraseDups

/-- Frames in a resequencer. -/
def Reseq.busy (r : Reseq) : Bool := !r.arrivals.isEmpty || !r.inbox.isEmpty || r.flows.any fun f => !f.held.isEmpty

/-- The crossbar port has frames staged at it, queued for it or being sent. -/
def State.xportBusy (s : State) (c : Nat) : Bool :=
  !(s.xbar.input c).staging.isEmpty || (s.xbar.output c).sending.isSome ||
  s.xbar.queues.any fun e => queuePort e.1 == c && !e.2.descs.isEmpty

/-- The pairs on which a running command still has work. -/
def State.commandPairs (s : State) (e : Ending) : List Nat :=
  let of (h : Nat) : List Nat := ((s.regionAt h).map fun r => s.regionPairs r.2).getD []
  match e with
  | .ledgerLoad h .. => of h
  | .ledgerSave h .. => of h
  | .apply h .. => of h
  | .ledgerAudit h => of h
  | .basisLoad .. => s.placement.usable.filter fun i => !s.pairFailed i
  | _ => []

/-- A ledger command runs on a pair. -/
def State.commandWork (s : State) (i : Nat) : Bool := s.mailbox.running.any fun r => (s.commandPairs r.ending).contains i

/-- A generation has still to read a region of which the pair holds stripes. -/
def State.readWork (s : State) (i : Nat) : Bool :=
  s.regions.any fun e => e.2.extents.any (fun x => x.pair == i) && s.traverses.any fun v => v.2.gens.any (s.readsOwed e.1 v.2)

/-- The group has work. -/
def State.groupBusy (s : State) (g : Nat) : Bool :=
  if g < 8 then (groupPorts g).any s.xportBusy || (List.range 4).any fun k => (s.chiplets.getD (4 * g + k) {}).egress.busy
  else if g = groupX then !s.xbar.records.isEmpty || s.xbar.inputs.any fun e => !e.2.staging.isEmpty
  else if g = groupM then true
  else
    (groupDies g).any fun i =>
      s.xportBusy (Config.diePort i) || (s.die i).reseq.busy || (s.indices.any fun t => s.physical (t % Config.pairs) == i && s.timersOf t) ||
      s.commandWork i || s.readWork i ||
      s.traverses.any fun e => e.2.gens.any fun x => x.accs.any fun a => a.die == i && (a.residency == .spilling || a.residency == .filling)

/-- What keeps an idle group out of a state (R346): ports UP, or ledger state its dies hold. -/
def State.holdsL1 (s : State) (g : Nat) : Bool :=
  if g < 8 then (groupPorts g).any s.portUp
  else
    (groupDies g).any fun i =>
      s.commandWork i || !(s.die i).reseq.flows.all (·.held.isEmpty) ||
      (s.indices.any fun t => (s.physical (t % Config.pairs) == i || s.physical ((t + Config.half) % Config.pairs) == i) && s.timersOf t) ||
      s.traverses.any fun e => (e.2.kept.any fun k => k.2.2.die == i) || e.2.gens.any fun x => x.accs.any fun a => a.die == i

/-- States an idle group may enter at time `now`, shallowest first. -/
def State.enterable (s : State) (g now : Nat) : List PState :=
  (allowedStates g).filter fun st =>
    (s.group g).state.depth < st.depth && (st == .l1 || !s.holdsL1 g) && (s.budgetAllows g st || s.sleepAllows g st now)

/-! ### Entering and leaving -/

/-- A group starts its exit (R347, R352). -/
def startExit (g : Nat) (s : State) : State := wakeGroup g s

/-- A group deeper than its budget permits begins its exit at once (R352). -/
def exitIfDeep (g : Nat) (s : State) : State :=
  let x := s.group g
  let deep := (x.entering.map (·.1)).getD x.state
  if deep = .l0 ∨ s.budgetAllows g deep then s else startExit g s

/-- Firmware has started: FW_START or later. -/
def Stage.started : Stage → Bool
  | .fwStart => true
  | .ready => true
  | .mdRestart => true
  | _ => false

/-- A port of a group that powers down: out of UP as R259 has it, with GOING_IDLE, and OFF. -/
def powerDownPort (p : Nat) (s : State) : State := if s.portUp p then leaveUp p true true s else enterOff p s

/-- A port of a group that is back in L0 begins step 1, once firmware has started its lane microcontroller (R254). -/
def powerUpPort (p : Nat) (s : State) : State :=
  if (s.port p).state = .off ∧ s.boot.stage.started then enterIdle p s else s

/-! ### SRAM banks and the L3 save image (R265, R279, R282) -/

/-- Banks of a ledger die's SRAM, and the bytes of one (R279). -/
def bankCount : Nat := 640
def bankBytes : Nat := 262144

/-- The bank holds data: banks 0 and 1 the basis store, others what DBG_MEM wrote or the firmware placed (R279, R282, log 95). -/
def State.bankUsed (s : State) (die bank : Nat) : Bool :=
  bank < 2 || (s.die die).sram.any (fun e => e.1 / bankBytes == bank) || Config.bankHolds die bank

/-- First byte of the L3 save image in a stack (Table 12.2). -/
def imageBase : Nat := 35 * 2 ^ 30 + 576 * 2 ^ 20

/-- Bytes of a die's SRAM that the state gives: the copies of the basis slots, and what DBG_MEM wrote. -/
def State.sramKnown (s : State) (die : Nat) : List (Nat × Byte) :=
  (s.bases.zipIdx.flatMap fun b => if b.1.state ≠ .ready then [] else
    (List.range 32768).filterMap fun k =>
      let a := slotBytes * b.2 + k
      if (s.die die).sram.any (fun e => e.1 = a) then none else some (a, b.1.storeByte k)) ++ (s.die die).sram

/-- The SRAM of a die is written to the save image of its stack, with its check symbols (R265, R270, R282). -/
def saveSram (die : Nat) (s : State) : State :=
  let known := s.sramKnown die
  let old := s.pokes.filter fun p => !(p.1.1 = 0x60 + die && imageBase ≤ p.1.2 && p.1.2 < imageBase + 160 * 2 ^ 20)
  let s := { s with pokes := old ++ known.map fun (e : Nat × Byte) => ((0x60 + die, imageBase + e.1), e.2) }
  s.setStack die fun h => touchChecks (imageBase / 2048) 81920 true
    { h with errors := h.errors.filter fun e => !(imageBase / 2048 ≤ e.1.1 && e.1.1 < imageBase / 2048 + 81920) }

/-- The SRAM of a die is restored from the save image: whole lines, with decode. A line that does not decode loses what it held: of the basis store the
slot's copy; of the rest, records that their other copies restore, or bytes that are free from then on (R270, Table 18.2, log 95). -/
def restoreSram (die : Nat) (s : State) : State :=
  let h := s.stack die
  if h.errors.isEmpty ∧ h.deaf.isEmpty then s.setStack die (touchChecks (imageBase / 2048) 81920 false)
  else
    let first := imageBase / 2048
    let lost := ((List.range 81920).map (first + ·)).filter fun l => s.decoded die l = .lost
    let seen := ((h.errors.map (·.1.1)).eraseDups ++ lost).eraseDups.filter fun l => first ≤ l ∧ l < first + 81920
    let s := forEach seen (fun l s => decodeCount die l true s) s
    let gone (a : Nat) : Bool := lost.contains (first + a / 2048)
    let s := s.setDie die fun d => { d with sram := d.sram.filter fun e => !gone e.1 }
    forEach ((List.range 8).filter fun n => (s.bases.getD n {}).state = .ready ∧ lost.any fun l => (l - first) * 2048 / slotBytes = n) (loseStore die) s

/-- The banks of a die in a state of its group (R282, Table 12.7): those that hold data keep it in RETENTION in L2 and are saved before L3; the
others are OFF. Every bank is ON again after the exit, those that were OFF reading zero. -/
def applyBanks (st : PState) (die : Nat) (s : State) : State :=
  match st with
  | .l2 => s.setDie die fun d => { d with banks := (List.range bankCount).map fun b => (b, if s.bankUsed die b then .retention else .off) }
  | .l3 => (saveSram die s).setDie die fun d => { d with banks := (List.range bankCount).map fun b => (b, .off) }
  | _ =>
    let saved := (s.die die).banks.any (fun e => e.1 < 2 && e.2 = .off)
    let s := if saved then restoreSram die s else s
    s.setDie die fun d => { d with banks := [] }

/-- What a state does to the dies of its group (Table 16.6): banks, the check cache before self-refresh (R267), and ports. -/
def applyState (g : Nat) (st : PState) (s : State) : State :=
  let s := forEach (groupDies g) (fun i s =>
    (applyBanks st i s).setStack i fun h => if st = .l2 ∨ st = .l3 then flushChecks h else h) s
  if g < 8 then
    if st = .l2 ∨ st = .l3 then forEach (groupPorts g) powerDownPort s
    else if st = .l0 then forEach (groupPorts g) powerUpPort s
    else s
  else s

/-- POWER_STATE_ENTRY (R346, R350, R351): the deepest state whose idle time has passed, or the next one as it passes. -/
def execPowerStateEntry (group : Nat) (s : State) : Host.Outcome State Fault Refusal :=
  guardUnit (group < Config.groups)
    (let x := s.group group
     if s.groupBusy group ∨ x.entering.isSome ∨ x.exiting.isSome then s
     else
       let due := (s.enterable group s.clock).filter fun st => x.workAt + st.idleNs ≤ s.clock
       match due.getLast? with
       | some st => s.setGroup group fun x => { x with entering := some (st, s.clock) }
       | none =>
         match (allowedStates group).find? fun st => (s.enterable group (x.workAt + st.idleNs)).contains st with
         | none => s
         | some st =>
           let s := s.reach (x.workAt + st.idleNs)
           s.setGroup group fun x => { x with entering := some (st, s.clock) })

/-- POWER_STATE_ENTRY_DONE (Table 16.6). -/
def execPowerStateEntryDone (group : Nat) (s : State) : Host.Outcome State Fault Refusal :=
  guardUnit (group < Config.groups)
    (match (s.group group).entering with
     | none => s
     | some (st, at_) =>
       applyState group st ((s.reach (at_ + st.entryNs)).setGroup group fun x => { x with state := st, entering := none }))

/-- POWER_EXIT_DONE (R345, R347): reads that waited for the group go on. -/
def execPowerExitDone (group : Nat) (s : State) : Host.Outcome State Fault Refusal :=
  guardUnit (group < Config.groups)
    (match (s.group group).exiting with
     | none => s
     | some (st, at_) =>
       let s := s.reach (at_ + st.exitNs)
       emitAll (applyState group .l0 (s.setGroup group fun x => { x with state := .l0, exiting := none, workAt := s.clock })))

/-- WAKE_POINT (R351). -/
def execWakePoint (group : Nat) (s : State) : Host.Outcome State Fault Refusal :=
  guardUnit (group < Config.groups)
    (let st := (s.group group).state
     if st = .l0 ∨ s.budgetAllows group st then s
     else match s.wakePoint group st with
       | some w => startExit group (s.reach w)
       | none => s)

/-! ### Ceilings and temperature (R24, R353, R354) -/

/-- The loads a power reading lists: the die groups by number (a DG-D group's ledger dies), then the stacks of DG-D0 to DG-D9, then VDD_AON. -/
def powerLoads : Nat := 31

/-- Ceiling of a load in W (Table 1.9); the total bounds VDD_AON alone. -/
def fullCeiling (load : Nat) : Nat :=
  if load < 8 then 48 else if load = groupX then 180 else if load = groupM then 25 else if load < 30 then 60 else 1800

/-- The die group of a load; VDD_AON belongs to none. -/
def groupOfLoad (load : Nat) : Option Nat :=
  if load < Config.groups then some load else if load < 30 then some (load - Config.groups + 9) else none

/-- Die group of a die identifier (Tables 1.2, 1.8); none for TD, TB0 and TB1. -/
def groupOfDieId (d : Nat) : Option Nat :=
  if d < 0x20 then some (d / 4) else if d < 0x24 then some groupX
  else if 0x40 ≤ d ∧ d < 0x5E then some (groupOfDie (d - 0x40)) else if 0x60 ≤ d ∧ d < 0x7E then some (groupOfDie (d - 0x60))
  else if d = 0x80 then some groupM else none

/-- Loop and hardware thresholds of a die in °C (Table 16.9); the timebase and trust dies have neither. -/
def loopAtC (d : Nat) : Option Int := if (groupOfDieId d).isNone then none else if 0x60 ≤ d ∧ d < 0x7E then some 85 else some 95
def throttleAtC (d : Nat) : Option Int := (loopAtC d).map (· + 10)

/-- The readings of a group's dies. -/
def groupTemps (g : Nat) (cs : List (Nat × Int)) : List (Nat × Int) := cs.filter fun e => groupOfDieId e.1 = some g
/-- A die of the group is at or above its loop threshold. -/
def groupHot (g : Nat) (cs : List (Nat × Int)) : Bool :=
  (groupTemps g cs).any fun e => match loopAtC e.1 with
    | some t => t ≤ e.2
    | none => false
/-- Every die of the group is 3 °C below its loop threshold. -/
def groupCool (g : Nat) (cs : List (Nat × Int)) : Bool :=
  (groupTemps g cs).all fun e => match loopAtC e.1 with
    | some t => e.2 ≤ t - 3
    | none => true

/-- The thermal loop on one group, from the last readings to the new ones: 10% for each 1 ms, and a YIELD record when the ceiling leaves
its full value (R353, R393 case 5). -/
def thermalStep (g : Nat) (old new : List (Nat × Int)) (s : State) : State :=
  let x := s.group g
  if groupHot g new then
    if !groupHot g old then s.setGroup g fun x => { x with ceilingAt := s.clock }
    else if x.ceilingAt + 1000000 ≤ s.clock then
      let s := s.setGroup g fun x => { x with ceiling := x.ceiling - 1, ceilingAt := s.clock }
      if x.ceiling = 10 then yieldEvent 0 4 1 5 (2 ^ g) 0 0xFFFF s else s
    else s
  else if groupCool g new ∧ x.ceiling < 10 then
    if !groupCool g old then s.setGroup g fun x => { x with ceilingAt := s.clock }
    else if x.ceilingAt + 1000000 ≤ s.clock then s.setGroup g fun x => { x with ceiling := x.ceiling + 1, ceilingAt := s.clock }
    else s
  else s.setGroup g fun x => { x with ceilingAt := s.clock }

/-- Readings of a load over the last 1 ms, added. -/
def loadSum (load : Nat) (log : List (List Nat)) : Nat := log.foldl (fun a r => a + r.getD load 0) 0

/-- The average of a load over the last 1 ms is above its ceiling, as the thermal loop has set it for the group (R24, R353). -/
def loadOver (s : State) (log : List (List Nat)) (load : Nat) : Bool :=
  match groupOfLoad load with
  | some g => (s.group g).ceiling * fullCeiling load * log.length < 10 * loadSum load log
  | none => false

/-- The average of the whole package over the last 1 ms is above 1,800 W (R24). -/
def packageOver (log : List (List Nat)) : Bool :=
  1800 * log.length < (List.range powerLoads).foldl (fun a l => a + loadSum l log) 0

/-- The power loop on one group (R24): above a ceiling of it, or with the package above 1,800 W, injection is throttled first and the issue
rate next; below, they are released in the other order. -/
def powerStep (log : List (List Nat)) (g : Nat) (s : State) : State :=
  let above := packageOver log || (List.range powerLoads).any fun l => groupOfLoad l == some g && loadOver s log l
  s.setGroup g fun x =>
    if above then { x with issueThrottled := x.throttled, throttled := true }
    else if x.issueThrottled then { x with issueThrottled := false }
    else { x with throttled := false }

/-- Readings merged into the last ones. -/
def mergeTemps (old new : List (Nat × Int)) : List (Nat × Int) := new.foldl (fun l e => tset e.1 e.2 l) old

/-- Hardware throttles end at a reading below their threshold. -/
def coolThrottles (new : List (Nat × Int)) (s : State) : State :=
  forEach (new.filter fun e => s.supply.hotDies.contains e.1 && (match throttleAtC e.1 with
    | some t => e.2 < t
    | none => false)) (fun e s =>
      let s := { s with supply := { s.supply with hotDies := s.supply.hotDies.erase e.1 } }
      if 0x60 ≤ e.1 ∧ e.1 < 0x7E then s.setStack (e.1 - 0x60) fun h => { h with throttled := false } else s) s

/-- POWER_LOOP_TICK (R353): every 100 µs, on management core 3; not while MD has failed (R389) or the core is halted (log 108). `watts` are the readings of the loads, `celsius` those
of dies. The sensors read, and the hardware throttles end, whether or not the loop runs (R354). -/
def execPowerLoopTick (watts : List Nat) (celsius : List (Nat × Int)) (s : State) : Host.Outcome State Fault Refusal :=
  guardUnit (watts.length == powerLoads)
    (if s.mailbox.failed ∨ s.boot.stage ≠ .ready ∨ s.isHalted 0x80 3 then
       coolThrottles celsius { s with supply := { s.supply with celsius := mergeTemps s.supply.celsius celsius } }
     else
       let s := s.reach (s.supply.loopAt + 100000)
       let old := s.supply.celsius
       let new := mergeTemps old celsius
       let log := (watts :: s.supply.powerLog).take 10
       let s := { s with supply := { s.supply with celsius := new, loopAt := s.clock, powerLog := log } }
       let s := forEach (List.range Config.groups) (powerStep log) s
       let s := forEach (List.range Config.groups) (fun g => thermalStep g old new) s
       coolThrottles celsius s)

/-- HW_THROTTLE (R353, Table 16.9): a die halves its rates, a stack's controller its bandwidth. -/
def execHwThrottle (die : Nat) (s : State) : Host.Outcome State Fault Refusal :=
  guardUnit ((throttleAtC die).isSome || die == 0x81 || die == 0x82 || die == 0x83)
    (if (throttleAtC die).isNone ∨ s.supply.hotDies.contains die then s
     else
       let s := { s with supply := { s.supply with hotDies := s.supply.hotDies ++ [die] } }
       if 0x60 ≤ die ∧ die < 0x7E then s.setStack (die - 0x60) fun h => { h with throttled := true } else s)

end Sys2Proof.Machine
end

