-- ==== Sys2Proof/Machine/Losses.lean ====
section
/-! DEFINITION. Loss of a ledger pair (R386) and of the records it homes (R16, R128), the declaration of pseudo-channels (R271), and what the decode of a
line costs, by content (R269, R379-R382). -/
namespace Sys2Proof.Machine

/-! ### Frames on their way to a die -/

/-- A queue's descriptors are discarded without a count. -/
def emptyQueues (o : Nat) (s : State) : State :=
  forEach (s.xbar.queues.filter fun e => queuePort e.1 = o) (fun e s =>
    forEach e.2.descs (fun d => releaseRef d.record) (s.setXbar (Xbar.setQueue e.1 {}))) s

/-- Staged frames that have not their cells yet lose one target; one left without a target is dropped. -/
def dropTarget (o : Nat) (s : State) : State :=
  forEach (s.xbar.inputs.map (·.1)) (fun i s =>
    let hit (st : Staged) : Bool := st.record.isNone && st.targets.contains o
    let gone := (s.xbar.input i).staging.filter fun st => hit st ∧ st.targets = [o]
    let s := s.setXbar fun x => x.setInput i { x.input i with
      staging := ((x.input i).staging.filter fun st => !(hit st && st.targets == [o])).map fun st =>
        if hit st then { st with targets := st.targets.filter (· ≠ o) } else st }
    forEach gone (fun st s =>
      returnCredits i st.vc (creditsOf st.frame.payload.length) (flightDown st.frame.epoch (orderedVc st.vc) s)) s) s

/-- Everything a resequencer holds is dropped; each frame counts in SEQ_LOST where `count` (R201, Table 18.2). -/
def dropReseq (place : Nat) (count : Bool) (s : State) : State :=
  let r := s.reseqAt place
  let all := r.arrivals ++ r.flows.flatMap fun f => f.held.map (·.rx)
  let s := s.setReseq place fun r => { r with arrivals := [], flows := [] }
  forEach all (fun rx s => dropRx rx (if count ∧ place < Config.pairs then s.bump Counter.seqLost place else s)) s

/-- The die that takes up the sequencing of a failed one, at index (l + 15) mod 30, has the failed die's flows as unsynchronised: one it knew by the
same key loses its place (R218). Frames it holds of such a flow count from the first of them (R106). -/
def unsyncFlows (i : Nat) (s : State) : State :=
  let keys := (s.die i).reseq.flows.map fun f => (f.srcPart, f.srcPort, f.flow)
  let loose (f : Flow) : Flow :=
    if keys.contains (f.srcPart, f.srcPort, f.flow) then { f with x := none, h0 := ((f.held.head?).map (·.seq)).getD 0 } else f
  let takers := ((List.range Config.pairs).filter fun l => s.base l = i).map fun l => s.base (l + Config.half)
  forEach takers.eraseDups (fun j => State.setDie j fun d =>
    { d with reseq := { d.reseq with flows := d.reseq.flows.map loose } }) s

/-- Frames in flight to a ledger die are dropped (R386 step 1). -/
def dropDieFrames (i : Nat) (s : State) : State :=
  let o := Config.diePort i
  let s := unsyncFlows i s
  let s := dropTarget o (emptyQueues o s)
  let s := match (s.xbar.output o).sending with
    | some sd => releaseRef sd.desc.record (s.setXbar fun x => x.setOutput o { x.output o with sending := none })
    | none => s
  (dropReseq i false s).setReseq i fun r => { r with inbox := [] }

/-! ### A failed pair (R386) -/

/-- Open generations with an accumulator on a pair, with the lowest such chain. -/
def State.gensOn (s : State) (pair : Nat) : List (Nat × BitVec 32 × Nat) :=
  s.traverses.flatMap fun e => e.2.gens.filterMap fun x =>
    match (x.accs.filter fun a => a.die = pair).map (·.chain) with
    | [] => none
    | ch :: chs => if x.isOpen then some (e.1, x.gen, chs.foldl min ch) else none

/-- Stripes of an array that no working pair holds any more. -/
def State.orphanStripes (s : State) (r : Region) (a : Nat) : List Nat :=
  (List.range r.stripes).filter fun st => (s.copiesOf r a st).isEmpty && !r.lost.contains (a, st)

/-- What a failed pair costs a region: lost stripes (step 3), pending stripes and norm partials (step 4). -/
def regionLoss (pair slot : Nat) (s : State) : State :=
  match tget slot s.regions with
  | none => s
  | some r =>
    let lost := (r.arrays.map (·.1)).filter (· ≤ 3) |>.flatMap fun a => (s.orphanStripes r a).map fun st => (a, st)
    let hurt (a : Nat) (o : Option Slot) : Option Slot := o.map fun p =>
      { p with lostStripes := (p.lostStripes ++ s.orphanStripes r a).eraseDups
               lostNorm := p.lostNorm || (tget pair p.norms).isSome, norms := tdel pair p.norms }
    let s := s.setRegion slot fun r =>
      { r with lost := r.lost ++ lost, isLost := r.isLost || !lost.isEmpty, slot0 := hurt 4 r.slot0, slot1 := hurt 5 r.slot1 }
    if lost.isEmpty then s else lostEvent slot r (lost.map (·.2)).eraseDups.length 1 s

/-! ### Records whose home and copy have both failed (R16, R128, Table 18.2; log 97) -/

/-- No working pair holds the records of a logical index: their home pair and the pair of their copy have failed. -/
def State.homeless (s : State) (l : Nat) : Bool := s.pairFailed (s.base l) && s.pairFailed (s.base (l + Config.half))

/-- A traverse whose record is lost: every open generation aborts with cause LEDGER_LOST, and the traverse is FREE. -/
def loseTraverse (t : Nat) (s : State) : State :=
  match s.traverse t with
  | none => s
  | some v =>
    let s := forEach v.gens (fun x s => abortGen t x.gen 8 0xFF noChain s) s
    let s := forEach v.gens (fun x s => freeAccs t x.gen s) s
    freeTraverse t s

/-- A tally whose record is lost: an open round is released with the record of cause LEDGER_LOST, and the tally is FREE. -/
def loseTally (t : Nat) (s : State) : State :=
  match s.tally t with
  | none => s
  | some y =>
    let r : AbortRec := { gen := y.round, traverse := t, cause := 8, part := s.number }
    let s := if y.arrived.isEmpty then s else sendControl 0 8 t y.round 0 0 (releasePayload 8 (some r)) y.ports s
    { s with tallies := tdel t s.tallies }

/-- A region whose record is lost is LOST in every stripe. -/
def loseRegion (slot : Nat) (s : State) : State :=
  match tget slot s.regions with
  | none => s
  | some r =>
    let all := r.loadable.flatMap fun a => (List.range r.stripes).map fun st => (a, st)
    let new := all.filter fun e => !r.lost.contains e
    if new.isEmpty then s
    else lostEvent slot r (new.map (·.2)).eraseDups.length 1
      (s.setRegion slot fun r => { r with lost := r.lost ++ new, isLost := true })

/-- Every record that the failure of a pair leaves without a home. -/
def loseRecords (s : State) : State :=
  let gone (l : Nat) : Bool := s.homeless (l % Config.pairs)
  let ts := (s.traverses.map (·.1)).filter gone
  let ys := (s.tallies.map (·.1)).filter gone
  let rs := (s.regions.map (·.1)).filter gone
  forEach rs loseRegion (forEach ys loseTally (forEach ts loseTraverse s))

/-- What the journal pairs hold beside the field book, the hand-over record and the verified copy, is gone once both have failed (R17, R364, R367). -/
def loseJournal (s : State) : State :=
  if s.pairFailed s.placement.journal0 ∧ s.pairFailed s.placement.journal1 then
    { s with boot := { s.boot with verified := [], handoverRecord := 0 } }
  else s

/-- A ledger pair is declared failed: 1 heartbeat, 2 watchdog, 3 pseudo-channels, 4 stack silent (R386). The die sends nothing any
more: the verdicts of step 1 leave from the homes of step 2 (log 74). -/
def failPair (pair cause : Nat) (s : State) : State :=
  if s.pairFailed pair then s
  else
    let gens := s.gensOn pair
    let lostBefore := (s.regions.filter fun e => e.2.isLost).length
    let single := (s.regions.filter fun e => e.2.mirror ∧ e.2.extents.any fun x => x.pair = pair ∧ x.array ≤ 2).length
    let s := s.setDie pair fun d => { d with failed := true }
    let s := forEach gens (fun g s => abortGen g.1 g.2.1 8 0xFF g.2.2 s) s
    let s := { s with traverses := s.traverses.map fun e => (e.1, { e.2 with
      kept := e.2.kept.filter fun k => k.2.2.die ≠ pair
      gens := e.2.gens.map fun x => { x with accs := x.accs.filter fun a => a.die ≠ pair } }) }
    let s := settleBroadcasts (dropDieFrames pair s)
    let s := s.setStack pair fun h => { h with silent := h.silent || cause == 4 }
    let s := loseJournal (loseRecords (forEach (s.regions.map (·.1)) (regionLoss pair) s))
    let lostRegions := (s.regions.filter fun e => e.2.isLost).length - lostBefore
    let s := journalEvent 0x05 0xFFFF [(64, 1, pair), (65, 1, cause), (68, 4, lostRegions), (72, 4, single), (76, 4, gens.length)] s
    let s := if s.placement.journal0 = pair ∧ s.book.copy0 then
        journalEvent 0x0C 0xFFFF [(64, 1, 0x60 + pair)] { s with book := { s.book with copy0 := false } } else s
    if s.placement.journal1 = pair ∧ s.book.copy1 then
      journalEvent 0x0C 0xFFFF [(64, 1, 0x60 + pair)] { s with book := { s.book with copy1 := false } } else s

/-! ### Pseudo-channels (R271, R272) -/

/-- A pseudo-channel is declared failing: 1 reset test or silence, 2 uncorrectable, 3 correction rate; the ninth fails the pair. -/
def declareChannel (stack pch cause : Nat) (s : State) : State :=
  let h := s.stack stack
  if h.declared.contains pch ∨ s.pairFailed stack then s
  else if h.declared.length ≥ 8 then failPair stack 3 s
  else journalEvent 0x06 0xFFFF [(64, 1, 0x60 + stack), (65, 1, pch), (66, 1, cause)]
    (s.setStack stack fun h => { h with declared := h.declared ++ [pch] })

/-- The declarations that the findings of a stack call for (R271, log 94). -/
def declareDue (stack : Nat) (s : State) : State :=
  forEach (s.stack stack).failing (fun e s => declareChannel stack e.1 e.2 s) (s.setStack stack fun h => { h with failing := [] })

/-! ### An uncorrectable line, by content (Table 18.2) -/

/-- Owner of a spilled line: traverse, generation, and chain, whether the generation is open or its accumulator is kept. -/
def State.spillOwner (s : State) (stack line : Nat) : Option (Nat × BitVec 32 × Nat) :=
  s.traverses.findSome? fun e =>
    (e.2.gens.findSome? fun x => x.accs.findSome? fun a =>
      if a.die = stack ∧ a.spilled.contains line then some (e.1, x.gen, a.chain) else none).or
    (e.2.kept.findSome? fun k => if k.2.2.die = stack ∧ k.2.2.spilled.contains line then some (e.1, k.1, k.2.2.chain) else none)

/-- A COMPLETE generation keeps a chain no longer. -/
def forgetKept (t : Nat) (g : BitVec 32) (ch : Nat) (s : State) : State :=
  match s.traverse t with
  | none => s
  | some v =>
    let (gone, kept) := v.kept.partition fun k => k.1 = g ∧ k.2.2.chain = ch
    forEach gone (fun k s => freeAcc k.2.2 s) (s.setTraverse t fun v => { v with kept := kept })

/-- A chain whose accumulator is lost: its generation aborts with cause POISON; one already COMPLETE keeps it no longer (Table 18.2). -/
def loseAcc (t : Nat) (g : BitVec 32) (ch : Nat) (s : State) : State := abortGen t g 3 0xFF ch (forgetKept t g ch s)

/-- What a stack's system area holds in a line is lost: of the field book, the entries (R316); of the firmware data area, the hand-over record (R368)
or the verified copy; of the L3 save image, what the bank restores from it (R270). -/
def loseSystem (stack line : Nat) (s : State) : State :=
  let addr := 2048 * line
  if s.isJournal stack ∧ 34 * 2 ^ 30 ≤ addr ∧ addr < 35 * 2 ^ 30 then
    let seqs := (s.book.entries.filter fun e => bookAt e.seq / 2048 = line).map (·.seq)
    { s with book := loseEntries (stack != s.placement.journal0) seqs s.book }
  else { s with pokes := s.pokes.filter fun p => !(p.1.1 = 0x60 + stack && p.1.2 / 2048 = line) }

/-- A line does not decode. -/
def loseLine (stack line : Nat) (s : State) : State :=
  let addr := 2048 * line
  match s.unitAt stack addr with
  | some (slot, u) => damagedUnit slot u s
  | none =>
    match s.spillOwner stack line with
    | some (t, g, ch) => loseAcc t g ch s
    | none => if s.allocEnd stack ≤ addr then loseSystem stack line s else freeRange stack addr 2048 s

/-- A whole-line decode by the scrub, an audit or a map-out copy: what it finds is counted and handled, and a corrected line is written back
(R266, R268, R269, R380, log 10). -/
def decodeLine (stack line : Nat) (s : State) : State :=
  let lost := s.decoded stack line = .lost
  let s := decodeCount stack line true s
  declareDue stack (if lost then loseLine stack line s else s)

end Sys2Proof.Machine
end

