-- ==== Sys2Proof/Machine/Memories.lean ====
section
/-! DEFINITION. The rows of the memories: spill and fill (R283-R285), scatter adds (R162, R275-R277), patrol scrub (R268), map-out
(R273, R274), zeroing (R372) and the two audits (R294-R296, R384). -/
namespace Sys2Proof.Machine

/-! ### Spill and fill -/

/-- An accumulator of a generation, open or kept, changed. -/
def setAcc (t : Nat) (g : BitVec 32) (ch : Nat) (f : Acc → Acc) (s : State) : State :=
  s.setTraverse t fun v =>
    { v with gens := v.gens.map fun x => if x.gen = g then { x with accs := x.accs.map fun a => if a.chain = ch then f a else a } else x
             kept := v.kept.map fun k => if k.1 = g ∧ k.2.2.chain = ch then (k.1, k.2.1, f k.2.2) else k }

/-- Accumulators in SRAM of a die, as (traverse, generation, accumulator). What a PERMUTE keeps of a chain it has written is a mark, and no
accumulator. -/
def State.sramAccs (s : State) (die : Nat) : List (Nat × BitVec 32 × Acc) :=
  (s.traverses.flatMap fun e => (e.2.gens.flatMap fun x =>
    (x.accs.filter fun a => !((e.2.ctxAt x.gen).kind == .permute && a.done)).map fun a => (e.1, x.gen, a)) ++
    e.2.kept.map fun k => (e.1, k.1, k.2.2)).filter fun c => c.2.2.die = die ∧ c.2.2.residency = .sram

/-- The least recently added of some chains. -/
def oldestAcc : List (Nat × BitVec 32 × Acc) → Option (Nat × BitVec 32 × Acc)
  | [] => none
  | c :: cs => some (cs.foldl (fun m d => if d.2.2.addedAt < m.2.2.addedAt then d else m) c)

/-- Which of some chains a die spills first: completed chains, oldest completion first, then the least recently added (R283). -/
def firstSpill (l : List (Nat × BitVec 32 × Acc)) : Option (Nat × BitVec 32 × Acc) :=
  (oldestAcc (l.filter fun c => c.2.2.done)).or (oldestAcc l)

/-- The chain a die spills next (R283). -/
def State.spillChoice (s : State) (die : Nat) : Option (Nat × BitVec 32 × Acc) := firstSpill (s.sramAccs die)

/-- The first chain in the order of spilling whose generation can still abort. -/
def State.spillVictim (s : State) (die : Nat) : Option (Nat × BitVec 32 × Acc) :=
  firstSpill ((s.sramAccs die).filter fun c => (s.genOf c.1 c.2.1).any Gen.isOpen)

/-- Lines an accumulator takes: 16-byte LX96 slots, or the bytes of its FP or raw values. -/
def State.accLines (s : State) (t : Nat) (g : BitVec 32) : Nat :=
  match s.traverse t with
  | some v => (16 * s.elems t g (v.ctxAt g) + 2047) / 2048
  | none => 0

/-- Takes `n` free zeroed lines of a stack, lowest first; none where they do not fit (R283, R372). -/
def takeLines (s : State) (pair : Nat) : Nat → List Nat → Option (List Nat)
  | 0, ls => some ls
  | n + 1, ls =>
    let taken := s.reserved pair ++ s.unzeroedBytes pair ++ ls.map fun l => (2048 * l, 2048)
    match firstFit taken 2048 (s.allocEnd pair) with
    | some b => takeLines s pair n (ls ++ [b / 2048])
    | none => none

/-- SPILL_START (R283): the die's accumulator banks have passed 90% use. Where no space remains the generation aborts with cause NO_SPACE; a COMPLETE
one cannot, so that the first in the order of spilling that can does (DESIGN CHOICE, log 98). -/
def execSpillStart (die : Nat) (s : State) : Host.Outcome State Fault Refusal :=
  guardUnit (die < Config.pairs)
    (onDie die (fun s =>
      match s.spillChoice die with
      | none => s
      | some (t, g, a) =>
        match takeLines s die (s.accLines t g) [] with
        | none => (s.spillVictim die).elim s fun w => abortGen w.1 w.2.1 9 0xFF w.2.2.chain s
        | some ls => setAcc t g a.chain (fun a => { a with residency := .spilling, spilled := ls })
            (s.setStack die fun h => { h with spillLines := h.spillLines ++ ls })) s)

/-- SPILL_ACK (R284). -/
def execSpillAck (die traverse : Nat) (gen : BitVec 32) (chain : Nat) (s : State) : Host.Outcome State Fault Refusal :=
  guardUnit (die < Config.pairs)
    (setAcc traverse gen chain (fun a => if a.die = die ∧ a.residency = .spilling then { a with residency := .hbm } else a) s)

/-- An accumulator of a generation, open or kept. -/
def State.accOf (s : State) (t : Nat) (g : BitVec 32) (ch : Nat) : Option Acc :=
  ((s.genOf t g).bind fun x => x.acc? ch).or
    (((s.traverse t).bind fun v => v.kept.find? fun k => k.1 = g ∧ k.2.2.chain = ch).map fun k => k.2.2)

/-- FILL_DONE (R285): the fill has read and decoded every line (R268), and the HBM copy is freed; the chain goes on its way where it waited to, and
the frames that waited are added by the die's next rows. Where a line did not decode the chain is lost (Table 18.2). -/
def execFillDone (die traverse : Nat) (gen : BitVec 32) (chain : Nat) (s : State) : Host.Outcome State Fault Refusal :=
  guardUnit (die < Config.pairs)
    (match s.accOf traverse gen chain with
     | none => s
     | some a =>
       if a.die = die ∧ a.residency = .filling then
         let lost := a.spilled.any fun l => s.decoded die l = .lost
         let s := forEach a.spilled (fun l s => decodeCount die l false s) s
         if lost then declareDue die (loseAcc traverse gen chain s)
         else
           let s := setAcc traverse gen chain (fun a => { a with residency := .sram, spilled := [] }) (freeAcc a s)
           declareDue die (settleGen traverse gen s)
       else s)

/-! ### Scatter adds -/

/-- Entries as (offset, value) with their reserved and unused bits zero (Table 12.5); none otherwise. -/
def scatterEntries (vfmt : Nat) (payload : Bytes) : Option (List (Nat × Nat)) :=
  let width := if vfmt = 1 then 32 else if vfmt = 2 then 16 else 64
  let es := (chunks 16 (payload.length / 16 + 1) payload).map leNat
  if es.all fun e => bitsAt e 12 52 == 0 && bitsAt e 64 64 < 2 ^ width then some (es.map fun e => (bitsAt e 0 12, bitsAt e 64 64)) else none

/-- Table 12.6: the value format is allowed for the accumulator type. -/
def vfmtOk (accType vfmt : Nat) : Bool := if accType = 2 then vfmt == 3 else vfmt ≤ 2

/-- A value of a format as a number. -/
def scatterValue (vfmt v : Nat) : Num := (if vfmt = 0 then Fp.fp64 else if vfmt = 1 then Fp.fp32 else Fp.bf16).decode v

/-- One add to the encoding an element holds (Table 12.6). -/
def scatterAdd (r : Region) (vfmt v old : Nat) : Nat :=
  if r.accType = 0 then (Lx.sumWide [Lx.ofSlot old, Lx.ofNum r.scatterD r.scatterF (scatterValue vfmt v)]).slot
  else if r.accType = 1 then Fp.fp32.add old (Fp.fp32.put (scatterValue vfmt v))
  else (old + v) % 2 ^ 64

/-- A sector of an element reads as uncorrectable by on-die ECC, or its line is silent or poisoned (R268, R381). -/
def State.sectorLost (s : State) (r : Region) (stripe elem size : Nat) : Bool :=
  match s.locate r 3 stripe 0 with
  | none => true
  | some p =>
    let a := p.2 + elem * size
    (s.stack p.1).badSectors.contains (a / 32) || (s.stack p.1).deaf.contains (s.lineChannel p.1 (a / 2048))

/-- The checks of R276, with R381's: the region's slot and the entries to add, or none. -/
def scatterCheck (s : State) (f : Frame) : Option (Nat × Region × List (Nat × Nat)) :=
  match s.regionAt f.region, scatterEntries f.vfmt f.payload with
  | some (slot, r), some es =>
    if r.kind ≠ 4 ∨ frameParcel s f ≠ some r.parcel ∨ !reservedOk f ∨ !vfmtOk r.accType f.vfmt ∨ es.isEmpty then none
    else if f.stripe ≥ r.stripes ∨ es.any (fun e => e.1 ≥ r.elemsOf f.stripe) then none
    else
      let size := r.bits 3 / 8
      if es.any fun e => (s.readStripe r 3 f.stripe (e.1 * size) size).isNone then none else some (slot, r, es)
  | _, _ => none

/-- Adds that arrive while a LEDGER_SAVE or LEDGER_LOAD of array A of their stripe runs wait until it has finished (R278). -/
def State.addWaits (s : State) (f : Frame) : Bool :=
  s.mailbox.running.any fun r => match r.ending with
    | .ledgerLoad h 3 first n _ _ _ _ => h == f.region && first ≤ f.stripe && f.stripe < first + n
    | .ledgerSave h 3 first n _ _ _ _ => h == f.region && first ≤ f.stripe && f.stripe < first + n
    | _ => false

/-- One add (R277): a read-modify-write of a sector, whose check symbols follow (R268). -/
def addOne (stripe vfmt : Nat) (r : Region) (e : Nat × Nat) (s : State) : State :=
  let size := r.bits 3 / 8
  match s.locate r 3 stripe 0 with
  | none => s
  | some p =>
    let a := p.2 + e.1 * size
    storeSector p.1 a (leBytes size (scatterAdd r vfmt e.2 (leNat (Memory.readBytes (s.stack p.1).mem a size)))) s

/-- The sectors that an entry's read finds uncorrectable: each is treated as an uncorrectable line, and no add of the frame is applied (R268, R276). -/
def loseSectors (die slot stripe : Nat) (r : Region) (es : List (Nat × Nat)) (s : State) : State :=
  let size := r.bits 3 / 8
  forEach ((es.filter fun e => s.sectorLost r stripe e.1 size).map (·.1)) (fun e s =>
    match s.locate r 3 stripe 0 with
    | none => s
    | some p =>
      let line := (p.2 + e * size) / 2048
      let u : PoisonUnit := { array := 3, stripe := stripe, unit := e * size / max 1 (r.unitSize 3), copy := 0 }
      declareDue p.1 (damagedUnit slot u (countLost p.1 (s.lineChannel p.1 line) s))) (s.bump Counter.scatterBad die)

/-- SCATTER_ADD (R276): the frame is checked whole, then its entries are added in order (R277). -/
def execScatterAdd (die : Nat) (s : State) : Host.Outcome State Fault Refusal :=
  guardUnit (die < Config.pairs)
    (match headOf die (fun f => f.type == 11) s with
     | none => s
     | some rx =>
       if s.addWaits rx.frame then s
       else onDie die (fun s =>
         let s := takeHead die rx s
         if rx.frame.taint ∨ !Frame.crcOk rx.frame then s
         else
           match scatterCheck s rx.frame with
           | none => s.bump Counter.scatterBad die
           | some (slot, r, es) =>
             if es.any fun e => s.sectorLost r rx.frame.stripe e.1 (r.bits 3 / 8) then loseSectors die slot rx.frame.stripe r es s
             else
               let s := forEach es (addOne rx.frame.stripe rx.frame.vfmt r) s
               if r.accType = 1 then s.setRegion slot fun r => { r with addedSinceSave := true } else s) s)

/-! ### Scrub, map-out, zeroing -/

/-- What a row reports of a stack's arrays joins what is known of them: symbols that read wrong, sectors that on-die ECC gives up, and pseudo-channels
that have stopped answering, which are found failing (R266, R268, R271). -/
def noteFaults (w : ArrayFaults) (h : Hbm) : Hbm :=
  let h := addErrors w.symbols { h with badSectors := (h.badSectors ++ w.sectors).eraseDups, deaf := (h.deaf ++ w.silent).eraseDups }
  w.silent.foldl (fun h c => findFailing c 1 h) h

/-- The faults name lines, symbols, sectors and pseudo-channels that a stack has (R264, R266). -/
def faultsExist (w : ArrayFaults) : Bool :=
  (w.symbols.all fun e => e.1 < stackLines && e.2.1 < codeSymbols && 0 < e.2.2 && e.2.2 < 65536) &&
  (w.sectors.all fun k => k < 64 * stackLines) && w.silent.all (· < 64)

/-- PATROL_SCRUB_LINE (R268): the next line of a stack that is not in self-refresh. The row carries what has become of the stack's arrays, whether or
not the scrub runs (log 10). -/
def execPatrolScrubLine (stack : Nat) (faults : ArrayFaults) (s : State) : Host.Outcome State Fault Refusal :=
  guardUnit (stack < Config.pairs && faultsExist faults)
    (if s.pairFailed stack then s
     else
       let s := s.setStack stack (noteFaults faults)
       if (s.group (groupOfDie stack)).state.depth ≥ 2 then s
       else
         let line := (s.stack stack).scrub
         decodeLine stack line (s.setStack stack fun h => { h with scrub := (line + 1) % stackLines }))

/-- A spilled line moves to the line found for it, or its chain is dropped for want of space: its generation aborts with cause NO_SPACE, or, COMPLETE,
keeps it no longer (R283; DESIGN CHOICE, log 98). -/
def moveLine (stack line : Nat) : Option (List Nat) → Option (Nat × BitVec 32 × Nat) → State → State
  | some [l], some (t, g, ch), s =>
    setAcc t g ch (fun a => { a with spilled := a.spilled.map fun k => if k = line then l else k })
      (s.setStack stack fun h => { h with spillLines := h.spillLines.map fun k => if k = line then l else k })
  | _, some (t, g, ch), s => abortGen t g 9 0xFF ch (forgetKept t g ch s)
  | _, none, s => s

/-- A spilled line in the map-out block moves below it (R273). -/
def moveSpilled (stack line : Nat) (s : State) : State :=
  moveLine stack line (takeLines s stack 1 []) (s.spillOwner stack line) s

/-- MAPOUT_START (R273, R274): a map-out is due, and the block holds no extent of a region. Spilled accumulators leave the block first. -/
def execMapoutStart (stack : Nat) (s : State) : Host.Outcome State Fault Refusal :=
  guardUnit (stack < Config.pairs)
    (let low := s.allocEnd stack
     let top := s.allocTop stack
     if !s.mapoutDue stack ∨ s.blockReserved stack ≠ 0 then s
     else
       let s := forEach ((s.stack stack).spillLines.filter fun l => low ≤ 2048 * l ∧ 2048 * l < top) (moveSpilled stack) s
       s.setStack stack fun h => { h with mapout := .copying h.declared s.clock })

/-- A stripe of a region has a line that the copy to new homes moves off a pseudo-channel that does not answer. -/
def State.stripeMuted (s : State) (stack : Nat) (set : List Nat) (r : Region) (a stripe copy : Nat) : Bool :=
  let h := s.stack stack
  let top := s.allocTop stack / 2048
  (s.copyLines r a stripe copy 0 (r.stripeSize a)).any fun l =>
    l.1 = stack && h.deaf.contains (homeLine top h.mapped l.2.1 % 64) && homeLine top set l.2.1 != homeLine top h.mapped l.2.1

/-- A copy of a stripe is lost with its pseudo-channel: restored from the other copy, or the stripe is lost (R274, Table 18.8 cause 3). Returns the
state and whether it is lost. -/
def restoreStripe (slot : Nat) (r : Region) (a stripe copy : Nat) (s : State) : State × Bool :=
  let here := ((s.locate r a stripe copy).map (·.1)).getD 0
  let size := r.unitSize a
  let good (c u : Nat) : Bool := s.unitGood r { array := a, stripe := stripe, unit := u, copy := c } here
  match (s.copiesOf r a stripe).find? fun c => c ≠ copy, s.locate r a stripe copy with
  | some c, some dst =>
    match s.locate r a stripe c with
    | some src => (forEach (List.range (r.units a)) (fun u s =>
        if good c u then storeBytes dst.1 (dst.2 + u * size) (Memory.readBytes (s.stack src.1).mem (src.2 + u * size) size) s
        else markPoison slot a stripe u [copy] s) s, false)
    | none => (s, true)
  | _, _ => (s, true)

/-- What a region has lost to pseudo-channels that do not answer, at the end of a copy: stripes of W, M, V and A with no other copy are lost, with one
event of cause 3; pending stripes as with a failed pair (R274, R387). -/
def loseMuted (stack : Nat) (set : List Nat) (slot : Nat) (s : State) : State :=
  match tget slot s.regions with
  | none => s
  | some r =>
    let hit := (r.arrays.map (·.1)).flatMap fun a => (r.copies a).flatMap fun c =>
      ((List.range r.stripes).filter fun st => s.stripeMuted stack set r a st c).map fun st => (a, st, c)
    let (s, gone) := hit.foldl (fun acc e =>
      let (s, bad) := restoreStripe slot r e.1 e.2.1 e.2.2 acc.1
      (s, if bad then acc.2 ++ [(e.1, e.2.1)] else acc.2)) (s, [])
    let lost := (gone.filter fun e => e.1 ≤ 3 ∧ !r.lost.contains e).eraseDups
    let hurt (a : Nat) (o : Option Slot) : Option Slot := o.map fun p =>
      { p with lostStripes := (p.lostStripes ++ (gone.filter fun e => e.1 = a).map (·.2)).eraseDups }
    let s := s.setRegion slot fun r =>
      { r with lost := r.lost ++ lost, isLost := r.isLost || !lost.isEmpty, slot0 := hurt 4 r.slot0, slot1 := hurt 5 r.slot1 }
    if lost.isEmpty then s else lostEvent slot r (lost.map (·.2)).eraseDups.length 3 s

/-- Lines outside every region that the copy moves off silent pseudo-channels: spilled accumulators and the field book's entries are lost in them
(R274, Table 18.2). -/
def loseMutedRest (stack : Nat) (set : List Nat) (s : State) : State :=
  let h := s.stack stack
  let top := s.allocTop stack / 2048
  let hit (l : Nat) : Bool := h.deaf.contains (homeLine top h.mapped l % 64) && homeLine top set l != homeLine top h.mapped l
  let book := if s.isJournal stack then (s.book.entries.map fun e => bookAt e.seq / 2048).eraseDups else []
  forEach ((h.spillLines ++ book).filter hit) (loseLine stack) s

/-- MAPOUT_DONE (R274), with what has become of the stack's arrays (log 10): every line that moves has been decoded and copied, those that do not decode are marked poisoned at their homes, and the lines of
a pseudo-channel that does not answer are lost. Its symbols read wrong no more: the new location is written afresh. -/
def execMapoutDone (stack : Nat) (faults : ArrayFaults) (s : State) : Host.Outcome State Fault Refusal :=
  guardUnit (stack < Config.pairs && faultsExist faults)
    (let s := s.setStack stack (noteFaults faults)
     match (s.stack stack).mapout with
     | .idle => s
     | .copying set _ =>
       let h := s.stack stack
       let top := s.allocTop stack / 2048
       let moves (l : Nat) : Bool := homeLine top set l != homeLine top h.mapped l
       let mute (l : Nat) : Bool := h.deaf.contains (homeLine top h.mapped l % 64)
       let s := forEach (((h.errors.map (·.1.1)).eraseDups).filter fun l => moves l && !mute l) (decodeLine stack) s
       let s := loseMutedRest stack set (forEach (s.regions.map (·.1)) (loseMuted stack set) s)
       let s := s.setStack stack fun h =>
         { h with mapout := .idle, mapped := set, errors := h.errors.filter fun e => !moves e.1.1
                  badSectors := h.badSectors.filter fun k => !moves (k / 64) }
       if s.pairFailed stack then s
       else journalEvent 0x07 0xFFFF [(64, 1, 0x60 + stack), (72, 8, s.allocEnd stack)] s)

/-- ZEROING_LINE (R372): the lowest line of a stack not yet zeroed. -/
def execZeroingLine (stack : Nat) (s : State) : Host.Outcome State Fault Refusal :=
  guardUnit (stack < Config.pairs)
    (match (s.stack stack).unzeroed with
     | [] => s
     | (first, _) :: _ =>
       if s.pairFailed stack then s
       else (storeZeros stack (2048 * first) 2048 s).setStack stack fun h => { h with unzeroed := runsTake (first, 1) h.unzeroed })

/-! ### The pool audit -/

/-- References found for a frame record, wherever they are held (R294). -/
def State.found (s : State) (id : Nat) : Nat :=
  (List.range Config.xports).foldl (fun a o => a + ((s.references o).filter fun r => r.1 = id).length) 0

/-- An owner entry (Table 13.4) over the records an owner holds, of frames allocated before the walk began; zero for a failed die (R295). -/
def ownerEntry (s : State) (before kind index : Nat) (failed : Bool) (ids : List Nat) : Bytes :=
  if failed then List.replicate 16 0
  else
  let rs := (ids.eraseDups.filterMap s.xbar.record).filter fun r => r.no < before
  let age := rs.foldl (fun a r => max a (s.clock - r.allocAt)) 0
  leBytes 16 (packFields [(0, 8, kind), (8, 8, index), (32, 32, rs.length), (64, 32, rs.foldl (fun a r => a + r.cells) 0),
    (96, 32, min 0xFFFFFFFF (age / 1000))])

/-- Records an output queue or the output that sends holds, without the resequencer behind it (R295). -/
def State.outputHolds (s : State) (o : Nat) : List Nat :=
  (s.xbar.queues.filter fun e => queuePort e.1 = o).flatMap (fun e => e.2.descs.map (·.record)) ++
  (match (s.xbar.output o).sending with
   | some sd => [sd.desc.record]
   | none => [])

/-- The die behind crossbar port `o` is failed: a ledger die, or MD (R295). -/
def State.portDead (s : State) (o : Nat) : Bool :=
  if o < 128 then false else if o < Config.mdPort then s.pairFailed (o - 128) else s.mailbox.failed

/-- The 221 owner entries in their order (R295). -/
def ownerEntries (s : State) (before : Nat) : Bytes :=
  ((List.range 159).flatMap fun o =>
    ownerEntry s before 0 o (s.portDead o) (s.outputHolds o ++ (if o = Config.mdPort then s.mdReseq.holds else []))) ++
  ((List.range 30).flatMap fun i => ownerEntry s before 1 i (s.pairFailed i) (s.die i).reseq.holds) ++
  ((List.range 32).flatMap fun c => ownerEntry s before 2 c false (s.chiplets.getD c {}).egress.holds)

/-- Runs of cells marked in use that belong to no frame record and are not being freed (R294). -/
def leakedRuns (x : Xbar) : List (Nat × Nat) :=
  let all := (List.range x.free.length).map fun k => (k * x.partSize, x.partSize)
  let gone := x.free.flatten ++ x.records.flatMap (·.runs) ++ x.freeing.flatMap (·.1)
  let cells := gone.foldl (fun rs r => runsTake r rs) all
  let held := x.records.filterMap (·.fallback) ++ x.freeing.filterMap (·.2)
  cells ++ (x.fallbackUsed.filter fun n => !held.contains n).map fun n => (x.bufFirst n, x.bufCells)

/-- The cells that lie in both lists of runs, as runs. -/
def runsMeet (a b : List (Nat × Nat)) : List (Nat × Nat) :=
  a.flatMap fun r => b.filterMap fun q =>
    let lo := max r.1 q.1
    let hi := min (r.1 + r.2) (q.1 + q.2)
    if lo < hi then some (lo, hi - lo) else none

/-- A leaked run is returned to the free store. -/
def returnRun (run : Nat × Nat) (x : Xbar) : Xbar :=
  if run.1 ≥ 2027520 then { x with fallbackUsed := x.fallbackUsed.erase ((run.1 - 2027520) / x.bufCells) }
  else { x with free := x.free.modify (run.1 / x.partSize) (runsGive run) }

/-- What a pool audit finds and does (R294-R296): the state after it, and its 3,600 bytes. -/
def poolAudit (w : PoolWalk) (s : State) : State × Bytes :=
  let x := s.xbar
  let recs := x.records.filter fun r => r.no < w.before
  let orphans := (recs.filter fun r => s.found r.id < r.ref).length
  let lone := (recs.filter fun r => s.found r.id = 0 ∧ 0 < r.ref).map fun r => (r.no, r.ref)
  let leaks := leakedRuns x
  let prior := (match x.lastAudit with
    | some l => if l.at_ + 1000000 ≤ s.clock then l else {}
    | none => {} : LastAudit)
  let doomed := if w.reclaim then recs.filter fun r => lone.contains (r.no, r.ref) && prior.orphans.contains (r.no, r.ref) &&
    (r.allocAt + 100000000 ≤ s.clock) else []
  let back := if w.reclaim then runsMeet leaks prior.leaked else []
  let frames := doomed.length
  let cells := doomed.foldl (fun a r => a + r.cells) 0 + runLen back
  let strings := x.free.length * x.partSize - x.free.foldl (fun a rs => a + runLen rs) 0
  let header := leBytes 64 (packFields [(0, 32, (x.audits + 1).toNat), (32, 16, 221), (64, 32, (s.clock - w.startedAt) / 1000),
    (96, 32, strings + x.bufCells * x.fallbackUsed.length), (128, 32, recs.foldl (fun a r => a + r.cells) 0), (160, 32, runLen leaks),
    (192, 32, orphans), (224, 32, frames)])
  let bytes := header ++ ownerEntries s w.before
  let s := forEach doomed freeRecord s
  let s := s.setXbar fun x => back.foldl (fun x r => returnRun r x)
    { x with audits := x.audits + 1, orphans := orphans, leakCells := runLen leaks, walk := none
             reclaimed := min 0xFFFFFFFF (x.reclaimed + frames)
             lastAudit := some { orphans := lone, leaked := leaks, at_ := s.clock } }
  (if frames + runLen back = 0 then s else journalEvent 0x08 0xFFFF [(64, 4, frames), (68, 4, cells)] s, bytes)

/-- An audit's command has its result: it is ready to complete, with CLOSURE where the bus failed (R323). -/
def auditReady (seq : Option Nat) (ok : Bool) (result : Nat) (s : State) : State :=
  match seq with
  | none => s
  | some n => s.setMailbox fun m => { m with running := m.running.map fun r =>
      if r.seq = n then { r with ready := true, status := if ok then r.status else 7, result := result } else r }

/-- POOL_AUDIT_DONE (R296). -/
def execPoolAuditDone (s : State) : Host.Outcome State Fault Refusal :=
  .next (match s.xbar.walk with
    | none => s
    | some w =>
      let (s, bytes) := poolAudit w s
      let s := if w.busOk then writeHost w.pair w.addr w.ring bytes s else s
      auditReady w.seq w.busOk s.xbar.audits.toNat s)

/-! ### The ledger audit (R384) -/

/-- Lines the audit of a region decodes, in order of array, stripe and line, as (array, stripe, line of the stripe). -/
def Region.auditLines (r : Region) : List (Nat × Nat × Nat) :=
  ((r.arrays.map (·.1)).filter (· ≤ 3)).flatMap fun a => (List.range r.stripes).flatMap fun st =>
    (List.range ((r.stripeSize a + 2047) / 2048)).map fun l => (a, st, l)

/-- Both copies of a unit hold good but different bytes. -/
def State.unitDiffers (s : State) (r : Region) (a st unit : Nat) : Bool :=
  match s.locate r a st 0, s.locate r a st 1 with
  | some p, some q =>
    let size := r.unitSize a
    !r.marked a st unit 0 && !r.marked a st unit 1 &&
    Memory.readBytes (s.stack p.1).mem (p.2 + unit * size) size != Memory.readBytes (s.stack q.1).mem (q.2 + unit * size) size
  | _, _ => false

/-- Units whose copies differ, as (array, stripe, unit). -/
def State.mismatches (s : State) (r : Region) : List (Nat × Nat × Nat) :=
  if !r.mirror then []
  else ((r.arrays.map (·.1)).filter (· ≤ 2)).flatMap fun a => (List.range r.stripes).flatMap fun st =>
    ((List.range (r.units a)).filter fun u => s.unitDiffers r a st u).map fun u => (a, st, u)

/-- A ledger audit ends: every line of every copy has been decoded, uncorrectable lines are handled by Table 18.2, differing copies are both poisoned,
and the record of Table 18.4 is written. -/
def ledgerAudit (w : LedgerWalk) (s : State) : State :=
  match s.regionAt w.handle with
  | none => auditReady w.seq w.busOk 0 s
  | some (slot, r) =>
    let lines := r.auditLines.flatMap fun l => (s.copiesOf r l.1 l.2.1).filterMap fun c =>
      (s.locate r l.1 l.2.1 c).map fun p => (p.1, p.2 / 2048 + l.2.2,
        ({ array := l.1, stripe := l.2.1, unit := 2048 * l.2.2 / max 1 (r.unitSize l.1), copy := c } : PoisonUnit))
    let corrected := (lines.filter fun l => match s.decoded l.1 l.2.1 with
      | .corrected _ => true
      | _ => false).length
    let bad := lines.filter fun l => s.decoded l.1 l.2.1 = .lost
    let s := forEach lines (fun l s => decodeLine l.1 l.2.1 s) s
    let r1 := (tget slot s.regions).getD r
    let repaired := ((bad.map (·.2.2)).eraseDups.filter fun u => !r1.poison.contains u).length
    let diff := s.mismatches r1
    let s := forEach diff (fun u s => markPoison slot u.1 u.2.1 u.2.2 [0, 1] s) s
    let s := s.setRegion slot fun r => { r with running := none }
    let r := (tget slot s.regions).getD r
    let rec_ := leBytes 64 (packFields [(0, 32, w.handle), (32, 32, r.version.toNat), (64, 40, r.stripes), (128, 64, lines.length),
      (192, 32, corrected), (224, 32, bad.length), (256, 32, diff.length), (288, 32, repaired), (320, 32, s.poisonedUnits r),
      (352, 32, (s.clock - w.startedAt) / 1000)])
    auditReady w.seq w.busOk 0 (if w.busOk then writeHost w.pair w.addr w.ring rec_ s else s)

/-- The ledger audit that began first ends, once the groups of the region's pairs run. -/
def endLedgerWalk (s : State) : State :=
  match s.ledgerWalks with
  | [] => s
  | w :: rest =>
    let pairs := ((s.regionAt w.handle).map fun r => s.regionPairs r.2).getD []
    if s.pairsRun pairs then ledgerAudit w (workPairs pairs { s with ledgerWalks := rest }) else workPairs pairs s

/-- LEDGER_AUDIT_DONE (R384). The row carries what has become of the arrays of stacks (log 10). -/
def execLedgerAuditDone (faults : List (Nat × ArrayFaults)) (s : State) : Host.Outcome State Fault Refusal :=
  guardUnit (faults.all fun e => e.1 < Config.pairs && faultsExist e.2)
    (endLedgerWalk (forEach faults (fun e s => s.setStack e.1 (noteFaults e.2)) s))

/-- Starts a pool audit (R294); none where one runs. -/
def startPoolAudit (reclaim : Bool) (seq : Option Nat) (pair addr : Nat) (ring busOk : Bool) (s : State) : Option State :=
  if s.xbar.walk.isSome then none
  else some (s.setXbar fun x =>
    { x with walk := some { startedAt := s.clock, before := x.allocCount, reclaim := reclaim, seq := seq, pair := pair, addr := addr, ring := ring, busOk := busOk } })

/-- Starts a ledger audit: it takes the region's running mark (R384); none where the mark is held or the region gone. -/
def startLedgerAudit (handle : Nat) (seq : Option Nat) (pair addr : Nat) (ring busOk : Bool) (s : State) : Option State :=
  match s.regionAt handle with
  | none => none
  | some (slot, r) =>
    if r.running.isSome then none
    else some ((State.setRegion slot (fun r => { r with running := some (seq.getD 0) }) s) |> fun s =>
      { s with ledgerWalks := s.ledgerWalks ++ [{ handle := handle, startedAt := s.clock, seq := seq, pair := pair, addr := addr
                                                  ring := ring, busOk := busOk }] })

end Sys2Proof.Machine
end

