-- ==== Sys2Proof/Machine/Bases.lean ====
section
/-! DEFINITION. Basis slots (R165, R178, R180) and the array self-test (R186): the rows of the projection cores. -/
namespace Sys2Proof.Machine

/-- The end of a load (R180): CLOSURE where the bus failed or the CRC-32C differs, and the slot is then EMPTY. Otherwise the slot is READY with its
constants (R172). A buffer that breaks R165 was rejected at acceptance. -/
def finishBasis (widthCode rank crc : Nat) (data : Bytes) (busOk : Bool) (b : Basis) : Basis × Nat :=
  let n := 32 * 2 ^ widthCode * rank + rank
  let empty : Basis := { b with state := .empty, sc := [], q := [], z := [], y := [] }
  match basisOf widthCode rank data with
  | none => (empty, Status.closure)
  | some (q, sc) =>
    if !busOk ∨ crc32c (data.take n) ≠ crc then (empty, Status.closure)
    else
      let b := { b with state := .ready, widthCode := widthCode, rank := rank, crc := BitVec.ofNat 32 crc, sc := sc, q := q }
      ({ b with z := b.zs, y := b.ys }, 0)

/-- Every die's DMA writes its copy of a slot: what stood there is gone, and the slot's tile is loaded anew before it is used (R182). -/
def writeStores (slot : Nat) (s : State) : State :=
  { s with dies := s.dies.map fun d =>
      { d with sram := d.sram.filter fun e => e.1 / slotBytes ≠ slot, lostSlots := d.lostSlots.filter (· ≠ slot)
               activeBasis := if d.activeBasis = some slot then none else d.activeBasis
               cells := if d.activeBasis = some slot then [] else d.cells } }

/-- A self-test finds failing columns: spares are used while an array has one left; an array with more than two failing columns is
failed (R186). -/
def softRepair (columns : List (Nat × Nat)) (d : LedgerDie) : LedgerDie :=
  let d := columns.foldl (fun d c =>
    let used := d.spares.getD c.1 3
    if c.2 = 0 ∨ used = 3 ∨ c.1 ≥ 32 then d
    else if used + c.2 > 2 then { d with spares := d.spares.set c.1 3 }
    else { d with spares := d.spares.set c.1 (used + c.2), softRepairs := min 255 (d.softRepairs + c.2) }) d
  { d with selfTestOwed := false }

/-- ARRAY_SELFTEST_DONE (R186): `columns` gives, by array 4c + a, the columns newly found failing. The die's projected chains that were held go on
their way. -/
def execArraySelftestDone (die : Nat) (columns : List (Nat × Nat)) (s : State) : Host.Outcome State Fault Refusal :=
  guardUnit (die < Config.pairs)
    (if (s.die die).selfTestOwed then
       let s := s.setDie die (softRepair columns)
       forEach s.traverses (fun e s => forEach e.2.gens (fun x s =>
         if (s.projection e.1 x.gen).isSome ∧ x.phase = .open_ then settleGen e.1 x.gen s else s) s) s
     else s)

/-- A running LOAD of a basis slot. -/
def Running.loads (slot : Nat) (r : Running) : Bool := match r.ending with
  | .basisLoad n _ _ _ _ _ => n == slot
  | _ => false

/-- BASIS_READY (R180): every available die has been tested and holds its copy; the slot's oldest load ends. -/
def execBasisReady (slot : Nat) (s : State) : Host.Outcome State Fault Refusal :=
  guardUnit (slot < 8)
    (if (s.bases.getD slot {}).state ≠ .loading ∨ s.projDies.any (fun i => (s.die i).selfTestOwed) then s
     else
       match s.mailbox.running.find? fun r => r.loads slot with
       | none => s
       | some r =>
         match r.ending with
         | .basisLoad _ w k crc data ok =>
           let (b, status) := finishBasis w k crc data ok (s.bases.getD slot {})
           let more := s.mailbox.running.any fun x => x.seq != r.seq && x.loads slot
           let b := if more then { b with state := .loading } else b
           let s := writeStores slot { s with bases := s.bases.set slot b }
           s.setMailbox fun m => { m with running := m.running.map fun x =>
             if x.seq = r.seq then { x with ready := true, status := status, ending := .plain } else x }
         | _ => s)

end Sys2Proof.Machine
end

