-- ==== Sys2Proof/Machine/Sr10.lean ====
section
/-! DEFINITION. SR-10 and stochastic rounding (R48-R50). -/
namespace Sys2Proof.Machine

/-- The constants c of R48. -/
def srConstants : List (BitVec 32) :=
  [0x6A1D3C85, 0x2F94B71E, 0xC3E05A29, 0x8B57E064, 0x1DC294F3, 0x74A80B6D, 0xE619CF42, 0x59F32DB8, 0xA03E76C1, 0x3B85E91A]

/-- One round over (x0, x1, x2, x3) with the keys ka and kb (R48). -/
def srRound (c ka kb : BitVec 32) (x : BitVec 32 × BitVec 32 × BitVec 32 × BitVec 32) :
    BitVec 32 × BitVec 32 × BitVec 32 × BitVec 32 :=
  let (x0, x1, x2, x3) := x
  let f0 := (x0 + ka).rotateLeft 7 ^^^ (x0.rotateLeft 23 + c)
  let f1 := (x2 + kb).rotateLeft 11 ^^^ (x2.rotateLeft 17 + ~~~c)
  (x1 ^^^ f0, x2, x3 ^^^ f1, x0)

/-- The keys of round r (R48): ka is k1 on odd rounds. -/
def srKeys (seed : BitVec 64) (r : Nat) : BitVec 32 × BitVec 32 :=
  let k0 := seed.truncate 32
  let k1 := (seed >>> 32).truncate 32
  if r % 2 = 1 then (k1, k0) else (k0, k1)

/-- SR-10 (R48): the four words of a counter. -/
def sr10 (seed : BitVec 64) (gen tensor : BitVec 32) (idx : BitVec 64) :
    BitVec 32 × BitVec 32 × BitVec 32 × BitVec 32 :=
  srConstants.zipIdx.foldl (fun x c => srRound c.1 (srKeys seed c.2).1 (srKeys seed c.2).2 x)
    (idx.truncate 32, (idx >>> 32).truncate 32, tensor, gen)

/-- Stochastic rounding of an FP32 encoding to BF16 (R50). -/
def srBf16 (f rnd : BitVec 32) : BitVec 16 :=
  let s := f &&& 0x80000000
  let m := f &&& 0x7FFFFFFF
  if m > 0x7F800000 then 0x7FC0
  else if m = 0x7F800000 then ((s >>> 16) ||| 0x7F80).truncate 16
  else ((s >>> 16) ||| ((m + (rnd &&& 0xFFFF)) >>> 16)).truncate 16

end Sys2Proof.Machine
end

