-- ==== Sys2Proof/Machine/Optimizer.lean ====
section
/-! DEFINITION. The optimizer step (R144-R149): one element under each KIND, and an APPLY over a region. -/
namespace Sys2Proof.Machine

/-- The arguments of an APPLY as FP32 encodings. -/
structure ApplyArgs where
  clip : Nat
  lr : Nat
  c1 : Nat
  c2 : Nat

/-- The sign of an FP32 encoding flipped: negation is exact (R147). -/
def negFp32 (x : Nat) : Nat := if x < 2 ^ 31 then x + 2 ^ 31 else x - 2 ^ 31

/-- 1.0 and -1.0 in FP32. -/
def oneFp32 : Nat := 0x3F800000
def minusOneFp32 : Nat := 0xBF800000

/-- MOMENTUM (R145): the new w and m. -/
def stepMomentum (r : Region) (p : ApplyArgs) (g w m : Nat) : Nat × Nat :=
  let f := Fp.fp32
  let beta := r.beta1.toNat
  let g := f.fma r.wd.toNat w (f.mul g p.clip)
  let m := f.fma beta m g
  let u := if r.nesterov then f.fma beta m g else m
  (f.fma (negFp32 p.lr) u w, m)

/-- ADAPTIVE (R146): the new w, m and v. -/
def stepAdaptive (r : Region) (p : ApplyArgs) (g w m v : Nat) : Nat × Nat × Nat :=
  let f := Fp.fp32
  let g := f.mul g p.clip
  let m := f.fma r.beta1.toNat m (f.mul r.omb1.toNat g)
  let v := f.fma r.beta2.toNat v (f.mul r.omb2.toNat (f.mul g g))
  let u := f.div (f.mul m p.c1) (f.add (f.sqrt (f.mul v p.c2)) r.eps.toNat)
  let a := f.mul p.lr r.wd.toNat
  let w := f.fma (negFp32 a) w w
  (f.fma (negFp32 p.lr) u w, m, v)

/-- SIGN (R147): the new w and m. -/
def stepSign (r : Region) (p : ApplyArgs) (g w m : Nat) : Nat × Nat :=
  let f := Fp.fp32
  let g := f.mul g p.clip
  let c := f.fma r.beta1.toNat m (f.mul r.omb1.toNat g)
  let u := if f.lt 0 c then oneFp32 else if f.lt c 0 then minusOneFp32 else if f.isNan c then c else 0
  let a := f.mul p.lr r.wd.toNat
  let w := f.fma (negFp32 a) w w
  (f.fma (negFp32 p.lr) u w, f.fma r.beta2.toNat m (f.mul r.omb2.toNat g))

/-- A BF16 encoding as FP32, exactly. -/
def bf16Up (c : Nat) : Nat := c * 65536

/-- One element's new W, M and V encodings (R144): `g` in FP32, the stored ones in BF16; V is 0 where the KIND has none. -/
def stepElement (r : Region) (p : ApplyArgs) (seed : BitVec 64) (srGen : BitVec 32) (i g w m v : Nat) : Nat × Nat × Nat :=
  let (r0, r1, r2, _) := sr10 seed srGen r.tensor (BitVec.ofNat 64 (r.elemFirst + i))
  let put (x : Nat) (rnd : BitVec 32) : Nat := (srBf16 (BitVec.ofNat 32 x) rnd).toNat
  if r.kind = 2 then
    let (w, m, v) := stepAdaptive r p g (bf16Up w) (bf16Up m) (bf16Up v)
    (put w r0, put m r1, put v r2)
  else
    let (w, m) := if r.kind = 3 then stepSign r p g (bf16Up w) (bf16Up m) else stepMomentum r p g (bf16Up w) (bf16Up m)
    (put w r0, put m r1, 0)

/-- One stripe of an APPLY from the slot in array `ga`; none where the stripe is skipped (R149). -/
def applyStripe (slot ga : Nat) (seed : BitVec 64) (p : ApplyArgs) (srGen : BitVec 32) (st : Nat) (s : State) : Option State :=
  (tget slot s.regions).bind fun r =>
    let n := r.elemsOf st
    let read (a : Nat) : List Nat × Bool := s.readElems r a (4096 * st) n
    let (gs, gBad) := read ga
    let (ws, wBad) := read 0
    let (ms, mBad) := read 1
    let (vs, vBad) := if r.kind = 2 then read 2 else (List.replicate n 0, false)
    if gBad ∨ wBad ∨ mBad ∨ vBad then none
    else
      let new := (List.range n).zip (gs.zip (ws.zip (ms.zip vs))) |>.map fun e =>
        stepElement r p seed srGen (4096 * st + e.1) e.2.1 e.2.2.1 e.2.2.2.1 e.2.2.2.2
      let s := writeElems slot r 0 (4096 * st) (new.map (·.1)) s
      let s := writeElems slot r 1 (4096 * st) (new.map (·.2.1)) s
      some (if r.kind = 2 then writeElems slot r 2 (4096 * st) (new.map (·.2.2)) s else s)

/-- The lines an APPLY reads of one stripe are decoded: its gradient, W, M and, where the KIND has it, V (R268, R380). -/
def decodeUpdate (slot ga st : Nat) (s : State) : State :=
  match tget slot s.regions with
  | none => s
  | some r => forEach (ga :: (r.arrays.map (·.1)).filter (· ≤ 2)) (fun a s => decodeStripe slot a st 0 (r.stripeSize a) s) s

/-- A skipped stripe: its W, M and V units are poisoned in every copy (Table 18.3). -/
def skipStripe (slot st : Nat) (s : State) : State :=
  match tget slot s.regions with
  | some r => forEach ((r.arrays.map (·.1)).filter (· ≤ 2)) (fun a s => markStripe slot a st s) s
  | none => s

/-- The end of an APPLY on the region of a handle (R148, R149): the state after it, and the status OK or POISON. -/
def applyRegion (handle : Nat) (gen srGen : BitVec 32) (p : ApplyArgs) (s : State) : State × Nat :=
  match s.regionAt handle with
  | none => (s, 0)
  | some (slot, r) =>
    match r.slotOf gen with
    | none => (s, 0)
    | some (ga, ps) =>
      let (s, bad) := (List.range r.stripes).foldl (fun acc st =>
        let s := decodeUpdate slot ga st acc.1
        match applyStripe slot ga ps.seed p srGen st s with
        | some s => (s, acc.2)
        | none => (skipStripe slot st s, true)) (s, false)
      (s.setRegion slot fun r => { r.putSlot ga none with lastSrGen := srGen, applied := r.applied + 1 }, if bad then 9 else 0)

end Sys2Proof.Machine
end

