-- ==== Sys2Proof/Machine/P384.lean ====
section
/-! DEFINITION. ECDSA verification on P-384 of FIPS 186-5, which the spec names for images, consents and lifecycle records
(R357, R360, R374); the curve's constants are the standard's (log 17). -/
namespace Sys2Proof.Machine

/-- The field prime of P-384. -/
def curveP : Nat := 2 ^ 384 - 2 ^ 128 - 2 ^ 96 + 2 ^ 32 - 1
/-- The order of the base point. -/
def curveN : Nat :=
  0xFFFFFFFFFFFFFFFFFFFFFFFFFFFFFFFFFFFFFFFFFFFFFFFFC7634D81F4372DDF581A0DB248B0A77AECEC196ACCC52973
/-- The coefficient b. -/
def curveB : Nat :=
  0xB3312FA7E23EE7E4988E056BE3F82D19181D9C6EFE8141120314088F5013875AC656398D8A2ED19D2A85C8EDD3EC2AEF
/-- The base point. -/
def curveG : Nat × Nat :=
  (0xAA87CA22BE8B05378EB1C71EF320AD746E1D3B628BA79B9859F741E082542A385502F25DBF55296C3A545E3872760AB7,
   0x3617DE4A96262C6F5D9E98BF9292DC29F8F41DBD289A147CE9DA3113B5F0B8C00A60B1CE1D7E819D7A431D7C90EA0E5F)

/-- x^e mod m over the low `k` bits of e, least significant first. -/
def powModStep (m : Nat) : Nat → Nat → Nat → Nat → Nat
  | 0, _, _, acc => acc
  | k + 1, x, e, acc => powModStep m k (x * x % m) (e / 2) (if e % 2 = 1 then acc * x % m else acc)

/-- Inverse modulo an odd prime of 384 bits. -/
def invMod (m x : Nat) : Nat := powModStep m 384 (x % m) (m - 2) 1

/-- A point in Jacobian coordinates; z = 0 is the point at infinity. -/
structure JPoint where
  x : Nat
  y : Nat
  z : Nat

/-- Difference modulo p. -/
def subP (a b : Nat) : Nat := (a + curveP - b % curveP) % curveP

/-- Doubling (a = -3). -/
def JPoint.dbl (q : JPoint) : JPoint :=
  if q.z = 0 then q
  else
    let zz := q.z * q.z % curveP
    let m := 3 * subP q.x zz * (q.x + zz) % curveP
    let yy := q.y * q.y % curveP
    let s := 4 * q.x * yy % curveP
    let x := subP (m * m) (2 * s)
    { x := x, y := subP (m * subP s x) (8 * yy * yy), z := 2 * q.y * q.z % curveP }

/-- Sum of two points. -/
def JPoint.add (q r : JPoint) : JPoint :=
  if q.z = 0 then r else if r.z = 0 then q
  else
    let z1 := q.z * q.z % curveP
    let z2 := r.z * r.z % curveP
    let u1 := q.x * z2 % curveP
    let u2 := r.x * z1 % curveP
    let s1 := q.y * z2 * r.z % curveP
    let s2 := r.y * z1 * q.z % curveP
    if u1 = u2 then (if s1 = s2 then q.dbl else { x := 1, y := 1, z := 0 })
    else
      let h := subP u2 u1
      let t := subP s2 s1
      let hh := h * h % curveP
      let h3 := h * hh % curveP
      let v := u1 * hh % curveP
      let x := subP (t * t) (h3 + 2 * v)
      { x := x, y := subP (t * subP v x) (s1 * h3), z := h * q.z * r.z % curveP }

/-- u1 * G + u2 * Q from bit `k - 1` down, with g + q given. -/
def mulStep (g q gq : JPoint) (u1 u2 : Nat) : Nat → JPoint → JPoint
  | 0, acc => acc
  | k + 1, acc =>
    let d := acc.dbl
    let d := match bitAt u1 k, bitAt u2 k with
      | true, true => d.add gq
      | true, false => d.add g
      | false, true => d.add q
      | false, false => d
    mulStep g q gq u1 u2 k d

/-- ECDSA verification of a digest (as a number) under the key (qx, qy) and signature (r, s). -/
def ecdsaVerify (digest qx qy r s : Nat) : Bool :=
  if r = 0 ∨ r ≥ curveN ∨ s = 0 ∨ s ≥ curveN ∨ qx ≥ curveP ∨ qy ≥ curveP then false
  else if (qy * qy) % curveP ≠ subP (qx * qx * qx + curveB) (3 * qx) then false
  else
    let w := invMod curveN s
    let g : JPoint := { x := curveG.1, y := curveG.2, z := 1 }
    let q : JPoint := { x := qx, y := qy, z := 1 }
    let x := mulStep g q (g.add q) (digest * w % curveN) (r * w % curveN) 384 { x := 1, y := 1, z := 0 }
    if x.z = 0 then false
    else
      let zi := invMod curveP x.z
      x.x * zi % curveP * zi % curveP % curveN == r

/-- The `k` bytes of `n`, big-endian. -/
def beBytes (k n : Nat) : Bytes := (leBytes k n).reverse

/-- The public key of a private scalar: d * G as x and y, 48 bytes each, big-endian (R358). -/
def publicKey (d : Nat) : Bytes :=
  let g : JPoint := { x := curveG.1, y := curveG.2, z := 1 }
  let q := mulStep g g g.dbl d 0 384 { x := 1, y := 1, z := 0 }
  let zi := invMod curveP q.z
  beBytes 48 (q.x * zi % curveP * zi % curveP) ++ beBytes 48 (q.y * zi % curveP * zi % curveP * zi % curveP)

/-- The halves of a 96-byte key or signature of an image: big-endian x‖y and r‖s (R360). -/
def halves96 (bs : Bytes) : Nat × Nat := (beNat (bs.take 48), beNat ((bs.drop 48).take 48))

/-- The halves of a 96-byte key or signature of any other structure: multi-byte fields of device and host memory are little-endian (R6, log 68). -/
def littleHalves (bs : Bytes) : Nat × Nat := (leNat (bs.take 48), leNat ((bs.drop 48).take 48))

/-- Whether a signature over `msg`, given as (r, s), verifies under a key, given as (x, y). -/
def verifiesHalves (key signature : Nat × Nat) (msg : Bytes) : Bool := ecdsaVerify (beNat (sha384 msg)) key.1 key.2 signature.1 signature.2

/-- Whether an image's 96-byte signature over `msg` verifies under a 96-byte key (R360). -/
def verifies (key signature msg : Bytes) : Bool := verifiesHalves (halves96 key) (halves96 signature) msg

end Sys2Proof.Machine
end

