-- ==== Sys2Proof/Machine/Operands.lean ====
section
/-! DEFINITION. The operands of a mailbox command: header (Table 14.3), argument area (R321), trigger block (Table 15.1), host block
(Table 15.2) and input buffer (R327), with the bits each opcode assigns. -/
namespace Sys2Proof.Machine

/-- A command as decoded from its entry (R303). -/
structure Cmd where
  pair : Nat
  entry : Nat
  opcode : Nat
  ordered : Bool
  parcel : Nat
  expect : BitVec 32
  tag : BitVec 64
  bufLen : Nat
  bufCrc : Nat
  /-- The argument area as a number: bit n is argument bit n. -/
  args : Nat
  buffer : Bytes
  bufferOk : Bool
  data : Bytes
  dataOk : Bool

/-- Decodes a command entry. -/
def cmdOf (c : Command) : Cmd :=
  let e := c.entry.toNat
  { pair := c.pair, entry := e, opcode := bitsAt e 0 8, ordered := bitAt e 8, parcel := bitsAt e 16 16
    expect := BitVec.ofNat 32 (bitsAt e 32 32), tag := BitVec.ofNat 64 (bitsAt e 64 64), bufLen := bitsAt e 192 17
    bufCrc := bitsAt e 224 32, args := e >>> 256, buffer := c.buffer.take (bitsAt e 192 17), bufferOk := c.bufferOk
    data := c.data, dataOk := c.dataOk }

/-- A field of the argument area. -/
def Cmd.arg (c : Cmd) (lo w : Nat) : Nat := bitsAt c.args lo w
/-- A bit of the argument area. -/
def Cmd.flag (c : Cmd) (lo : Nat) : Bool := bitAt c.args lo
/-- A 32-bit field of the argument area. -/
def Cmd.word (c : Cmd) (lo : Nat) : BitVec 32 := BitVec.ofNat 32 (c.arg lo 32)

/-! ### Assigned argument bits, by opcode (Tables 15.1, 15.2, 15.4-15.6) -/

/-- The trigger block's assigned bits. -/
def triggerBits : List (Nat × Nat) := [(1536, 7), (1544, 20), (1568, 56)]
/-- The host block's assigned bits. -/
def hostBits : List (Nat × Nat) := [(1664, 65), (1760, 32)]

/-- The argument bits an opcode assigns; none for a code the table lacks (R321, R324). -/
def argBits : Nat → Option (List (Nat × Nat))
  | 0x01 => some ([(0, 8), (32, 32), (64, 32)] ++ hostBits)
  | 0x02 => some ([(0, 64), (64, 13)] ++ hostBits)
  | 0x03 => some [(0, 2), (16, 16), (64, 64)]
  | 0x04 => some [(0, 2)]
  | 0x05 => some [(0, 32)]
  | 0x06 => some [(0, 13)]
  | 0x07 => some [(0, 13), (16, 9), (32, 32)]
  | 0x08 => some [(0, 13)]
  | 0x09 => some [(0, 33)]
  | 0x0A => some ([(0, 35), (64, 28), (96, 28), (128, 32)] ++ hostBits)
  | 0x0B => some ([(0, 34), (64, 28), (96, 28)] ++ hostBits)
  | 0x0C => some [(0, 33), (64, 192)]
  | 0x0D => some [(0, 1), (4, 4), (16, 12), (32, 32)]
  | 0x0E => some ([(0, 14), (16, 4), (32, 16), (64, 32)] ++ triggerBits)
  | 0x0F => some ([(0, 6), (8, 8), (16, 14), (32, 64)] ++ hostBits)
  | 0x10 => some ([(0, 2), (4, 2), (32, 32)] ++ triggerBits)
  | 0x11 => some [(0, 28)]
  | 0x12 => some []
  | 0x13 => some [(0, 4), (8, 8), (32, 32), (64, 24), (96, 32)]
  | 0x14 => some [(0, 20), (32, 32), (64, 7)]
  | 0x15 => some [(0, 17), (32, 24), (64, 24), (96, 16), (128, 128)]
  | 0x16 => some ([(0, 12), (16, 16), (64, 32)] ++ triggerBits)
  | 0x17 => some ([(0, 12), (16, 17), (64, 32)] ++ triggerBits)
  | 0x18 => some [(0, 49)]
  | 0x19 => some ([(0, 1), (32, 32)] ++ hostBits)
  | 0x1A => some ([(0, 1), (32, 32)] ++ triggerBits)
  | 0x1B => some [(0, 2), (16, 16)]
  | 0x1C => some ([(0, 3), (32, 32)] ++ triggerBits ++ hostBits)
  | _ => none

/-- The opcode takes the host block in the form used (Tables 15.4 to 15.6): bulk data of R305. -/
def Cmd.usesHost (c : Cmd) : Bool :=
  [0x01, 0x02, 0x0A, 0x0B, 0x19, 0x1C].contains c.opcode || (c.opcode == 0x0F && !bitAt c.args 0)

/-- The blocks an opcode assigns but the form used does not take must be zero (R321): the host block of BIND, the
trigger block of SERVE_ARM with DISARM, of MAP_SELECT other than ACTION, of FW_HANDOVER with CANCEL and of AUDIT_READ other than SCHEDULED. -/
def Cmd.blocksOk (c : Cmd) : Bool :=
  let noTrigger := bitsAt c.args 1536 128 == 0
  let noHost := bitsAt c.args 1664 128 == 0
  if c.opcode = 0x0F ∧ bitAt c.args 0 then noHost
  else if c.opcode = 0x0E ∧ bitAt c.args 12 then noTrigger
  else if c.opcode = 0x10 ∧ bitsAt c.args 0 2 ≠ 1 then noTrigger
  else if c.opcode = 0x1A ∧ bitAt c.args 0 then noTrigger
  else if c.opcode = 0x1C ∧ !bitAt c.args 2 then noTrigger
  else true

/-- A number whose bits outside the listed ranges are all zero. -/
def onlyIn (n : Nat) (ranges : List (Nat × Nat)) : Bool :=
  ranges.foldl (fun a r => a - (bitsAt n r.1 r.2) <<< r.1) n == 0

/-! ### Blocks -/

/-- The trigger block (Table 15.1). -/
def Cmd.trigger (c : Cmd) : Trigger :=
  let b := bitsAt c.args 1536 128
  { stream := bitsAt b 0 6, periodic := bitAt b 6, anyStep := bitAt b 8, anyLayer := bitAt b 9, anyPhase := bitAt b 10
    anySub := bitAt b 11
    coord := { phase := bitsAt b 12 4, sub := bitsAt b 16 12, layer := bitsAt b 32 16, step := bitsAt b 48 40 } }

/-- The trigger block is all zero: the command carries no trigger (R391). -/
def Cmd.noTrigger (c : Cmd) : Bool := bitsAt c.args 1536 128 == 0

/-- The host block's ADDR, SPACE and LEN (Table 15.2). -/
def Cmd.addr (c : Cmd) : Nat := c.arg 1664 64
def Cmd.ring (c : Cmd) : Bool := c.flag 1728
def Cmd.len (c : Cmd) : Nat := c.arg 1760 32

end Sys2Proof.Machine
end

