-- ==== Sys2Proof/Machine/Commands.lean ====
section
/-! DEFINITION. Taking, checking, accepting and completing a mailbox command (R303-R311, R321-R328): the parts every opcode shares. An
opcode's own checks answer a `CmdVerdict`. -/
namespace Sys2Proof.Machine

/-! ### Verdicts -/

/-- What acceptance of a command does: the object and its version after, the result, what is left to do at the end of the effect, and
the effect that begins at once, given the command's SEQ. -/
structure Accepted where
  objKind : Nat := 0
  object : Nat := 0
  version : BitVec 32 := 0
  aux : Nat := 0xFFFF
  result : Nat := 0
  ending : Ending := .plain
  ready : Bool := true
  effect : Nat → State → State

/-- The outcome of an opcode's checks: rejected, a read that completes at once (R325), or accepted. -/
inductive CmdVerdict where
  | reject (status : Nat) (result : Nat)
  | read (status result : Nat) (version : BitVec 32) (write : State → State)
  | accept (a : Accepted)

/-- The first check that fails decides (R304, R326). -/
def verdictOf : List (Bool × Nat) → CmdVerdict → CmdVerdict
  | [], v => v
  | (bad, status) :: rest, v => if bad then .reject status 0 else verdictOf rest v

/-- The version check of a command that changes an object (R306). -/
def Cmd.staleFor (c : Cmd) (version : BitVec 32) : Bool := c.expect != version

/-- The version check of a command that reads or uses an object (R306). -/
def Cmd.staleUse (c : Cmd) (version : BitVec 32) : Bool := c.expect != version && c.expect != 0xFFFFFFFF

/-! ### Rings in memory -/

/-- The two rings of a pair, as (offset, length). -/
def Pair.rings (p : Pair) : List (Nat × Nat) :=
  [(ringAt p.cmdBase, 256 * p.cmdSlots), (ringAt p.cmpBase, 64 * p.cmpSlots)]

/-- Two ranges share a byte. -/
def overlap (a b : Nat × Nat) : Bool := a.1 < b.1 + b.2 && b.1 < a.1 + a.2 && 0 < a.2 && 0 < b.2

/-- Rings of active pairs. -/
def Mailbox.activeRings (m : Mailbox) : List (Nat × Nat) := (m.pairs.filter (·.active)).flatMap Pair.rings

/-! ### Taking (R307, R309) -/

/-- The pair offers a command the part may take: it precedes CMD_TAIL, a completion slot is free, and an ORDERED command follows no
running one. -/
def Mailbox.offers (m : Mailbox) (n : Nat) : Bool :=
  let p := m.pairs.getD n {}
  p.active && 0 < (p.cmdTail - p.cmdHead).toNat && (p.cmdTail - p.cmdHead).toNat < 2 ^ 15 && 0 < m.freeSlots n &&
  ((Memory.read m.ring (ringAt p.cmdBase + 256 * (p.cmdHead.toNat % p.cmdSlots) + 1)).toNat % 2 == 0 || m.quiet n)

/-- The pair whose turn it is: the first after the last one served that offers a command (R307). -/
def Mailbox.turn (m : Mailbox) : Option Nat := ((List.range 64).map fun i => (m.lastServed + 1 + i) % 64).find? m.offers

/-- MD takes commands: firmware runs, MD has not failed, no hand-over is under way (R366, R389), and the crossbar, past which MD reaches no journal
pair, forwards (R17). Core 0 of MD, whose task the checks are, is not halted (log 108). -/
def State.takesCommands (s : State) : Bool :=
  s.boot.stage == .ready && !s.mailbox.failed && s.boot.handover.isNone && !s.supply.inReset && !s.xbar.stopped && !s.isHalted 0x80 0

/-- The command stands in the slot the pair whose turn it is offers next. -/
def State.takes (s : State) (c : Command) : Bool :=
  s.takesCommands && s.mailbox.turn == some c.pair &&
  commandAt s.mailbox (s.pair c.pair) (s.pair c.pair).cmdHead == leBytes 256 c.entry.toNat

/-- The command with the buffer the part holds for it: an in-band command's came with its frame (R312). -/
def State.loaded (s : State) (c : Command) : Cmd :=
  let d := cmdOf c
  let p := s.pair c.pair
  if p.inBand then
    { d with buffer := (((s.mailbox.inBuffers.find? fun e => e.1 == (c.pair, p.cmdHead.toNat)).map (·.2)).getD []).take d.bufLen
             bufferOk := true }
  else d

/-! ### Checks common to every opcode (R305, R321, R323) -/

/-- Reserved header and argument bits are zero. -/
def Cmd.reservedZero (c : Cmd) : Bool :=
  bitsAt c.entry 9 7 == 0 && bitsAt c.entry 209 15 == 0 &&
  (match argBits c.opcode with
   | some l => onlyIn (c.args % 2 ^ 1792) l && c.blocksOk
   | none => true)

/-- Data goes through host memory: LEDGER_LOAD with ZERO = 1 transfers nothing (R137). -/
def Cmd.moves (c : Cmd) : Bool := c.usesHost && !(c.opcode == 0x0A && bitAt c.args 34)

/-- The checks of R305, in their order. -/
def commonChecks (c : Cmd) (s : State) : List (Bool × Nat) :=
  let p := s.pair c.pair
  [((argBits c.opcode).isNone, Status.badArg),
   (!c.reservedZero, Status.badArg),
   (p.parcel ≠ 0 ∧ c.parcel ≠ p.parcel, Status.denied),
   ((p.inBand ∧ c.moves ∧ !c.ring) ∨ c.bufLen > 65536, Status.badArg),
   ((c.bufLen > 0 ∧ (!c.bufferOk ∨ c.buffer.length ≠ c.bufLen)) ∨ crc32c c.buffer ≠ c.bufCrc, Status.closure),
   (c.opcode ≠ 1 ∧ c.opcode ≠ 2 ∧ !s.book.kept, Status.lost)]

/-- The host block may be used as it stands (R323). -/
def Cmd.spaceOk (c : Cmd) (s : State) : Bool :=
  !c.moves || !c.ring ||
  ([0x01, 0x02, 0x1C].contains c.opcode && c.addr + c.len ≤ ringMemory &&
   s.mailbox.activeRings.all fun r => !overlap r (c.addr, c.len))

/-- Checks of every opcode that come first among its own: the parcel acted for exists, the host block may be used, BUF_LEN is the
length of the form (R323, R326, R327). -/
def firstChecks (c : Cmd) (bufLen : Nat) (s : State) : List (Bool × Nat) :=
  [((s.parcel c.parcel).isNone ∨ !c.spaceOk s ∨ c.bufLen ≠ bufLen, Status.badArg)]

/-! ### Completion and acceptance (R304, R310, R314-R316) -/

/-- The COMMAND completion of a command that ends with its acceptance checks. -/
def completeAtOnce (c : Cmd) (index : BitVec 16) (status result : Nat) (version : BitVec 32) (s : State) : State :=
  putCompletion c.pair { kind := 1, status := status, opcode := c.opcode, cmdIndex := index.toNat, parcel := c.parcel
                         tag := c.tag.toNat, version := version.toNat, result := result } s

/-- Field-book entry of an accepted command (Table 14.8). -/
def bookEntry (c : Cmd) (a : Accepted) (s : State) : FbEntry :=
  let p := s.pair c.pair
  let who : Nat × Nat × Nat := match p.owner with
    | some (.requester e id) => (e, id, 0)
    | _ => (2, p.ibPart, p.ibPort)
  { kind := 1, code := c.opcode, objKind := a.objKind, object := a.object, versionAfter := a.version.toNat, parcel := c.parcel
    auxParcel := a.aux, pair := c.pair, transport := who.1, requester := who.2.1, srcPort := who.2.2
    fwInstance := s.boot.fwInstance.toNat, hash := crc64 (leBytes 256 c.entry ++ c.buffer), acceptTick := s.telemetry
    body := c.entry, bufHead := leNat (c.buffer.take 704) }

/-- The command takes the next SEQ, is journaled as PENDING and runs (R304). -/
def journalCommand (c : Cmd) (index : BitVec 16) (a : Accepted) (s : State) : State :=
  let r : Running :=
    { seq := s.book.next, pair := c.pair, index := index, opcode := c.opcode, parcel := c.parcel, tag := c.tag, version := a.version
      acceptedAt := s.clock, result := a.result, ending := a.ending, ready := a.ready }
  State.setMailbox (fun m => { m with running := m.running ++ [r] }) (appendEntry (bookEntry c a s) s)

/-- The pairs that an accepted command gives work: the homes of the record it changes (R16, R128), and those its effect works on. -/
def State.acceptPairs (s : State) (a : Accepted) : List Nat :=
  let l := a.object % 65536
  (if a.objKind = 1 ∨ a.objKind = 2 ∨ a.objKind = 3 ∨ a.objKind = 5 then [s.physical l, s.physical (l + Config.half)] else []) ++
  s.commandPairs a.ending

/-- The command is accepted: it is journaled, and its effect begins (R304). A group it gives work starts its exit (R347). -/
def acceptCommand (c : Cmd) (index : BitVec 16) (a : Accepted) (s : State) : State :=
  a.effect s.book.next (workPairs (s.acceptPairs a) (journalCommand c index a s))

/-- The command at the head of a pair's ring is taken: CMD_HEAD passes it, and the pair has had its turn (R307, R309). -/
def takeCommand (n : Nat) (s : State) : State :=
  (s.setMailbox fun m => { m with lastServed := n, inBuffers := m.inBuffers.filter fun e => e.1 != (n, (s.pair n).cmdHead.toNat) }).setPair n
    fun p => { p with cmdHead := p.cmdHead + 1 }

/-- What a verdict does to a command that has been taken: a rejection or a read completes at once, an accepted command begins (R304). -/
def settleVerdict (c : Cmd) (index : BitVec 16) (v : CmdVerdict) (s : State) : State :=
  match v with
  | .reject status result => completeAtOnce c index status result 0 s
  | .read status result version write => completeAtOnce c index status result version (write s)
  | .accept a => acceptCommand c index a s

/-- A command row: the command at the head of the ring whose turn it is, if it is of the row's form, is taken, checked, and rejected,
read or accepted. Any other command waits (log 4). -/
def runCommand (form : Cmd → Bool) (own : Cmd → State → CmdVerdict) (c : Command) (s : State) : Host.Outcome State Fault Refusal :=
  guardUnit (c.pair < 64)
    (let d := s.loaded c
     if !s.takes c ∨ !form d then s
     else settleVerdict d (s.pair c.pair).cmdHead (verdictOf (commonChecks d s) (own d s)) (takeCommand c.pair s))

/-! ### Actions (R322, R123) -/

/-- Actions a part holds (R123). -/
def maxActions : Nat := 8192

/-- Streams exist from reset; a trigger names one that belongs to the parcel acted for (R322). -/
def Cmd.streamOk (c : Cmd) (s : State) : Bool := (s.stream c.trigger.stream).parcel == c.parcel

/-- No room for one more action of the parcel (R123, R371). -/
def noActionRoom (parcel : Nat) (s : State) : Bool :=
  s.actions.length ≥ maxActions ||
  (s.actions.filter fun a => a.parcel = parcel).length ≥ ((s.parcel parcel).map (·.plat.actionQuota)).getD 0

/-- An ordinal no action of the part has; the spec leaves its value open (R123, log 6). -/
def State.freshOrdinal (s : State) : BitVec 32 :=
  let used := s.actions.map (·.ordinal) ++ s.fired.map (·.action.ordinal)
  let first : BitVec 32 := BitVec.ofNat 32 s.drawn
  (((List.range (used.length + 1)).map fun i => first + BitVec.ofNat 32 i).find? fun o => !used.contains o).getD first

/-- An action is created with a fresh ordinal (R123). -/
def addAction (parcel : Nat) (t : Trigger) (k : ActionKind) (s : State) : State :=
  State.draw 1 { s with actions := s.actions ++ [{ ordinal := s.freshOrdinal, parcel := parcel, trigger := t, kind := k }] }

/-- The action of an ordinal. -/
def State.action (s : State) (o : BitVec 32) : Option Action := s.actions.find? fun a => a.ordinal = o

/-- An action is deleted. -/
def dropAction (o : BitVec 32) (s : State) : State := { s with actions := s.actions.filter fun a => a.ordinal ≠ o }

end Sys2Proof.Machine
end

