-- ==== Sys2Proof/Machine/Records.lean ====
section
/-! DEFINITION. The records commands carry and QUERY returns, bit for bit: Tables 3.2, 3.4, 3.10, 5.2, 6.1, 7.2, 7.3, 7.5, 8.1, 8.2, 9.3,
9.6, 10.1, 11.5, 11.6, 15.9, 17.11. A reader of a buffered record ignores the fields whose Reset entry is not a dash, but for those only
the host can set: VALID of Tables 9.3 and 9.6 and BEARINGS of Table 8.1 (R327, log 33). -/
namespace Sys2Proof.Machine

/-- A Bool as a field value. -/
def bit (b : Bool) : Nat := if b then 1 else 0

/-! ### Traverses (Tables 3.2, 3.4) -/

def kindOf : Nat → Kind
  | 0 => .reduce
  | 1 => .broadcast
  | _ => .permute
def Kind.code : Kind → Nat
  | .reduce => 0
  | .broadcast => 1
  | .permute => 2
def positionOf : Nat → Position
  | 0 => .leaf
  | 1 => .interior
  | _ => .root
def Position.code : Position → Nat
  | .leaf => 0
  | .interior => 1
  | .root => 2
def rmodeOf : Nat → RMode
  | 0 => .lx96
  | 1 => .canon64
  | _ => .arrive
def RMode.code : RMode → Nat
  | .lx96 => 0
  | .canon64 => 1
  | .arrive => 2
def dmodeOf : Nat → DMode
  | 0 => .fixed
  | 1 => .survey
  | _ => .carried
def DMode.code : DMode → Nat
  | .fixed => 0
  | .survey => 1
  | .carried => 2
def roleOf : Nat → Role
  | 0 => .endpoint
  | 1 => .child
  | 2 => .region
  | _ => .dest
def Role.code : Role → Nat
  | .endpoint => 0
  | .child => 1
  | .region => 2
  | .dest => 3
/-- STATE of Table 3.5; FREE (0) has no record. -/
def TravState.code : TravState → Nat
  | .ready => 1
  | .active => 2
  | .closing => 3
/-- State codes of Table 3.6. -/
def GenPhase.code : GenPhase → Nat
  | .surveying => 0
  | .open_ => 1
  | .sent => 2
  | .aborting => 3
  | .complete => 4
  | .aborted => 5

/-- A member-table entry from its 16 bytes. -/
def memberOf (bs : Bytes) : Member :=
  let n := leNat (bs.take 16)
  { port := bitsAt n 0 8, role := roleOf (bitsAt n 8 2), rankFirst := bitsAt n 32 32, rankCount := bitsAt n 64 32, region := bitsAt n 96 32 }

/-- The 16 bytes of a member-table entry. -/
def Member.bytes (e : Member) : Bytes :=
  leBytes 16 (packFields [(0, 8, e.port), (8, 2, e.role.code), (32, 32, e.rankFirst), (64, 32, e.rankCount), (96, 32, e.region)])

/-- Entries of a member table laid one after another. -/
def membersOf : Nat → Bytes → List Member
  | 0, _ => []
  | n + 1, bs => memberOf bs :: membersOf n (bs.drop 16)

/-- Reserved bits of the entries are zero (R9, R327). -/
def membersZero : Nat → Bytes → Bool
  | 0, _ => true
  | n + 1, bs => bitsAt (leNat (bs.take 16)) 10 22 == 0 && membersZero n (bs.drop 16)

/-- The 16 BF16 entries of an expansion table. -/
def tableOf (n : Nat) : List (BitVec 16) := (List.range 16).map fun i => BitVec.ofNat 16 (bitsAt n (16 * i) 16)

/-- The expansion table as a number. -/
def tableNat (t : List (BitVec 16)) : Nat := packFields (t.zipIdx.map fun e => (16 * e.2, 16, e.1.toNat))

/-- MEMBER_ENTRIES and table expansion of a context record fix the buffer's length (R327). -/
def ctxLen (bs : Bytes) : Nat :=
  let n := leNat (bs.take 64)
  64 + 16 * bitsAt n 88 8 + (if bitsAt n 48 2 = 1 then 32 else 0)

/-- Reserved bits and reserved codes of a context record (Table 3.2). -/
def ctxZero (bs : Bytes) : Bool :=
  let n := leNat (bs.take 64)
  zeroIn n [(62, 2), (120, 8), (313, 7)] && bitsAt n 12 2 != 3 && bitsAt n 14 2 != 3 && bitsAt n 28 2 != 3 && bitsAt n 30 2 != 3 &&
  bitsAt n 48 2 != 3 && bitsAt n 56 2 != 3 && membersZero (bitsAt n 88 8) (bs.drop 64)

/-- TRAVERSE, NEXT_GEN and MEMBER_TABLE of a context record. -/
def ctxIndex (bs : Bytes) : Nat := bitsAt (leNat (bs.take 64)) 0 12
def ctxNextGen (bs : Bytes) : BitVec 32 := BitVec.ofNat 32 (bitsAt (leNat (bs.take 64)) 224 32)
def ctxMemberTable (bs : Bytes) : BitVec 32 := BitVec.ofNat 32 (bitsAt (leNat (bs.take 64)) 384 32)

/-- A context from the buffer of TRAVERSE_OPEN. -/
def ctxOf (bs : Bytes) : Ctx :=
  let n := leNat (bs.take 64)
  let m := bitsAt n 88 8
  { kind := kindOf (bitsAt n 12 2), position := positionOf (bitsAt n 14 2), fmtIn := bitsAt n 20 4, fmtOut := bitsAt n 24 4
    rmode := rmodeOf (bitsAt n 28 2), dmode := dmodeOf (bitsAt n 30 2), datum := signedOf 9 (bitsAt n 32 9), floor := bitsAt n 41 6
    sat := bitAt n 47, expand := bitsAt n 48 2, headroom := bitsAt n 50 4, linkValid := bitAt n 54, autoOpen := bitAt n 55
    report := bitsAt n 56 2, height := bitsAt n 58 4, parcel := bitsAt n 64 16, uptree := bitsAt n 80 8, timeoutUs := bitsAt n 96 24
    ranks := bitsAt n 128 32, seed := BitVec.ofNat 64 (bitsAt n 160 64), link := bitsAt n 288 12, tally := bitsAt n 300 12
    tallyValid := bitAt n 312, scale := BitVec.ofNat 32 (bitsAt n 320 32), zeroPoint := signedOf 8 (bitsAt n 352 8)
    shardChains := bitsAt n 360 24, memberTable := ctxMemberTable bs, entries := membersOf m (bs.drop 64)
    table := if bitsAt n 48 2 = 1 then tableOf (leNat ((bs.drop (64 + 16 * m)).take 32)) else [] }

/-- Context record and member table as QUERY returns them, for one of the traverse's contexts (R54). -/
def Traverse.bytes (t : Nat) (c : Ctx) (v : Traverse) : Bytes :=
  leBytes 64 (packFields [(0, 12, t), (12, 2, c.kind.code), (14, 2, c.position.code), (16, 4, v.state.code), (20, 4, c.fmtIn),
    (24, 4, c.fmtOut), (28, 2, c.rmode.code), (30, 2, c.dmode.code), (32, 9, unsignedOf 9 c.datum), (41, 6, c.floor), (47, 1, bit c.sat),
    (48, 2, c.expand), (50, 4, c.headroom), (54, 1, bit c.linkValid), (55, 1, bit c.autoOpen), (56, 2, c.report), (58, 4, c.height),
    (64, 16, c.parcel), (80, 8, c.uptree), (88, 8, c.entries.length), (96, 24, c.timeoutUs), (128, 32, c.ranks), (160, 64, c.seed.toNat),
    (224, 32, v.nextGen.toNat), (256, 32, v.oldestGen.toNat), (288, 12, c.link), (300, 12, c.tally), (312, 1, bit c.tallyValid),
    (320, 32, c.scale.toNat), (352, 8, unsignedOf 8 c.zeroPoint), (360, 24, c.shardChains), (384, 32, c.memberTable.toNat),
    (416, 32, v.version.toNat), (448, 32, v.aborted.toNat), (480, 32, v.completed.toNat)]) ++
  c.entries.flatMap Member.bytes

/-! ### Tallies (Table 3.10) -/

/-- Length of a TALLY_SET buffer (R327). -/
def tallyLen (bs : Bytes) : Nat := 32 + 16 * bitsAt (leNat (bs.take 32)) 48 16

/-- Reserved bits of a tally record and its entries; the two MODE codes above 1 are no mode. -/
def tallyZero (bs : Bytes) : Bool :=
  let n := leNat (bs.take 32)
  zeroIn n [(44, 4), (148, 12), (193, 31)] && bitsAt n 14 2 ≤ 1 && membersZero (bitsAt n 48 16) (bs.drop 32)

def tallyIndex (bs : Bytes) : Nat := bitsAt (leNat (bs.take 32)) 0 12

/-- A tally from its buffer. -/
def tallyOf (bs : Bytes) : Tally :=
  let n := leNat (bs.take 32)
  { genMode := bitsAt n 14 2 == 1, parcel := bitsAt n 16 16, uptree := bitsAt n 32 8, height := bitsAt n 40 4, timeoutUs := bitsAt n 112 24
    traverse := bitsAt n 136 12, window := bitsAt n 160 11, suspectSet := bitsAt n 171 11, suspectClear := bitsAt n 182 11
    entries := membersOf (bitsAt n 48 16) (bs.drop 32) }

/-- Tally record, member table and last-arrival counts (Table 15.7). -/
def Tally.bytes (t : Nat) (y : Tally) : Bytes :=
  leBytes 32 (packFields [(0, 12, t), (12, 2, y.stateCode), (14, 2, bit y.genMode), (16, 16, y.parcel), (32, 8, y.uptree), (40, 4, y.height),
    (48, 16, y.expect), (64, 16, y.arrived.length), (80, 32, y.round.toNat), (112, 24, y.timeoutUs), (136, 12, y.traverse),
    (160, 11, y.window), (171, 11, y.suspectSet), (182, 11, y.suspectClear), (224, 32, y.timeouts.toNat)]) ++
  y.entries.flatMap Member.bytes ++ y.entries.flatMap fun e => leBytes 4 (y.lastCount e.port)

/-! ### Streams and coordinates (Tables 5.2, 15.1, 15.7) -/

def StreamState.code : StreamState → Nat
  | .off => 0
  | .unset => 1
  | .running => 2
  | .hold => 3

/-- A stream record. -/
def Stream.bytes (n pending : Nat) (x : Stream) : Bytes :=
  leBytes 64 (packFields [(0, 6, n), (6, 2, x.state.code), (8, 8, x.ingressPort), (16, 1, bit x.pin), (32, 16, x.parcel),
    (48, 16, x.originPart), (64, 8, x.originPort), (72, 24, x.timeoutUs), (96, 40, x.coord.step), (136, 16, x.coord.layer),
    (152, 4, x.coord.phase), (156, 12, x.coord.sub), (168, 32, x.markNo.toNat), (200, 16, x.backRej), (216, 16, x.skipRej),
    (232, 16, x.srcRej), (248, 16, x.conflict), (264, 32, x.repeats), (296, 16, x.timeouts), (312, 16, pending),
    (336, 32, x.version.toNat), (384, 128, x.relay.toNat)])

/-- A trigger block (Table 15.1) as a number. -/
def Trigger.nat (t : Trigger) : Nat :=
  packFields [(0, 6, t.stream), (6, 1, bit t.periodic), (8, 1, bit t.anyStep), (9, 1, bit t.anyLayer), (10, 1, bit t.anyPhase),
    (11, 1, bit t.anySub), (12, 4, t.coord.phase), (16, 12, t.coord.sub), (32, 16, t.coord.layer), (48, 40, t.coord.step)]

/-- Action kinds in the order of Table 5.3. -/
def ActionKind.code : ActionKind → Nat
  | .plat .. => 1
  | .remap .. => 2
  | .warmAdmit .. => 3
  | .wake .. => 4
  | .prefetch .. => 5
  | .audit .. => 6
  | .handover .. => 7

/-- The 32 bytes of an action (Table 15.7). -/
def Action.bytes (a : Action) : Bytes :=
  leBytes 32 (packFields [(0, 32, a.ordinal.toNat), (32, 8, a.kind.code), (64, 128, a.trigger.nat)])

/-! ### Regions (Table 6.1) -/

/-- Reserved bits of a region record. -/
def regionZero (bs : Bytes) : Bool := zeroIn (leNat (bs.take 128)) [(60, 4), (69, 3), (264, 8), (328, 8), (736, 32)]

/-- A region from its record. -/
def regionOf (bs : Bytes) : Region :=
  let n := leNat (bs.take 128)
  let w (lo : Nat) : BitVec 32 := BitVec.ofNat 32 (bitsAt n lo 32)
  { parcel := bitsAt n 32 16, kind := bitsAt n 48 4, int4 := bitAt n 52, mirror := bitAt n 53, nesterov := bitAt n 54
    gradValid := bitAt n 55, base := bitsAt n 64 5, gradTraverse := bitsAt n 72 12, normSet := bitsAt n 84 4
    normD := signedOf 9 (bitsAt n 88 9), normF := bitsAt n 97 6, accType := bitsAt n 103 2, scatterD := signedOf 9 (bitsAt n 105 9)
    scatterF := bitsAt n 114 6, tensor := w 128, elemFirst := bitsAt n 160 64, count := bitsAt n 224 40
    gradElemFirst := bitsAt n 272 56, layer := bitsAt n 336 16, beta1 := w 384, omb1 := w 416, beta2 := w 448, omb2 := w 480
    eps := w 512, wd := w 544, table := tableOf (bitsAt n 768 256) }

/-- The fields a LEDGER_ALLOC may change (R136), set to those of another region. -/
def Region.tuned (r new : Region) : Region :=
  { r with beta1 := new.beta1, omb1 := new.omb1, beta2 := new.beta2, omb2 := new.omb2, eps := new.eps, wd := new.wd,
           normSet := new.normSet, normD := new.normD, normF := new.normF }

/-- The fields a LEDGER_ALLOC may not change. -/
def Region.fixedPart (r : Region) : List Nat :=
  [r.parcel, r.kind, bit r.int4, bit r.mirror, bit r.nesterov, bit r.gradValid, r.base, r.gradTraverse, r.accType, unsignedOf 9 r.scatterD,
   r.scatterF, r.tensor.toNat, r.elemFirst, r.count, r.gradElemFirst, r.layer, tableNat r.table]

/-- The generations PENDING counts, oldest first (R141). -/
def Region.pendingGens (r : Region) : List (BitVec 32) := r.pendingSlots.map (·.2.gen)

/-- The 128 bytes of a region record. -/
def Region.bytes (slot : Nat) (poisoned : Nat) (r : Region) : Bytes :=
  let p := r.pendingGens
  leBytes 128 (packFields [(0, 32, r.handle slot), (32, 16, r.parcel), (48, 4, r.kind), (52, 1, bit r.int4), (53, 1, bit r.mirror),
    (54, 1, bit r.nesterov), (55, 1, bit r.gradValid), (56, 2, r.stateCode), (58, 2, p.length), (64, 5, r.base), (72, 12, r.gradTraverse),
    (84, 4, r.normSet), (88, 9, unsignedOf 9 r.normD), (97, 6, r.normF), (103, 2, r.accType), (105, 9, unsignedOf 9 r.scatterD),
    (114, 6, r.scatterF), (120, 8, r.grantees.length), (128, 32, r.tensor.toNat), (160, 64, r.elemFirst), (224, 40, r.count),
    (272, 56, r.gradElemFirst), (336, 16, r.layer), (352, 32, r.lastSrGen.toNat), (384, 32, r.beta1.toNat), (416, 32, r.omb1.toNat),
    (448, 32, r.beta2.toNat), (480, 32, r.omb2.toNat), (512, 32, r.eps.toNat), (544, 32, r.wd.toNat), (576, 32, r.applied.toNat),
    (608, 32, r.version.toNat), (640, 32, (p.getD 0 0).toNat), (672, 32, (p.getD 1 0).toNat), (704, 32, poisoned),
    (768, 256, tableNat r.table)])

/-! ### Bases and bindings (Tables 7.2, 7.3, 7.5) -/

def BasisState.code : BasisState → Nat
  | .empty => 0
  | .loading => 1
  | .ready => 2

/-- BINDINGS of a slot (R181). -/
def State.bindingsOf (s : State) (slot : Nat) : Nat :=
  s.bindings.foldl (fun a e =>
    a + bit (e.2.valid && e.2.slot == slot) + bit (e.2.prevValid && e.2.prevSlot == slot)) 0

/-- A basis slot record. -/
def Basis.bytes (slot bindings : Nat) (b : Basis) : Bytes :=
  leBytes 128 (packFields ([(0, 3, slot), (3, 2, b.state.code), (8, 2, b.widthCode), (16, 8, b.rank), (32, 16, b.parcel), (48, 16, bindings),
    (64, 32, b.crc.toNat), (96, 32, b.version.toNat)] ++ b.sc.zipIdx.map fun e => (128 + 4 * e.2, 4, e.1)))

/-- A projection binding record. -/
def Binding.bytes (t : Nat) (b : Binding) : Bytes :=
  leBytes 16 (packFields [(0, 12, t), (12, 1, bit b.valid), (13, 1, bit b.prevValid), (16, 3, b.slot), (19, 1, bit b.recon),
    (20, 3, b.prevSlot), (23, 1, bit b.prevRecon), (32, 32, b.firstGen.toNat), (64, 32, b.version.toNat)])

/-- A projection repair record of a ledger die. -/
def repairBytes (d : LedgerDie) : Bytes :=
  leBytes 16 (packFields (d.spares.zipIdx.map (fun e => (2 * e.2, 2, e.1)) ++
    [(64, 1, bit (d.spares.all (· ≠ 3))), (72, 8, d.softRepairs), (96, 32, d.projClosure)]))

/-! ### Phase plats and plats (Tables 8.1, 8.2, 17.11) -/

/-- A bearing from its 32 bytes. -/
def bearingOf (n : Nat) : Bearing :=
  { axis := bitsAt n 4 3, minus := bitAt n 7, spray := bitAt n 8, peer := bitsAt n 16 16
    weights := [bitsAt n 32 8, bitsAt n 40 8, bitsAt n 48 8, bitsAt n 56 8], ports := BitVec.ofNat 128 (bitsAt n 64 128) }

def platSlot (bs : Bytes) (i : Nat) : Nat := leNat ((bs.drop (16 + 32 * i)).take 32)

/-- Reserved bits of a phase plat's header and of its 16 slots. -/
def phaseZero (bs : Bytes) : Bool :=
  zeroIn (leNat (bs.take 16)) [(19, 5), (29, 3), (96, 32)] &&
  (List.range 16).all fun i => zeroIn (platSlot bs i) [(9, 7), (192, 64)]

def phaseParcel (bs : Bytes) : Nat := bitsAt (leNat (bs.take 16)) 0 16
def phaseIndex (bs : Bytes) : Nat := bitsAt (leNat (bs.take 16)) 16 2
def phaseCount (bs : Bytes) : Nat := bitsAt (leNat (bs.take 16)) 24 5

/-- The bearings in use of a phase plat's buffer. -/
def bearingsOf (bs : Bytes) : List Bearing := (List.range (min 16 (phaseCount bs))).map fun i => bearingOf (platSlot bs i)

/-- A bearing slot. -/
def Bearing.bytes (i : Nat) (b : Bearing) : Bytes :=
  leBytes 32 (packFields [(0, 4, i), (4, 3, b.axis), (7, 1, bit b.minus), (8, 1, bit b.spray), (16, 16, b.peer), (32, 8, b.weights.getD 0 0),
    (40, 8, b.weights.getD 1 0), (48, 8, b.weights.getD 2 0), (56, 8, b.weights.getD 3 0), (64, 128, b.ports.toNat)])

/-- The 528 bytes of a phase plat; unused slots are zero. -/
def PhasePlat.bytes (parcel index : Nat) (selected : Bool) (p : PhasePlat) : Bytes :=
  leBytes 16 (packFields [(0, 16, parcel), (16, 2, index), (18, 1, bit selected), (24, 5, p.bearings.length), (32, 32, p.version.toNat),
    (64, 32, p.selects.toNat)]) ++
  (p.bearings.zipIdx.flatMap fun e => Bearing.bytes e.2 e.1) ++ List.replicate (32 * (16 - p.bearings.length)) 0

/-- Reserved bits of a plat. -/
def platZero (bs : Bytes) : Bool := zeroIn (leNat (bs.take 160)) [(16, 16), (257, 7), (272, 16), (368, 16), (1152, 128)]

/-- A plat from its buffer. -/
def platOf (bs : Bytes) : Plat :=
  let n := leNat (bs.take 160)
  { flows := BitVec.ofNat 64 (bitsAt n 64 64), ports := BitVec.ofNat 128 (bitsAt n 128 128), mirrorOk := bitAt n 256
    basisSlots := BitVec.ofNat 8 (bitsAt n 264 8), ledgerGb := bitsAt n 288 32, regionQuota := bitsAt n 320 16
    actionQuota := bitsAt n 336 16, grantQuota := bitsAt n 352 16, consentKey := BitVec.ofNat 768 (bitsAt n 384 768) }

/-- The 160 bytes of a plat. -/
def Plat.bytes (parcel : Nat) (version : BitVec 32) (p : Plat) : Bytes :=
  leBytes 160 (packFields [(0, 16, parcel), (32, 32, version.toNat), (64, 64, p.flows.toNat), (128, 128, p.ports.toNat),
    (256, 1, bit p.mirrorOk), (264, 8, p.basisSlots.toNat), (288, 32, p.ledgerGb), (320, 16, p.regionQuota), (336, 16, p.actionQuota),
    (352, 16, p.grantQuota), (384, 768, p.consentKey.toNat)])

/-- The parcel record of Table 15.7 in 32 bytes, then the plat (log 34). -/
def Parcel.bytes (n : Nat) (p : Parcel) : Bytes :=
  leBytes 32 (packFields [(0, 16, n), (64, 64, p.pairs.toNat), (128, 64, p.nondet), (192, 32, p.version.toNat)]) ++ p.plat.bytes n p.version

/-! ### Routes, mirrors, queues, ports (Tables 9.3, 9.6, 10.1, 11.5, 11.6) -/

/-- Reserved bits of a destination-table entry. -/
def destZero (n : Nat) : Bool := zeroIn n [(4, 12), (191, 65)]

/-- A destination-table entry from its 32 bytes; EPOCH is the part's. -/
def destOf (n : Nat) : DestEntry :=
  { valid := bitAt n 0, mcast := bitAt n 1, parcel := bitsAt n 16 16, ports := BitVec.ofNat 128 (bitsAt n 32 128)
    internal := BitVec.ofNat 31 (bitsAt n 160 31) }

/-- The 32 bytes of an entry. -/
def DestEntry.bytes (e : DestEntry) : Bytes :=
  leBytes 32 (packFields [(0, 1, bit e.valid), (1, 1, bit e.mcast), (2, 2, e.epoch), (16, 16, e.parcel), (32, 128, e.ports.toNat),
    (160, 31, e.internal.toNat)])

/-- A mirror session from its 16 bytes. -/
def mirrorOf (n : Nat) : Mirror :=
  { valid := bitAt n 4, match_ := bitsAt n 5 2, port := bitsAt n 8 8, parcel := bitsAt n 16 16, srcPart := bitsAt n 32 16
    srcPort := bitsAt n 48 8, flow := bitsAt n 56 8 }

/-- A mirror session record. -/
def Mirror.bytes (i : Nat) (m : Mirror) : Bytes :=
  leBytes 16 (packFields [(0, 4, i), (4, 1, bit m.valid), (5, 2, m.match_), (8, 8, m.port), (16, 16, m.parcel), (32, 16, m.srcPart),
    (48, 8, m.srcPort), (56, 8, m.flow), (64, 32, m.copies.toNat), (96, 32, m.drops.toNat)])

/-- A queue record (Table 10.1). -/
def queueBytes (s : State) (q : Nat) : Bytes :=
  let x := s.xbar.queue q
  let active := !x.descs.isEmpty
  leBytes 16 (packFields [(0, 8, queuePort q), (8, 3, queueVc q), (16, 8, queueClass q), (24, 1, bit active),
    (32, 16, (s.classParcel (queuePort q) (queueClass q)).getD 0xFFFF), (48, 16, if active then queueWeight s q else 0),
    (64, 22, s.queueDepth q), (96, 24, unsignedOf 24 x.deficit)])

def PortState.code : PortState → Nat
  | .off => 0
  | .idle => 1
  | .training => 2
  | .up => 3

/-- Port record (Table 11.5), then lane record (Table 11.6). -/
def portBytes (s : State) (p : Nat) : Bytes :=
  let x := s.port p
  let c (n : Nat) : Nat := s.counter n p
  leBytes 64 (packFields [(0, 2, x.state.code), (2, 3, x.step), (5, 1, bit x.ckReversed), (8, 8, x.polarity.toNat), (16, 24, x.laneMap.toNat),
    (40, 4, x.lastFail), (44, 4, x.failStep), (48, 16, c Counter.trainFail), (64, 16, c Counter.linkDown), (80, 16, c Counter.lcwErr),
    (96, 16, c Counter.identUpdate), (112, 16, c Counter.truncErr), (128, 192, x.neighbour.toNat), (320, 64, x.upTime.toNat)]) ++
  leBytes 36 (packFields ((List.range 9).flatMap fun k =>
    [(32 * k, 16, s.counter Counter.losCount (9 * p + k)), (32 * k + 16, 16, s.counter Counter.lolCount (9 * p + k))]))

/-! ### The part record (Table 15.9) -/

/-- GRADE of DEV_ID: 1 where ledger pairs are fused off, as on the LV-X128-28 (Table 14.2, R3). -/
def State.grade (s : State) : Nat := if s.trust.disabledPairs = 0 then 0 else 1

/-- FAILED_PAIRS: failed in service, or failed at the last reset test (R386, R388). -/
def State.pairOut (s : State) (i : Nat) : Bool :=
  s.pairFailed i || (!s.placement.usable.contains i && !s.trust.disabledPairs.getLsbD i)

/-- The 496 bytes of the part record. -/
def partRecord (s : State) : Bytes :=
  let x := s.xbar
  let bits (f : Nat → Bool) : Nat := packFields ((List.range 30).map fun i => (i, 1, bit (f i)))
  leBytes 16 (packFields [(0, 4, Config.memberCode), (4, 4, s.grade), (8, 1, bit x.threeSlice), (9, 2, if x.threeSlice then x.failed.headD 0 else 0),
    (16, 5, s.placement.journal0), (21, 5, s.placement.journal1), (32, 30, s.trust.disabledPairs.toNat), (64, 30, bits s.pairOut),
    (96, 30, bits s.mapoutPending)]) ++
  ((List.range 30).flatMap fun i => leBytes 8 (s.freeBytes i)) ++
  ((List.range 30).flatMap fun i => leBytes 8 (packFields ((s.stack i).declared.map fun k => (k, 1, 1))))

end Sys2Proof.Machine
end

