-- ==== Sys2Proof/Machine/Reads.lean ====
section
/-! DEFINITION. The two reads, QUERY (Table 15.7, R328, R330) and FIELDBOOK_READ (R318). -/
namespace Sys2Proof.Machine

/-- What a QUERY kind returns: the bytes, whether the parcel acted for may read them, and the object's version (R306). -/
structure Answer where
  bytes : Bytes
  allowed : Bool
  version : Option (BitVec 32) := none

/-- Instances of a counter, and none where the number is no counter's (Table 15.10); 0 stands for the part as a whole. -/
def counterScope (n : Nat) : Option Nat :=
  if 0x01 ≤ n ∧ n ≤ 0x10 then some 128
  else if n = 0x20 ∨ n = 0x21 then some 1152
  else if 0x30 ≤ n ∧ n ≤ 0x34 then some 32
  else if n = 0x40 then some 4
  else if 0x50 ≤ n ∧ n ≤ 0x5A then some 30
  else if n = 0x60 ∨ n = 0x61 then some 1920
  else if 0x70 ≤ n ∧ n ≤ 0x79 then some 4096
  else if n = 0x80 then some 4096
  else if 0x90 ≤ n ∧ n ≤ 0x9A then some 0
  else none

/-- Values of a counter from an instance to the last of its scope; an owner that is not parcel 0 reads the one instance it owns (log 34). -/
def counterAnswer (s : State) (parcel n first : Nat) : Option Answer :=
  (counterScope n).bind fun k =>
    if k = 0 then some { bytes := leBytes 8 (s.counter n partWide), allowed := parcel = 0 }
    else if first ≥ k then none
    else if parcel = 0 then some { bytes := (List.range (k - first)).flatMap fun i => leBytes 8 (s.counter n (first + i)), allowed := true }
    else
      let own := if 0x70 ≤ n ∧ n ≤ 0x79 then (s.traverse first).map (·.ctx.parcel) else if n = 0x80 then (s.tally first).map (·.parcel) else none
      some { bytes := leBytes 8 (s.counter n first), allowed := own = some parcel }

/-- Both versions of a destination entry, the current one first; an index without an earlier version still held shows an entry of zeros.
INDEX 0xFFFF_FFFF gives E, the four in-flight counts and the staged count as 32-bit words (R246, log 34). -/
def destAnswer (s : State) (i : Nat) : Option Bytes :=
  let r := s.routes
  if i = 0xFFFFFFFF then
    some (leBytes 24 (packFields [(0, 32, r.epoch), (32, 32, r.ordered), (64, 32, r.other), (96, 32, r.prevOrdered), (128, 32, r.prevOther),
      (160, 32, r.staged.length)]))
  else if i < 65536 then some (((tget i r.current).getD {}).bytes ++ ((tget i r.previous).getD {}).bytes)
  else none

/-- A mirror session record, or the part settings in the layout of MIRROR_SET's arguments (Table 15.6, log 34). -/
def mirrorAnswer (s : State) (i : Nat) : Option (Bytes × Nat × BitVec 32) :=
  let m := s.monitor
  if i < 15 then
    let x := m.sessions.getD i {}
    some (x.bytes i, x.parcel, x.version)
  else if i = 15 then
    some (leBytes 16 (packFields [(0, 4, 15), (8, 8, m.analysisPort), (32, 32, m.limit), (64, 16, m.collectorPart), (80, 8, m.collectorPort),
      (96, 32, m.periodUs)]), 0, m.version)
  else none

/-- The verdict record of a generation: its abort record and its state. Where no cause is recorded the abort record names the generation
with CAUSE 0, as that of DONE does (log 75). -/
def verdictAnswer (s : State) (t : Nat) (v : Traverse) (g : BitVec 32) : Option Bytes :=
  match v.gen? g with
  | some x =>
    let head := match x.record with
      | some r => r.bytes
      | none => match v.verdicts.find? fun w => w.gen = g with
        | some w => w.record.bytes
        | none => (doneRec t g s.number).bytes
    some (head ++ leBytes 1 x.phase.code)
  | none => (v.verdicts.find? fun w => w.gen = g).map fun w => w.record.bytes ++ leBytes 1 w.phase.code

/-- PENDING of a stream: its actions not yet fired (Table 5.2). -/
def State.pendingActions (s : State) (n : Nat) : Nat := (s.actions.filter fun a => a.trigger.stream = n).length

/-- The answer to a QUERY; none where the kind or the object does not exist. -/
def answer (s : State) (parcel kind i sub : Nat) : Option Answer :=
  match kind with
  | 0x01 => (s.traverse i).bind fun v =>
      let c := if sub = 0 then some v.ctx else if sub = 1 then v.prev.map (·.1) else none
      c.map fun c => { bytes := v.bytes i c, allowed := v.ctx.parcel = parcel, version := some v.version }
  | 0x02 => (s.traverse i).bind fun v =>
      (verdictAnswer s i v (w32 sub)).map fun b => { bytes := b, allowed := v.ctx.parcel = parcel, version := some v.version }
  | 0x03 => (s.tally i).map fun y => { bytes := y.bytes i, allowed := y.parcel = parcel, version := some y.version }
  | 0x04 =>
    if i < 64 then
      let x := s.stream i
      some { bytes := x.bytes i (s.pendingActions i), allowed := x.parcel = parcel, version := some x.version }
    else none
  | 0x05 => (s.regionAt i).map fun r =>
      { bytes := r.2.bytes r.1 (s.poisonedUnits r.2), allowed := r.2.parcel = parcel || r.2.grantees.contains parcel, version := some r.2.version }
  | 0x06 =>
    if i < 8 then
      let b := s.bases.getD i {}
      some { bytes := b.bytes i (s.bindingsOf i), allowed := b.parcel = parcel, version := some b.version }
    else none
  | 0x07 => (s.traverse i).map fun v =>
      let b := s.binding i
      { bytes := b.bytes i, allowed := v.ctx.parcel = parcel, version := some b.version }
  | 0x08 =>
    if sub < 4 then (s.parcel i).map fun p =>
      let x := p.phases.getD sub {}
      { bytes := x.bytes i sub (p.selected == sub), allowed := i = parcel, version := some x.version }
    else none
  | 0x09 => (destAnswer s i).map fun b => { bytes := b, allowed := parcel = 0, version := some s.routes.version }
  | 0x0A => (mirrorAnswer s i).map fun m => { bytes := m.1, allowed := m.2.1 = parcel, version := some m.2.2 }
  | 0x0B =>
    if i < 262144 then some { bytes := queueBytes s i, allowed := parcel = 0 || s.granted parcel (queuePort i) (queueClass i) } else none
  | 0x0C =>
    if i < 128 then
      some { bytes := portBytes s i, allowed := parcel = 0 || ((s.parcel parcel).map fun p => p.plat.ports.getLsbD i).getD false }
    else none
  | 0x0D => some { bytes := poolRecord s, allowed := parcel = 0 }
  | 0x0E => if i < 30 then some { bytes := repairBytes (s.die i), allowed := parcel = 0 } else none
  | 0x0F => (s.parcel i).map fun p => { bytes := p.bytes i, allowed := i = parcel, version := some p.version }
  | 0x10 => some { bytes := partRecord s, allowed := true }
  | 0x11 => counterAnswer s parcel i sub
  | 0x12 => (s.action (w32 i)).map fun a => { bytes := a.bytes, allowed := a.parcel = parcel, version := some a.version }
  | _ => none

/-- Bytes go to the place the host block names, unless the bus fails (R323). -/
def putHost (c : Cmd) (bs : Bytes) (s : State) : State := if c.dataOk then writeHost c.pair c.addr c.ring bs s else s

/-- The checks and effect of QUERY. -/
def queryVerdict (c : Cmd) (s : State) : CmdVerdict :=
  match verdictOf (firstChecks c 0 s) (.read 0 0 0 id), answer s c.parcel (c.arg 0 8) (c.arg 32 32) (c.arg 64 32) with
  | .reject st r, _ => .reject st r
  | _, none => .reject Status.badArg 0
  | _, some a =>
    verdictOf
      [(c.len < a.bytes.length, Status.badArg), (!a.allowed, Status.denied),
       ((a.version.map c.staleUse).getD false, Status.stale)]
      (.read (if c.dataOk then Status.ok else Status.closure) (packFields [(0, 32, if c.dataOk then a.bytes.length else 0), (32, 32, (a.version.getD 0).toNat)])
        (a.version.getD 0) fun s => putHost c a.bytes s)

/-- QUERY; also every command whose opcode Table 15.3 does not hold, which R305 rejects. -/
def execQuery (c : Command) (s : State) : Host.Outcome State Fault Refusal :=
  runCommand (fun d => d.opcode = 1 ∨ (argBits d.opcode).isNone) queryVerdict c s

/-! ### FIELDBOOK_READ (R318) -/

/-- The parcel sees an entry of these bytes whole. -/
def entryVisible (parcel : Nat) (bs : Bytes) : Bool :=
  let e := leNat (bs.take 24)
  parcel == 0 || bitsAt e 160 16 == parcel || bitsAt e 176 16 == parcel || (bitsAt e 64 8 == 2 && bitsAt e 160 16 == 0xFFFF)

/-- An entry as a parcel reads it: whole, or KIND 3 with SEQ alone. -/
def shownEntry (parcel : Nat) (bs : Bytes) : Bytes :=
  if entryVisible parcel bs then bs else leBytes 1024 (packFields [(0, 64, leNat (bs.take 8)), (64, 8, 3)])

/-- The entries a read copies, as their bytes: from `first` on, at most `n`, up to the first that no copy gives (R316, R318). -/
def State.bookRun (s : State) (first n : Nat) : List Bytes :=
  ((((s.book.entries.filter fun e => first ≤ e.seq).take n).map s.entryBytes).takeWhile (·.isSome)).filterMap id

/-- The checks and effect of FIELDBOOK_READ. -/
def fieldbookVerdict (c : Cmd) (s : State) : CmdVerdict :=
  let first := c.arg 0 64
  let n := c.arg 64 13
  let b := s.book
  let es := s.bookRun first n
  let cut := es.length < n ∧ first + es.length < b.next
  let result := packFields [(0, 32, if c.dataOk then es.length else 0), (64, 64, b.oldest)]
  match verdictOf (firstChecks c 0 s ++ [(decide (n = 0 ∨ n > 4096 ∨ c.len < 1024 * n), Status.badArg)]) (.read 0 0 0 id) with
  | .reject st r => .reject st r
  | _ =>
    if first < b.oldest ∨ !b.kept then .reject Status.lost (packFields [(64, 64, b.oldest)])
    else .read (if !c.dataOk then Status.closure else if cut then Status.lost else Status.ok) result 0
      fun s => putHost c (es.flatMap (shownEntry c.parcel)) (forEach ((s.book.entries.filter fun e => first ≤ e.seq).take n) (fun e s =>
        match s.bookCopies with
        | x :: _ => decodeCount x.2 (bookAt e.seq / 2048) false s
        | [] => s) s)

/-- FIELDBOOK_READ. -/
def execFieldbookRead (c : Command) (s : State) : Host.Outcome State Fault Refusal :=
  runCommand (fun d => d.opcode = 2) fieldbookVerdict c s

end Sys2Proof.Machine
end

