-- ==== Sys2Proof/Machine/Images.lean ====
section
/-! DEFINITION. Firmware images, slot-state records and the trust die's checks (R359-R361, R364), and who may debug (R374, R375). -/
namespace Sys2Proof.Machine

/-! ### Images (Table 17.5) -/

/-- The header of an image; flash that nothing was programmed into reads as ones (log 13). -/
def imageHeader (img : Bytes) : Nat := leNat ((img ++ List.replicate 1024 0xFF#8).take 1024)

/-- A field of the header. -/
def imageField (img : Bytes) (lo w : Nat) : Nat := bitsAt (imageHeader img) lo w

def imageLen (img : Bytes) : Nat := imageField img 64 32
def hoAccept (img : Bytes) : Nat := imageField img 96 16
def hoWrite (img : Bytes) : Nat := imageField img 112 16
def securityVersion (img : Bytes) : Nat := imageField img 16 8

/-- Bytes `[lo, lo + n)` of an image. -/
def imagePart (img : Bytes) (lo n : Nat) : Bytes := (img.drop lo).take n

/-- What both signatures cover: header bytes 0 to 223, then the body (R360). -/
def signedPart (img : Bytes) : Bytes := imagePart img 0 224 ++ imagePart img 1024 (imageLen img)

/-- FAIL_CODE of an image under the fuses and the lifecycle in effect, in the order of Table 17.6; 0 where it passes. -/
def checkImage (t : Trust) (img : Bytes) : Nat :=
  let n := imageHeader img
  let key := imageField img 24 2
  let owner := imagePart img 128 96
  if bitsAt n 0 16 ≠ 1 ∨ imageLen img = 0 ∨ imageLen img > 8387584 ∨ img.length < 1024 + imageLen img ∨
      !zeroIn n [(29, 3), (36, 28), (152, 104), (3328, 4864)] then 0x02
  else if beNat (sha384 (imagePart img 32 96)) ≠ t.vendorDigest.getD key 0 then 0x03
  else if t.vendorRevoke.getLsbD key then 0x04
  else if !verifies (imagePart img 32 96) (imagePart img 224 96) (signedPart img) then 0x05
  else if t.lifecycle == .deployed && (match t.ownerDigest with
      | none => false
      | some d => imageField img 26 1 = 0 || beNat (sha384 owner) != d || !verifies owner (imagePart img 320 96) (signedPart img)) then 0x06
  else if securityVersion img < t.svCount then 0x07
  else 0

/-! ### Slots and slot-state records (R359) -/

/-- The image in a slot: false A, true B. -/
def Boot.image (b : Boot) (slotB : Bool) : Bytes := if slotB then b.slotB_image else b.slotA_image

/-- The running image. -/
def Boot.runningImage (b : Boot) : Bytes := b.image b.slotB

/-- A slot-state record has a good CRC. -/
def stateGood (r : BitVec 128) : Bool := bitsAt r.toNat 96 32 == crc32c (leBytes 12 r.toNat)

/-- The copy a reader takes: 0, 1, or none where neither is good. -/
def Boot.stateCopy (b : Boot) : Option Bool :=
  match stateGood b.state0, stateGood b.state1 with
  | true, true => some (bitsAt b.state0.toNat 0 32 < bitsAt b.state1.toNat 0 32)
  | true, false => some false
  | false, true => some true
  | false, false => none

/-- SEQNO, PREFERRED, VALID_A and VALID_B in force; with no good copy slot A is preferred and both are valid. -/
def Boot.slotState (b : Boot) : Nat × Bool × Bool × Bool :=
  match b.stateCopy with
  | none => (0, false, true, true)
  | some one =>
    let n := (if one then b.state1 else b.state0).toNat
    (bitsAt n 0 32, bitAt n 32, bitAt n 33, bitAt n 34)

/-- The slot is marked valid. -/
def Boot.validSlot (b : Boot) (slotB : Bool) : Bool := if slotB then b.slotState.2.2.2 else b.slotState.2.2.1

/-- Writes a new slot-state record into the other copy, with SEQNO + 1 (R359). -/
def Boot.writeState (preferredB validA validB : Bool) (b : Boot) : Boot :=
  let n := packFields [(0, 32, b.slotState.1 + 1), (32, 1, bit preferredB), (33, 1, bit validA), (34, 1, bit validB)]
  let r : BitVec 128 := BitVec.ofNat 128 (n + (crc32c (leBytes 12 n)) <<< 96)
  if b.stateCopy = some false then { b with state1 := r } else { b with state0 := r }

/-- One slot's VALID bit in a new record. -/
def Boot.markSlot (slotB valid : Bool) (b : Boot) : Boot :=
  let st := b.slotState
  b.writeState st.2.1 (if slotB then st.2.2.1 else valid) (if slotB then valid else st.2.2.2)

/-- Version of a firmware slot (R306). -/
def Boot.slotVersion (b : Boot) (slotB : Bool) : BitVec 32 := if slotB then b.versionB else b.versionA

/-- The slot's version rises. -/
def Boot.raiseSlot (slotB : Bool) (b : Boot) : Boot :=
  if slotB then { b with versionB := b.versionB + 1 } else { b with versionA := b.versionA + 1 }

/-- The end of FW_STAGE (R364): the status it completes with. The verified copy lies on the journal pairs that work. -/
def stageImage (slotB : Bool) (crc : Nat) (img : Bytes) (busOk : Bool) (s : State) : State × Nat :=
  if !busOk ∨ crc32c img ≠ crc then (s, Status.closure)
  else if checkImage s.trust img ≠ 0 then ({ s with boot := s.boot.markSlot slotB false }, Status.closure)
  else
    let b := if slotB then { s.boot with slotB_image := img } else { s.boot with slotA_image := img }
    let kept := if s.book.kept then img else []
    ({ s with boot := { b.markSlot slotB true with verified := kept } }, Status.ok)

/-- An image reaches READY with COMMIT_SV: SV_COUNT rises to its version, and the vendor keys it revokes are revoked, but its own (R360). -/
def commitImage (img : Bytes) (t : Trust) : Trust :=
  if imageField img 27 1 = 0 then t
  else
    let own : BitVec 4 := BitVec.ofNat 4 (2 ^ imageField img 24 2)
    { t with svCount := max t.svCount (min 64 (securityVersion img))
             vendorRevoke := t.vendorRevoke ||| (BitVec.ofNat 4 (imageField img 32 4) &&& ~~~own) }

/-! ### Public keys and debug sessions -/

/-- The 96 bytes of a CONSENT_KEY name a point of P-384 (R6, R370). -/
def onCurve (key : Bytes) : Bool :=
  let q := littleHalves key
  q.1 < curveP && q.2 < curveP && (q.2 * q.2) % curveP == subP (q.1 * q.1 * q.1 + curveB) (3 * q.1)

/-- Debug levels obtainable in the lifecycle state in effect (Table 17.1). -/
def Trust.levelOk (t : Trust) : DebugLevel → Bool
  | .none => true
  | .telemetry => t.lifecycle != .returned || t.wipeDone
  | .parcel => t.lifecycle == .provisioned || t.lifecycle == .deployed
  | .full => t.lifecycle == .blank || (t.lifecycle == .returned && t.wipeDone)

/-- The session closes. -/
def closeDebug (s : State) : State :=
  { s with dbg := { s.dbg with level := .none, subject := 0xFFFF, subjectVersion := 0, notAfter := 0 } }

/-- A PARCEL session whose subject changed or went closes (R375). -/
def settleDebug (s : State) : State :=
  if s.dbg.level = .parcel ∧ (s.parcel s.dbg.subject).map (·.version) ≠ some s.dbg.subjectVersion then closeDebug s else s

end Sys2Proof.Machine
end

