-- ==== Sys2Proof/Machine/Configure.lean ====
section
/-! DEFINITION. Commands that configure the part: parcels (R369-R371), phase plats (R189-R194), routes (R221, R223, R245, R396), mirrors
(R214, R225), budgets (R349-R352), streams (R118), firmware slots (R364, R365) and debug sessions (R374). -/
namespace Sys2Proof.Machine

/-- The command must act for parcel 0 (rights Z of R324). -/
def Cmd.notZero (c : Cmd) : Bool := c.parcel != 0

/-! ### PARCEL_CREATE -/

def Cmd.target (c : Cmd) : Nat := c.arg 16 16
def Cmd.pairMask (c : Cmd) : BitVec 64 := BitVec.ofNat 64 (c.arg 64 64)

/-- Checks a plat's own bits (R370): reserved bits, and a CONSENT_KEY that is a point of P-384. -/
def platOk (bs : Bytes) : Bool :=
  platZero bs && ((platOf bs).consentKey = 0 || onCurve (leBytes 96 (platOf bs).consentKey.toNat))

/-- Another parcel holds a port with a flow in common, or a pair (R227, R370). -/
def State.platTaken (s : State) (target : Nat) (pl : Plat) (pairs : BitVec 64) : Bool :=
  (s.parcels.any fun e => e.1 != 0 && e.1 != target && e.2.plat.ports &&& pl.ports != 0 && e.2.plat.flows &&& pl.flows != 0) ||
  (List.range 64).any fun n => pairs.getLsbD n && (s.pair n).parcel != 0xFFFF && (s.pair n).parcel != target

/-- The pairs granted to a parcel become those of the mask; a pair it loses stops (R300, R309). -/
def grantPairs (target : Nat) (pairs : BitVec 64) (s : State) : State :=
  let s := forEach (List.range 64) (fun n s =>
    if pairs.getLsbD n then s.setPair n fun p => { p with parcel := target }
    else if (s.pair n).parcel = target then
      let s := if (s.pair n).active then stopPair n s else s
      s.setPair n fun p => { p with parcel := 0xFFFF }
    else s) s
  s.setParcel target fun p => { p with pairs := pairs }

/-- External ports and index of every traverse and tally of a parcel, as (index, ports) (R371). -/
def State.treePorts (s : State) (parcel : Nat) : List (Nat × List Nat) :=
  let ports (up : Nat) (es : List Member) : List Nat := (up :: es.map (·.port)).filter (· < 128)
  (s.traverses.filter fun e => e.2.ctx.parcel = parcel).flatMap (fun e =>
    (e.1, ports e.2.ctx.uptree e.2.ctx.entries) :: (match e.2.prev with
      | some c => [(e.1, ports c.1.uptree c.1.entries)]
      | none => [])) ++
  (s.tallies.filter fun e => e.2.parcel = parcel).map fun e => (e.1, ports e.2.uptree e.2.entries)

/-- External ports a parcel's objects use: of its trees, LOCAL bearings, streams and mirror sessions. -/
def State.portsUsed (s : State) (parcel : Nat) : List Nat :=
  let local_ := ((s.parcel parcel).map fun p => p.phases.flatMap fun x => (x.bearings.filter fun b => b.axis = 7).flatMap fun b => maskPorts b.ports).getD []
  let streams := ((List.range 64).map s.stream).filter fun x => x.parcel = parcel ∧ x.state ≠ .off
  let mirrors := s.monitor.sessions.filter fun m => m.valid ∧ m.parcel = parcel
  (s.treePorts parcel).flatMap (·.2) ++ local_ ++ streams.flatMap (fun x => (x.ingressPort :: maskPorts x.relay).filter (· < 128)) ++
  (mirrors.filter fun m => m.match_ < 2).map (·.port)

/-- Grants a parcel has given. -/
def State.grantsGiven (s : State) (parcel : Nat) : Nat :=
  s.regions.foldl (fun a e => if e.2.parcel = parcel then a + e.2.grantees.length else a) 0

/-- A new plat withdraws what an object of the parcel uses, or a quota falls below its use (R370). -/
def State.platNarrows (s : State) (target : Nat) (old new : Plat) : Bool :=
  let gonePorts := old.ports &&& ~~~new.ports
  let goneFlows := old.flows &&& ~~~new.flows
  let goneSlots := old.basisSlots &&& ~~~new.basisSlots
  ((s.portsUsed target).any fun p => gonePorts.getLsbD p) ||
  ((s.treePorts target).any fun e => goneFlows.getLsbD (e.1 / 16 % 64)) ||
  (s.bases.zipIdx.any fun b => b.1.state != .empty && b.1.parcel == target && goneSlots.getLsbD b.2) ||
  (old.mirrorOk && !new.mirrorOk && s.monitor.sessions.any fun m => m.valid && m.parcel == target) ||
  (new.ledgerGb != 0xFFFFFFFF && s.ledgerBytes target > new.ledgerGb * 2 ^ 30) ||
  (s.regions.filter fun e => e.2.parcel = target).length > new.regionQuota ||
  (s.actions.filter fun a => a.parcel = target).length > new.actionQuota || s.grantsGiven target > new.grantQuota

/-- An object of the parcel is not FREE (Table 15.6, REMOVE). -/
def State.parcelBusy (s : State) (p : Nat) : Bool :=
  (s.traverses.any fun e => e.2.ctx.parcel == p) || (s.tallies.any fun e => e.2.parcel == p) ||
  (s.regions.any fun e => e.2.parcel == p || e.2.grantees.contains p) ||
  (s.bases.any fun b => b.state != .empty && b.parcel == p) || (s.actions.any fun a => a.parcel == p) ||
  ((List.range 64).any fun n => (s.stream n).parcel == p && (s.stream n).state != .off) ||
  s.monitor.sessions.any fun m => m.valid && m.parcel == p

/-- The checks and effect of PARCEL_CREATE. -/
def parcelVerdict (c : Cmd) (s : State) : CmdVerdict :=
  let op := c.arg 0 2
  let t := c.target
  let pl := platOf c.buffer
  let old := s.parcel t
  let version := (old.map (·.version)).getD 0
  let obj : Nat := if op = 1 then 10 else 9
  let changes : List (Bool × Nat) :=
    if op = 0 then
      [(old.isSome ∨ c.expect ≠ 0, Status.stale), (s.platTaken t pl c.pairMask, Status.busy),
       ((s.parcels.filter fun e => e.1 ≠ 0).length ≥ 255 ∨ s.trust.lifecycle = .blank ∨ s.trust.lifecycle = .returned, Status.noSpace)]
    else if op = 1 then
      [(c.staleFor version, Status.stale),
       (s.platTaken t pl c.pairMask || s.platNarrows t ((old.map (·.plat)).getD {}) pl, Status.busy)]
    else [(c.staleFor version, Status.stale), (s.parcelBusy t, Status.busy)]
  verdictOf
    (firstChecks c (if op < 2 then 160 else 0) s ++
     [(decide (op = 3 ∨ t = 0 ∨ t = 0xFFFF) || (op < 2 && !platOk c.buffer) || (op ≠ 0 && old.isNone), Status.badArg),
      (c.notZero, Status.denied)] ++ changes)
    (.accept
      { objKind := obj, object := t, version := if op = 0 then 1 else version + 1, aux := if op = 0 then t else 0xFFFF
        effect := fun _ s =>
          if op = 0 then grantPairs t c.pairMask { s with parcels := tset t { plat := pl } s.parcels }
          else if op = 1 then settleDebug (grantPairs t c.pairMask (s.setParcel t fun p => { p with plat := pl, version := p.version + 1 }))
          else
            let s := grantPairs t 0 s
            settleDebug { s with parcels := tdel t s.parcels } })

/-- PARCEL_CREATE with OP CREATE, or with the reserved OP. -/
def execParcelCreate (c : Command) (s : State) : Host.Outcome State Fault Refusal :=
  runCommand (fun d => d.opcode = 3 ∧ (d.arg 0 2 = 0 ∨ d.arg 0 2 = 3)) parcelVerdict c s

/-- PARCEL_CREATE with OP SET_PLAT. -/
def execSetPlat (c : Command) (s : State) : Host.Outcome State Fault Refusal :=
  runCommand (fun d => d.opcode = 3 ∧ d.arg 0 2 = 1) parcelVerdict c s

/-- PARCEL_CREATE with OP REMOVE. -/
def execParcelRemove (c : Command) (s : State) : Host.Outcome State Fault Refusal :=
  runCommand (fun d => d.opcode = 3 ∧ d.arg 0 2 = 2) parcelVerdict c s

/-! ### PLAT_SET (R190, R191) -/

/-- A port of a tree is where R191 wants it under a phase plat: in a bearing of the axis (or LOCAL), or in no bearing. -/
def portFits (bs : List Bearing) (axis p : Nat) : Bool := bs.all fun b => !b.ports.getLsbD p || b.axis == axis

/-- R191 for a traverse's or tally's ports under one phase plat. -/
def treeFits (bs : List Bearing) (index uptree : Nat) (es : List Member) : Bool :=
  bs.isEmpty ||
  ((uptree ≥ 128 || portFits bs (index / 1024) uptree) &&
   es.all fun e => e.port ≥ 128 || portFits bs (if e.role = .child then index / 1024 else 7) e.port)

/-- Every tree of a parcel fits a phase plat's bearings. -/
def State.treesFit (s : State) (parcel : Nat) (bs : List Bearing) : Bool :=
  (s.traverses.all fun e => e.2.ctx.parcel != parcel ||
    (treeFits bs e.1 e.2.ctx.uptree e.2.ctx.entries && (match e.2.prev with
      | some c => treeFits bs e.1 c.1.uptree c.1.entries
      | none => true))) &&
  s.tallies.all fun e => e.2.parcel != parcel || treeFits bs e.1 e.2.uptree e.2.entries

/-- The bearings of a phase plat are well formed (R190, first two rows). -/
def bearingsOk (count : Nat) (bs : List Bearing) : Bool :=
  count ≤ 16 && (bs.all fun b => (b.axis < 4 || b.axis == 7) && b.weights.all (· > 0) && (b.axis != 7 || b.peer == 0xFFFF) && b.ports != 0) &&
  (bs.zipIdx.all fun e => (bs.drop (e.2 + 1)).all fun b => b.ports &&& e.1.ports == 0)

/-- A non-LOCAL port's last identity exchange named another part (R190). -/
def State.wrongPeer (s : State) (bs : List Bearing) : Bool :=
  bs.any fun b => b.axis != 7 && (maskPorts b.ports).any fun p => (s.port p).neighbour != 0 && s.neighbourPart p != b.peer

/-- A LOCAL port that another parcel's LOCAL bearing holds, or that the plat does not grant (R190). -/
def State.localDenied (s : State) (parcel : Nat) (bs : List Bearing) : Bool :=
  let mine := (bs.filter fun b => b.axis = 7).foldl (fun m b => m ||| b.ports) (0 : BitVec 128)
  let granted := ((s.parcel parcel).map (·.plat.ports)).getD 0
  mine &&& ~~~granted != 0 ||
  s.parcels.any fun e => e.1 != parcel && e.2.phases.any fun x => x.bearings.any fun b => b.axis == 7 && b.ports &&& mine != 0

/-- The checks and effect of PLAT_SET, in the order of R190. -/
def phaseVerdict (c : Cmd) (s : State) : CmdVerdict :=
  let i := c.arg 0 2
  let bs := bearingsOf c.buffer
  let p := (s.parcel c.parcel).getD {}
  let x := p.phases.getD i {}
  let analysis := s.monitor.analysisPort < 128 && bs.any fun b => b.ports.getLsbD s.monitor.analysisPort
  verdictOf
    (firstChecks c 528 s ++
     [(!phaseZero c.buffer || phaseIndex c.buffer != i || !bearingsOk (phaseCount c.buffer) bs || s.wrongPeer bs || analysis, Status.badArg),
      (decide (phaseParcel c.buffer ≠ c.parcel) || s.localDenied c.parcel bs, Status.denied),
      (c.staleFor x.version, Status.stale),
      (decide (p.selected = i) || (s.actions.any fun a => match a.kind with
        | .plat q j => q == c.parcel && j == i
        | _ => false), Status.busy),
      (!s.treesFit c.parcel bs, Status.busy)])
    (.accept
      { objKind := 6, object := i, version := x.version + 1
        effect := fun _ s => s.setParcel c.parcel fun p =>
          { p with phases := p.phases.set i { bearings := bs, version := x.version + 1, selects := x.selects } } })

/-- PLAT_SET. -/
def execPlatSet (c : Command) (s : State) : Host.Outcome State Fault Refusal := runCommand (fun d => d.opcode = 4) phaseVerdict c s

/-! ### MAP_SELECT (R193, R194) -/

/-- A phase plat becomes current; the current one stays as it is (R193). Ports that come into an eligible set join it (R234). -/
def selectPlat (parcel i : Nat) (s : State) : State :=
  joinNew s (s.setParcel parcel fun p =>
    if p.selected = i then p
    else { p with selected := i, phases := p.phases.modify i fun x => { x with selects := x.selects + 1 } })

/-- The checks and effect of MAP_SELECT. -/
def selectVerdict (c : Cmd) (s : State) : CmdVerdict :=
  let form := c.arg 0 2
  let i := c.arg 4 2
  let x := (((s.parcel c.parcel).getD {}).phases).getD i {}
  if form = 2 then
    match s.action (c.word 32) with
    | none => verdictOf (firstChecks c 0 s) (.reject Status.badArg 0)
    | some a =>
      verdictOf
        (firstChecks c 0 s ++
         [(decide (a.kind.code ≠ 1), Status.badArg), (decide (a.parcel ≠ c.parcel), Status.denied), (c.staleFor a.version, Status.stale)])
        (.accept { objKind := 12, object := a.ordinal.toNat, version := a.version + 1, effect := fun _ s => dropAction a.ordinal s })
  else
    verdictOf
      (firstChecks c 0 s ++
       [(decide (form = 3) || (form = 1 && !c.streamOk s), Status.badArg), (c.staleUse x.version, Status.stale),
        (form = 1 && noActionRoom c.parcel s, Status.noSpace)])
      (.accept
        { objKind := 6, object := i, version := x.version, result := if form = 1 then s.freshOrdinal.toNat else 0
          effect := fun _ s => if form = 1 then addAction c.parcel c.trigger (.plat c.parcel i) s else selectPlat c.parcel i s })

/-- MAP_SELECT, IMMEDIATE or the reserved FORM. -/
def execMapSelectImmediate (c : Command) (s : State) : Host.Outcome State Fault Refusal :=
  runCommand (fun d => d.opcode = 0x10 ∧ (d.arg 0 2 = 0 ∨ d.arg 0 2 = 3)) selectVerdict c s

/-- MAP_SELECT, ACTION. -/
def execMapSelectAction (c : Command) (s : State) : Host.Outcome State Fault Refusal :=
  runCommand (fun d => d.opcode = 0x10 ∧ d.arg 0 2 = 1) selectVerdict c s

/-- MAP_SELECT, DELETE. -/
def execMapSelectDelete (c : Command) (s : State) : Host.Outcome State Fault Refusal :=
  runCommand (fun d => d.opcode = 0x10 ∧ d.arg 0 2 = 2) selectVerdict c s

/-! ### Routes (R233, R245, R223, R396) -/

/-- The staged entries of a ROUTE_STAGE buffer, as numbers. -/
def stagedWords (n : Nat) (bs : Bytes) : List Nat := (List.range n).map fun k => leNat ((bs.drop (32 * k)).take 32)

/-- An entry ROUTE_STAGE takes: no reserved bit, and at most 64 PORTS bits without MCAST (R233). -/
def destOk (n : Nat) : Bool := destZero n && ((destOf n).mcast || (maskPorts (destOf n).ports).length ≤ 64)

/-- The checks and effect of ROUTE_STAGE. -/
def stageVerdict (c : Cmd) (s : State) : CmdVerdict :=
  let first := c.arg 0 16
  let n := c.arg 16 11
  let ws := stagedWords n c.buffer
  verdictOf
    (firstChecks c (32 * n) s ++
     [(decide (n = 0 ∨ n > 1024 ∨ first + n > 65536) || !ws.all destOk, Status.badArg), (c.notZero, Status.denied),
      (c.staleFor s.routes.version, Status.stale)])
    (.accept
      { objKind := 8, version := s.routes.version + 1
        effect := fun _ s => s.setRoutes fun r =>
          { r with version := r.version + 1
                   staged := ws.zipIdx.foldl (fun l e => tset (first + e.2) (destOf e.1) l) (if c.flag 27 then [] else r.staged) } })

/-- ROUTE_STAGE. -/
def execRouteStage (c : Command) (s : State) : Host.Outcome State Fault Refusal := runCommand (fun d => d.opcode = 0x11) stageVerdict c s

/-- Destination indices whose VALID entry names MD (R396). -/
def mdEntries (l : List (Nat × DestEntry)) : List Nat := (l.filter fun e => e.2.valid ∧ e.2.internal.getLsbD 30).map (·.1)

/-- The current entries after a commit: the staged ones replace theirs, under the next epoch. -/
def Routes.committedTable (r : Routes) : List (Nat × DestEntry) :=
  r.staged.foldl (fun l e => tset e.1 { e.2 with epoch := (r.epoch + 1) % 4 } l) r.current

/-- A commit takes effect (R223, R396). -/
def Routes.commit (r : Routes) : Routes :=
  { r with current := r.committedTable, previous := r.staged.map fun e => (e.1, (tget e.1 r.current).getD {}), staged := []
           version := r.version + 1, epoch := (r.epoch + 1) % 4, prevOrdered := r.ordered, prevOther := r.other, ordered := 0, other := 0
           committed := true, number := (mdEntries r.committedTable).headD 0xFFFF }

/-- A stream is RUNNING or in HOLD. -/
def State.anyStation (s : State) : Bool :=
  (List.range 64).any fun n => (s.stream n).state == .running || (s.stream n).state == .hold

/-- The checks and effect of ROUTE_COMMIT. -/
def commitVerdict (c : Cmd) (s : State) : CmdVerdict :=
  let r := s.routes
  let md := mdEntries r.committedTable
  let renumbers := md.headD 0xFFFF != r.number && (!s.traverses.isEmpty || !s.tallies.isEmpty || s.anyStation)
  verdictOf
    (firstChecks c 0 s ++
     [(r.staged.isEmpty || decide (md.length ≠ 1), Status.badArg), (c.notZero, Status.denied), (c.staleFor r.version, Status.stale),
      (decide (r.prevOrdered + r.prevOther > 0) || renumbers, Status.busy)])
    (.accept { objKind := 8, version := r.version + 1, effect := fun _ s => joinNew s (s.setRoutes Routes.commit) })

/-- ROUTE_COMMIT. -/
def execRouteCommit (c : Command) (s : State) : Host.Outcome State Fault Refusal := runCommand (fun d => d.opcode = 0x12) commitVerdict c s

/-! ### Mirrors and telemetry (R214-R216, R225) -/

/-- The port takes part in a traverse, tally, stream or phase plat (R216). -/
def State.portInUse (s : State) (p : Nat) : Bool :=
  (s.parcels.any fun e => (s.treePorts e.1).any (fun t => t.2.contains p) || e.2.phases.any fun x => x.bearings.any fun b => b.ports.getLsbD p) ||
  (List.range 64).any fun n => (s.stream n).state != .off && ((s.stream n).ingressPort == p || (s.stream n).relay.getLsbD p)

/-- The checks and effect of MIRROR_SET. -/
def mirrorVerdict (c : Cmd) (s : State) : CmdVerdict :=
  let i := c.arg 0 4
  if i = 15 then
    let port := c.arg 8 8
    let period := c.arg 96 32
    verdictOf
      (firstChecks c 0 s ++
       [(decide ((port ≥ 128 ∧ port ≠ 0xFF) ∨ (period ≠ 0 ∧ (period < 10 ∨ period > 1000000))) || (port < 128 && s.portInUse port), Status.badArg),
        (c.notZero, Status.denied), (c.staleFor s.monitor.version, Status.stale)])
      (.accept
        { objKind := 11, object := 15, version := s.monitor.version + 1
          effect := fun _ s => { s with monitor :=
            { s.monitor with analysisPort := port, limit := c.arg 32 32, collectorPart := c.arg 64 16, collectorPort := c.arg 80 8
                             periodUs := period, version := s.monitor.version + 1, lastAt := s.clock } } })
  else
    let n := leNat (c.buffer.take 16)
    let new := mirrorOf n
    let old := s.monitor.sessions.getD i {}
    verdictOf
      (firstChecks c 16 s ++
       [(decide (bitsAt n 0 4 ≠ i ∨ bitAt n 7 ∨ new.match_ = 3 ∨ (new.match_ < 2 ∧ new.port ≥ 128)), Status.badArg),
        (decide (new.parcel ≠ c.parcel) || (old.valid && old.parcel != c.parcel) ||
          !((s.parcel c.parcel).map (·.plat.mirrorOk)).getD false, Status.denied),
        (c.staleFor old.version, Status.stale)])
      (.accept
        { objKind := 11, object := i, version := old.version + 1
          effect := fun _ s => { s with monitor := { s.monitor with sessions := s.monitor.sessions.modify i fun o =>
            { new with copies := o.copies, drops := o.drops, version := o.version + 1 } } } })

/-- MIRROR_SET of a session. -/
def execMirrorSet (c : Command) (s : State) : Host.Outcome State Fault Refusal :=
  runCommand (fun d => d.opcode = 0x13 ∧ d.arg 0 4 ≠ 15) mirrorVerdict c s

/-- MIRROR_SET of the part settings. -/
def execMirrorSetPart (c : Command) (s : State) : Host.Outcome State Fault Refusal :=
  runCommand (fun d => d.opcode = 0x13 ∧ d.arg 0 4 = 15) mirrorVerdict c s

/-! ### Budgets (R349-R352) -/

/-- The trigger of a WAKE action: any mark, periodic. -/
def wakeTrigger (stream : Nat) : Trigger :=
  { stream := stream, periodic := true, anyStep := true, anyLayer := true, anyPhase := true, anySub := true }

/-- The parcel has a WAKE action on the stream. -/
def State.hasWake (s : State) (parcel stream : Nat) : Bool :=
  s.actions.any fun a => match a.kind with
    | .wake p n => p == parcel && n == stream
    | _ => false

/-- WAKE actions of streams that no budget of the parcel names any longer are deleted (R351). -/
def dropWakes (parcel : Nat) (s : State) : State :=
  let named := ((s.parcel parcel).map fun p => p.budgets.filterMap (·.2.stream)).getD []
  { s with actions := s.actions.filter fun a => match a.kind with
      | .wake p n => p ≠ parcel || named.contains n
      | _ => true }

/-- The checks and effect of BUDGET_SET. -/
def budgetVerdict (c : Cmd) (s : State) : CmdVerdict :=
  let gs := (List.range Config.groups).filter fun g => c.flag g
  let ns := c.arg 32 32
  let stream := c.arg 64 6
  let bound := c.flag 70
  let removes := ns == 0xFFFFFFFF
  let p := (s.parcel c.parcel).getD {}
  let wakes := bound && !removes && !s.hasWake c.parcel stream
  verdictOf
    (firstChecks c 0 s ++
     [(gs.isEmpty || (bound && (s.stream stream).parcel != c.parcel), Status.badArg),
      (decide (c.parcel ≠ 0) && gs.any (fun g => g < 8 && (groupPorts g).all fun q => !p.plat.ports.getLsbD q), Status.denied),
      (c.staleFor p.version, Status.stale),
      (wakes && noActionRoom c.parcel s, Status.noSpace)])
    (.accept
      { objKind := 9, object := c.parcel, version := p.version + 1, result := if wakes then s.freshOrdinal.toNat else 0
        effect := fun _ s =>
          let s := s.setParcel c.parcel fun p =>
            { p with version := p.version + 1
                     budgets := gs.foldl (fun l g => if removes then tdel g l else tset g { ns := ns, stream := if bound then some stream else none } l)
                       p.budgets }
          let s := if wakes then addAction c.parcel (wakeTrigger stream) (.wake c.parcel stream) s else s
          settleDebug (forEach gs exitIfDeep (dropWakes c.parcel s)) })

/-- BUDGET_SET. -/
def execBudgetSet (c : Command) (s : State) : Host.Outcome State Fault Refusal := runCommand (fun d => d.opcode = 0x14) budgetVerdict c s

/-! ### Streams (R118, R126, R352) -/

/-- Groups some parcel has bound to a stream (R351). -/
def State.boundGroups (s : State) (n : Nat) : List Nat :=
  (List.range Config.groups).filter fun g => s.parcels.any fun e => (tget g e.2.budgets).any fun b => b.stream == some n

/-- A stream on both timebase dies. -/
def setStream (n : Nat) (f : Stream → Stream) (s : State) : State :=
  { s with timebases := s.timebases.map fun b => { b with streams := lmap n f b.streams } }

/-- A stream's last mark and counters cleared (R117, R118). -/
def Stream.cleared (x : Stream) : Stream :=
  { x with state := .unset, coord := {}, markNo := 0, backRej := 0, skipRej := 0, srcRej := 0, conflict := 0, repeats := 0, timeouts := 0,
           intervals := [], marked := false }

/-- A stream that enters UNSET keeps its actions; its mark numbers begin anew, and copies of its old replica on the ring are void. -/
def renewStream (n : Nat) (s : State) : State :=
  { s with actions := s.actions.map fun a => if a.trigger.stream = n then { a with last := none } else a
           ringSync := s.ringSync.filter fun y => y.stream ≠ n }

/-- STATION completion (Table 14.6): the state entered. -/
def stationEvent (n : Nat) (x : Stream) (s : State) : State :=
  postEvent x.parcel 5 0 (packFields [(0, 6, n), (8, 2, x.state.code), (32, 32, x.markNo.toNat)]) s

/-- The effect of STATION_SOURCE on a stream: OFF alone changes STATE and ignores the rest, in HOLD too and without a completion (log 102); a
stream that is OFF enters UNSET (log 35). A stream that changes parcel keeps its actions, which still fire on its marks (log 101). -/
def sourceStream (c : Cmd) (x : Stream) : Stream :=
  if c.flag 7 then { x with state := .off, version := x.version + 1 }
  else
    let x := { x with ingressPort := c.arg 8 8, pin := c.flag 16, parcel := c.arg 96 16, originPart := c.arg 32 16, originPort := c.arg 48 8
                      timeoutUs := c.arg 64 24, relay := BitVec.ofNat 128 (c.arg 128 128), version := x.version + 1 }
    if c.flag 6 then x.cleared else if x.state = .off then { x with state := .unset, intervals := [], marked := false } else x

/-- The ports a STATION_SOURCE names include the analysis port, which takes part in no stream (R216, log 103). -/
def Cmd.namesAnalysis (c : Cmd) (s : State) : Bool :=
  s.monitor.analysisPort < 128 && (c.arg 8 8 == s.monitor.analysisPort || (c.arg 128 128).testBit s.monitor.analysisPort)

/-- The checks and effect of STATION_SOURCE. -/
def sourceVerdict (c : Cmd) (s : State) : CmdVerdict :=
  let n := c.arg 0 6
  let x := s.stream n
  verdictOf
    (firstChecks c 0 s ++
     [(!c.flag 7 && (c.namesAnalysis s || decide (c.arg 64 24 = 0 ∨ (c.arg 8 8 ≥ 128 ∧ c.arg 8 8 ≠ 0xFF) ∨ (s.parcel (c.arg 96 16)).isNone)),
       Status.badArg),
      (c.notZero, Status.denied), (c.staleFor x.version, Status.stale)])
    (.accept
      { objKind := 7, object := n, version := x.version + 1
        effect := fun _ s =>
          let s := setStream n (sourceStream c) s
          let s := if (s.stream n).state = .unset ∨ (s.stream n).state = .off then renewStream n s else s
          let resets := c.flag 6 && !c.flag 7
          let s := if resets ∧ x.state = .hold then stationEvent n (s.stream n) s else s
          if resets then forEach (s.boundGroups n) exitIfDeep s else s })

/-- STATION_SOURCE that sets a stream. -/
def execStationSource (c : Command) (s : State) : Host.Outcome State Fault Refusal :=
  runCommand (fun d => d.opcode = 0x15 ∧ !d.flag 7) sourceVerdict c s

/-- STATION_SOURCE with OFF = 1. -/
def execStationSourceOff (c : Command) (s : State) : Host.Outcome State Fault Refusal :=
  runCommand (fun d => d.opcode = 0x15 ∧ d.flag 7) sourceVerdict c s

/-! ### Firmware slots (R364, R365) -/

/-- A HANDOVER action exists. -/
def State.hasHandover (s : State) : Bool := s.actions.any fun a => a.kind.code == 7

/-- The checks of FW_STAGE; the image is taken when its effect ends. -/
def fwStageVerdict (c : Cmd) (s : State) : CmdVerdict :=
  let slotB := c.flag 0
  let v := s.boot.slotVersion slotB
  verdictOf
    (firstChecks c 0 s ++
     [(decide (c.len < 1025 ∨ c.len > 8388608), Status.badArg), (c.notZero, Status.denied), (c.staleFor v, Status.stale),
      (slotB == s.boot.slotB || s.hasHandover, Status.busy)])
    (.accept
      { objKind := 13, object := bit slotB, version := v + 1
        ending := .fwStage (bit slotB) (c.arg 32 32) (c.data.take c.len) (c.dataOk && c.len ≤ c.data.length)
        effect := fun _ s => { s with boot := s.boot.raiseSlot slotB } })

/-- FW_STAGE. -/
def execFwStage (c : Command) (s : State) : Host.Outcome State Fault Refusal := runCommand (fun d => d.opcode = 0x19) fwStageVerdict c s

/-- The checks and effect of FW_HANDOVER: its object is the slot that is not running. -/
def handoverVerdict (c : Cmd) (s : State) : CmdVerdict :=
  let slotB := !s.boot.slotB
  let v := s.boot.slotVersion slotB
  let raise (s : State) : State := { s with boot := s.boot.raiseSlot slotB }
  if c.flag 0 then
    verdictOf
      (firstChecks c 0 s ++
       [(!((s.action (c.word 32)).any fun a => a.kind.code == 7), Status.badArg), (c.notZero, Status.denied), (c.staleFor v, Status.stale)])
      (.accept { objKind := 13, object := bit slotB, version := v + 1, effect := fun _ s => dropAction (c.word 32) (raise s) })
  else
    verdictOf
      (firstChecks c 0 s ++
       [(c.trigger.periodic || !s.boot.validSlot slotB || decide (hoAccept (s.boot.image slotB) > hoWrite s.boot.runningImage) || !c.streamOk s,
          Status.badArg),
        (c.notZero, Status.denied), (c.staleFor v, Status.stale), (s.hasHandover, Status.busy), (noActionRoom c.parcel s, Status.noSpace)])
      (.accept
        { objKind := 13, object := bit slotB, version := v + 1, result := s.freshOrdinal.toNat
          effect := fun seq s => addAction c.parcel c.trigger (.handover (bit slotB) seq) (raise s) })

/-- FW_HANDOVER that creates the action. -/
def execFwHandover (c : Command) (s : State) : Host.Outcome State Fault Refusal :=
  runCommand (fun d => d.opcode = 0x1A ∧ !d.flag 0) handoverVerdict c s

/-- FW_HANDOVER with CANCEL = 1. -/
def execFwHandoverCancel (c : Command) (s : State) : Host.Outcome State Fault Refusal :=
  runCommand (fun d => d.opcode = 0x1A ∧ d.flag 0) handoverVerdict c s

/-! ### DEBUG_OPEN (R374) -/

/-- LEVEL codes. -/
def levelOf : Nat → DebugLevel
  | 0 => .none
  | 1 => .telemetry
  | 2 => .parcel
  | _ => .full
def DebugLevel.code : DebugLevel → Nat
  | .none => 0
  | .telemetry => 1
  | .parcel => 2
  | .full => 3

/-- The consent record of Table 17.14 is good for a subject (R374). -/
def consentOk (s : State) (subject : Nat) (bs : Bytes) : Bool :=
  let n := leNat (bs.take 128)
  match s.parcel subject with
  | none => false
  | some p =>
    p.plat.consentKey != 0 && bitsAt n 0 64 == s.trust.serial.toNat && bitsAt n 64 16 == subject &&
    bitsAt n 96 32 == p.version.toNat && bitsAt n 128 64 ≤ s.book.next && s.book.next ≤ bitsAt n 192 64 &&
    verifiesHalves (littleHalves (leBytes 96 p.plat.consentKey.toNat)) (littleHalves ((bs.drop 128).take 96)) (bs.take 128)

/-- The checks and effect of DEBUG_OPEN. -/
def debugVerdict (c : Cmd) (s : State) : CmdVerdict :=
  let level := levelOf (c.arg 0 2)
  let subject := c.arg 16 16
  let n := leNat (c.buffer.take 128)
  let consents := level == .parcel
  verdictOf
    (firstChecks c (if consents then 224 else 0) s ++
     [(consents && ((s.parcel subject).isNone || !zeroIn n [(80, 16), (256, 768)]), Status.badArg),
      (c.notZero || !s.trust.levelOk level, Status.denied),
      (consents && !consentOk s subject c.buffer, Status.denied)])
    (.accept
      { effect := fun _ s =>
          if consents then
            { s with dbg := { s.dbg with level := level, subject := subject, notAfter := bitsAt n 192 64
                                         subjectVersion := ((s.parcel subject).map (·.version)).getD 0 } }
          else let s := closeDebug s; { s with dbg := { s.dbg with level := level } } })

/-- DEBUG_OPEN. -/
def execDebugOpen (c : Command) (s : State) : Host.Outcome State Fault Refusal := runCommand (fun d => d.opcode = 0x1B) debugVerdict c s

end Sys2Proof.Machine
end

