-- ==== Sys2Proof/Machine/Traverses.lean ====
section
/-! DEFINITION. Commands on traverses and tallies: TRAVERSE_OPEN and TRAVERSE_CLOSE (R51-R59), GEN_OPEN (R61), TALLY_SET (R81),
MEMBER_REMAP and ADMIT (R390, R391), BASIS_LOAD (R180, R181), NORM_READ (R153, R154) and SERVE_ARM (R159). -/
namespace Sys2Proof.Machine

/-! ### Checks of a context and its member table -/

/-- The entry leads to a child part. -/
def Member.isChild (e : Member) : Bool := e.role == .child

/-- The fields of an entry fit its role (Table 3.4): a DEST stands at the root only, and names a port under REDUCE and a region under
PERMUTE (R51, R195); handle 0 is the norm source of a REDUCE (R129). -/
def Ctx.entryOk (c : Ctx) (e : Member) : Bool :=
  match e.role with
  | .region => e.port == 0xFF && (e.region != 0 || c.kind == .reduce)
  | .dest => e.rankCount == 0 && c.isRoot && (match c.kind with
      | .reduce => decide (e.port < 128) && e.region == 0
      | .permute => e.port == 0xFF && e.region != 0
      | .broadcast => false)
  | _ => decide (e.port < 128) && e.region == 0

/-- Port rules of R57: no external port twice, but for a DEST on an ENDPOINT's port, and none on UPTREE_PORT. -/
def portsDistinct (uptree : Nat) (es : List Member) : Bool :=
  let ext := es.filter (·.port < 128)
  (ext.all fun e => e.port != uptree) &&
  ext.zipIdx.all fun e => (ext.drop (e.2 + 1)).all fun d =>
    d.port != e.1.port || (e.1.role == .dest && d.role == .endpoint) || (e.1.role == .endpoint && d.role == .dest)

/-- The entry covers ranks that must not overlap another's (R57). -/
def Ctx.covers (c : Ctx) (e : Member) : Bool :=
  e.rankCount != 0 && (match c.kind with
    | .broadcast => e.role == .endpoint || e.role == .child
    | _ => e.role != .dest)

/-- No rank is covered twice (R57). -/
def Ctx.ranksApart (c : Ctx) : Bool :=
  let es := c.entries.filter c.covers
  es.zipIdx.all fun e => (es.drop (e.2 + 1)).all fun d =>
    decide (d.rankFirst + d.rankCount ≤ e.1.rankFirst ∨ e.1.rankFirst + e.1.rankCount ≤ d.rankFirst)

/-- POSITION follows from UPTREE_PORT and the CHILD entries (R52). -/
def positionFor (uptree : Nat) (es : List Member) : Position :=
  if uptree = 0xFF then .root else if es.any Member.isChild then .interior else .leaf

/-- HEIGHT is 0 exactly where there is no CHILD entry (Table 3.2). -/
def heightOk (height : Nat) (es : List Member) : Bool := (height == 0) == !es.any Member.isChild

/-- UPTREE_PORT is an external port or 0xFF. -/
def uptreeOk (uptree : Nat) : Bool := uptree == 0xFF || decide (uptree < 128)

/-- ENDPOINT entries with RANK_COUNT 0: a pass source (R51, R197). -/
def Ctx.passSources (c : Ctx) : Nat := (c.entries.filter fun e => e.role = .endpoint ∧ e.rankCount = 0).length

/-- A root BROADCAST has exactly one kind of source, any other part's BROADCAST has none (R51); no other kind is linked (Table 3.2,
log 52). -/
def Ctx.sourcesOk (c : Ctx) : Bool :=
  let regions := c.entries.any fun e => e.role == .region
  if c.kind ≠ .broadcast then !c.linkValid
  else if !c.isRoot then !regions && c.passSources == 0
  else if regions then !c.linkValid && c.passSources == 0
  else if c.linkValid then c.passSources == 0
  else c.passSources == 1

/-- The DEST entries a kind takes: at most one for a REDUCE, one at the root of a PERMUTE (R51, R195). -/
def Ctx.destsOk (c : Ctx) : Bool :=
  let n := (c.entries.filter fun e => e.role = .dest).length
  n ≤ 1 && !(c.kind == .permute && c.isRoot && n == 0)

/-- EXPAND, FMT_IN and ZERO_POINT of a REDUCE (R28, R55). -/
def Ctx.expandOk (c : Ctx) : Bool :=
  if c.kind ≠ .reduce then c.expand == 0
  else if c.fmtIn = 9 then c.expand == 2
  else if c.fmtIn = 10 then c.expand == 1 || (c.expand == 2 && -8 ≤ c.zeroPoint && c.zeroPoint ≤ 7)
  else c.expand == 0

/-- A pair of formats that some root may give the RESULT frames a non-root BROADCAST passes on: served from a region, as the results of a linked
REDUCE, or passed as they are (R25, R156, R197; DEDUCED, log 85). -/
def passedFormats (fmtIn fmtOut : Nat) : Bool :=
  (fmtIn == 3 && fmtServes fmtOut) || (fmtIn == 10 && fmtOut == 3) || (fmtContributes fmtIn && (fmtResults fmtOut || fmtOut == fmtIn))

/-- Formats in the roles of Table 2.1 for the kind and source (R25, R55, R156, R197). A BROADCAST that only passes chains on has no source of
its own here: it takes what a root could. -/
def Ctx.formatsOk (c : Ctx) : Bool :=
  match c.kind with
  | .reduce => fmtContributes c.fmtIn && fmtResults c.fmtOut
  | .permute => c.fmtIn == 3 && c.fmtOut == 3
  | .broadcast =>
    if c.linkValid then fmtContributes c.fmtIn && fmtResults c.fmtOut
    else if !c.isRoot then passedFormats c.fmtIn c.fmtOut
    else if c.isPass then fmtContributes c.fmtIn && c.fmtOut == c.fmtIn
    else (c.fmtIn == 3 && fmtServes c.fmtOut) || (c.fmtIn == 10 && c.fmtOut == 3)

/-- The stored format of a source region pairs with FMT_OUT (Table 6.7). -/
def servePairOk (r : Region) (fmtOut : Nat) : Bool := r.kind ≤ 3 && (!r.int4 || fmtOut == 3)

/-- The region rules of a PERMUTE for one entry (R195). -/
def Ctx.permuteOk (c : Ctx) (e : Member) (r : Region) : Bool :=
  let sh := max 1 c.shardChains
  let n := fmtElems c.fmtIn
  let t0 := c.seed.toNat
  !r.int4 && r.kind ≤ 3 &&
  (if e.role = .dest then decide (r.elemFirst ≤ t0 ∧ t0 + (c.ranks * sh - 1) * n < r.elemFirst + r.count)
   else e.rankCount == 0 ||
     decide (r.elemFirst ≤ t0 + e.rankFirst * sh * n ∧
       t0 + ((e.rankFirst + e.rankCount) * sh - 1) * n ≤ r.elemFirst + r.count))

/-- Every region a member table names exists and may play its part. -/
def State.regionsOk (s : State) (c : Ctx) : Bool :=
  c.entries.all fun e => e.region == 0 ||
    (match s.regionAt e.region with
     | none => false
     | some (_, r) => match c.kind with
       | .broadcast => servePairOk r c.fmtOut
       | .permute => c.permuteOk e r
       | .reduce => true)

/-- Every region a member table names may be used by the parcel: its own, or one granted to it as a BROADCAST source; a granted region
is no PERMUTE destination (R161). -/
def State.regionsAllowed (s : State) (c : Ctx) : Bool :=
  c.entries.all fun e => e.region == 0 ||
    (match s.regionAt e.region with
     | none => true
     | some (_, r) =>
       (r.parcel == c.parcel || (c.kind == .broadcast && r.grantees.contains c.parcel)) &&
       !(e.role == .dest && !r.grantees.isEmpty))

/-- LINK names a REDUCE of the parcel rooted at this part (R51, R326). -/
def State.linkOk (s : State) (c : Ctx) : Bool :=
  !(c.kind == .broadcast && c.linkValid && c.isRoot) ||
  (match s.traverse c.link with
   | some v => v.ctx.kind == .reduce && v.ctx.isRoot && v.ctx.parcel == c.parcel
   | none => false)

/-- The analysis port takes part in nothing (R216). -/
def State.offAnalysis (s : State) (uptree : Nat) (es : List Member) : Bool :=
  s.monitor.analysisPort ≥ 128 || (uptree != s.monitor.analysisPort && es.all fun e => e.port != s.monitor.analysisPort)

/-- R191 under every phase plat of a parcel. -/
def State.axisOk (s : State) (parcel index uptree : Nat) (es : List Member) : Bool :=
  (((s.parcel parcel).map (·.phases)).getD []).all fun x => treeFits x.bearings index uptree es

/-- Index and ports granted by the parcel's plat (R371). -/
def State.treeGranted (s : State) (parcel index uptree : Nat) (es : List Member) : Bool :=
  match s.parcel parcel with
  | none => false
  | some p => p.plat.flows.getLsbD (index / 16 % 64) && (uptree :: es.map (·.port)).all fun q => q == 0xFF || p.plat.ports.getLsbD q

/-- A projected traverse may run under the context (R168, R177). -/
def Ctx.projectOk (c : Ctx) : Bool :=
  1 ≤ c.fmtIn && c.fmtIn ≤ 5 && c.expand == 0 && c.rmode == .lx96 && c.kind == .reduce && c.floor == 0

/-- A context TRAVERSE_OPEN takes for an index (R51-R57, R135, R191, R195, R216, and R168 and R177 for a projected traverse). -/
def State.ctxOk (s : State) (t : Nat) (c : Ctx) : Bool :=
  let b := s.binding t
  decide (c.floor ≤ 62 ∧ c.entries ≠ [] ∧ 1 ≤ c.timeoutUs ∧ 1 ≤ c.ranks) && uptreeOk c.uptree &&
  c.position == positionFor c.uptree c.entries && heightOk c.height c.entries && c.entries.all c.entryOk && c.destsOk &&
  portsDistinct c.uptree c.entries && c.ranksApart && c.sourcesOk && c.expandOk && c.formatsOk && s.regionsOk c && s.linkOk c &&
  ((s.bound t).isEmpty || fmtElems c.fmtIn ≤ 4096) && s.offAnalysis c.uptree c.entries && s.axisOk c.parcel t c.uptree c.entries &&
  (!(b.valid || b.prevValid) || c.projectOk)

/-! ### Changing a context (R58) -/

/-- A further change is refused while generations below the newer context's FIRST_GEN are or may be open. -/
def Traverse.changeBusy (v : Traverse) : Bool :=
  match v.prev with
  | some (_, first) => before32 v.oldestGen first
  | none => false

/-- The context from FIRST_GEN on; the old one stays for the generations below. -/
def Traverse.change (c : Ctx) (first : BitVec 32) (v : Traverse) : Traverse := { v with prev := some (v.ctx, first), ctx := c }

/-- The context with another port in one entry (R390). -/
def Ctx.withPort (entry port : Nat) (c : Ctx) : Ctx := { c with entries := c.entries.modify entry fun e => { e with port := port } }

/-! ### TRAVERSE_OPEN -/

/-- The checks and effect of TRAVERSE_OPEN. One re-issued for a traverse that is CLOSING changes its context as for any other: neither R58 nor
R59 refuses it (DESIGN CHOICE, log 86). What R58 asks of a change is the opcode's own check, after the generic ones (R59, R326;
log 77). -/
def openVerdict (c : Cmd) (s : State) : CmdVerdict :=
  let t := ctxIndex c.buffer
  let k := ctxOf c.buffer
  let first := c.word 0
  let old := s.traverse t
  let changed := match old with
    | none => false
    | some v => v.ctx.kind != k.kind || v.ctx.position != k.position || before32 first v.nextGen
  verdictOf
    (firstChecks c (ctxLen c.buffer) s ++
     [(!ctxZero c.buffer || !s.ctxOk t k || (old.isNone && first != 0), Status.badArg),
      (k.parcel != c.parcel || (old.map fun v => v.ctx.parcel != c.parcel).getD false || !s.regionsAllowed k || !s.treeGranted k.parcel t k.uptree k.entries, Status.denied),
      (c.staleFor ((old.map (·.version)).getD 0), Status.stale),
      ((old.map Traverse.changeBusy).getD false, Status.busy), (changed, Status.badArg)])
    (.accept
      { objKind := 1, object := t, version := ((old.map (·.version)).getD 0) + 1
        effect := fun _ s =>
          match old with
          | none =>
            let v : Traverse :=
              { ctx := k, nextGen := ctxNextGen c.buffer, oldestGen := ctxNextGen c.buffer }
            { s with traverses := tset t v s.traverses }
          | some _ => s.setTraverse t fun v =>
              { v.change k first with version := v.version + 1 } })

/-- TRAVERSE_OPEN. -/
def execTraverseOpen (c : Command) (s : State) : Host.Outcome State Fault Refusal := runCommand (fun d => d.opcode = 5) openVerdict c s

/-! ### TRAVERSE_CLOSE (R59) -/

/-- Every open generation of a traverse aborts with cause CLOSED. -/
def closeGens (t : Nat) (s : State) : State :=
  match s.traverse t with
  | none => s
  | some v => forEach v.gens (fun x s => abortGen t x.gen 0x0A 0xFF noChain s) s

/-- The effect of TRAVERSE_CLOSE. -/
def closeTraverse (t : Nat) (force : Bool) (s : State) : State :=
  match s.traverse t with
  | none => s
  | some v =>
    let s := s.setTraverse t fun v => { v with version := v.version + 1, state := .closing }
    if v.state = .ready then freeTraverse t s else if force then closeGens t s else s

/-- The checks and effect of TRAVERSE_CLOSE. -/
def closeVerdict (c : Cmd) (s : State) : CmdVerdict :=
  let t := c.arg 0 12
  match s.traverse t with
  | none => .reject Status.badArg 0
  | some v =>
    verdictOf (firstChecks c 0 s ++ [(v.ctx.parcel != c.parcel, Status.denied), (c.staleFor v.version, Status.stale)])
      (.accept { objKind := 1, object := t, version := v.version + 1, effect := fun _ s => closeTraverse t (c.flag 12) s })

/-- TRAVERSE_CLOSE with FORCE = 0. -/
def execTraverseClose (c : Command) (s : State) : Host.Outcome State Fault Refusal :=
  runCommand (fun d => d.opcode = 6 ∧ !d.flag 12) closeVerdict c s

/-- TRAVERSE_CLOSE with FORCE = 1. -/
def execTraverseCloseForce (c : Command) (s : State) : Host.Outcome State Fault Refusal :=
  runCommand (fun d => d.opcode = 6 ∧ d.flag 12) closeVerdict c s

/-! ### GEN_OPEN (R61, Table 15.4) -/

/-- The checks and effect of GEN_OPEN. -/
def genOpenVerdict (c : Cmd) (s : State) : CmdVerdict :=
  let t := c.arg 0 12
  match s.traverse t with
  | none => .reject Status.badArg 0
  | some v =>
    let k := v.ctxAt v.nextGen
    verdictOf
      (firstChecks c 0 s ++
       [(!k.isRoot || c.word 32 != v.nextGen || v.state == .closing || (k.kind == .broadcast && k.linkValid) ||
          (c.flag 12 && k.dmode != .fixed), Status.badArg),
        (v.ctx.parcel != c.parcel || s.grantBars k, Status.denied), (c.staleUse v.version, Status.stale), (!v.inWindow v.nextGen, Status.busy)])
      (.accept
        { objKind := 1, object := t, version := v.version
          effect := fun _ s => openOne t .explicit (if c.flag 12 then some (signedOf 9 (c.arg 16 9)) else none) none s })

/-- GEN_OPEN. -/
def execGenOpen (c : Command) (s : State) : Host.Outcome State Fault Refusal := runCommand (fun d => d.opcode = 7) genOpenVerdict c s

/-! ### TALLY_SET (R81, R191, R371) -/

/-- A tally TALLY_SET takes; its T, as a traverse's, is at least 1 µs (R76, log 53). -/
def State.tallyOk (s : State) (t : Nat) (y : Tally) : Bool :=
  decide (16 ≤ y.window ∧ y.window ≤ 1024 ∧ y.suspectClear ≤ y.suspectSet ∧ 1 ≤ y.timeoutUs) && uptreeOk y.uptree && heightOk y.height y.entries &&
  (y.entries.all fun e => (e.role == .endpoint || e.role == .child) && decide (e.port < 128) && e.region == 0) &&
  portsDistinct y.uptree y.entries && s.offAnalysis y.uptree y.entries && s.axisOk y.parcel t y.uptree y.entries

/-- A tally changed: ROUND and TIMEOUTS stay, the last-arrival records and SUSPECT flags go, each with its completion (R81). -/
def changeTally (t : Nat) (new : Tally) (s : State) : State :=
  match s.tally t with
  | none => s
  | some y =>
    let s := forEach y.suspects (fun p s => suspectEvent t { y with lastArrivals := [] } p false s) s
    s.setTally t fun y =>
      { new with round := y.round, timeouts := y.timeouts, version := y.version + 1, failedRound := y.failedRound, released := y.released }

/-- The checks and effect of TALLY_SET. -/
def tallyVerdict (c : Cmd) (s : State) : CmdVerdict :=
  let t := c.arg 0 12
  let old := s.tally t
  let busy := (old.map fun y => !y.arrived.isEmpty).getD false
  let version := (old.map (·.version)).getD 0
  if c.flag 12 then
    verdictOf
      (firstChecks c 0 s ++
       [(old.isNone, Status.badArg), ((old.map (·.parcel)) != some c.parcel, Status.denied), (c.staleFor version, Status.stale),
        (busy, Status.busy)])
      (.accept { objKind := 2, object := t, version := version + 1, effect := fun _ s => { s with tallies := tdel t s.tallies } })
  else
    let y := tallyOf c.buffer
    verdictOf
      (firstChecks c (tallyLen c.buffer) s ++
       [(!tallyZero c.buffer || tallyIndex c.buffer != t || !s.tallyOk t y, Status.badArg),
        (y.parcel != c.parcel || (old.map fun o => o.parcel != c.parcel).getD false || !s.treeGranted y.parcel t y.uptree y.entries,
          Status.denied),
        (c.staleFor version, Status.stale), (busy, Status.busy)])
      (.accept
        { objKind := 2, object := t, version := version + 1
          effect := fun _ s => match old with
            | none => { s with tallies := tset t y s.tallies }
            | some _ => changeTally t y s })

/-- TALLY_SET that creates or changes. -/
def execTallySet (c : Command) (s : State) : Host.Outcome State Fault Refusal := runCommand (fun d => d.opcode = 8 ∧ !d.flag 12) tallyVerdict c s

/-- TALLY_SET with FREE = 1. -/
def execTallySetFree (c : Command) (s : State) : Host.Outcome State Fault Refusal := runCommand (fun d => d.opcode = 8 ∧ d.flag 12) tallyVerdict c s

/-! ### MEMBER_REMAP and ADMIT (R390, R391) -/

/-- The port has been UP for the last 100 ms without a LOS, loss-of-lock or LCW_ERR event (R391). -/
def State.qualifies (s : State) (p : Nat) : Bool := s.portUp p && decide ((s.port p).cleanSince + 100000000 ≤ s.clock)

/-- The port may take an entry's place (R390): of no other use in the traverse, UP, and with a neighbour of the entry's kind; R191 and
R216 hold with it. -/
def State.portTakes (s : State) (t entry port : Nat) (c : Ctx) : Bool :=
  let e := c.entries.getD entry {}
  let new := c.withPort entry port
  (e.role == .endpoint || e.role == .child) && decide (port < 128) && port != c.uptree && (c.entries.all fun d => d.port != port) &&
  s.portUp port && s.neighbourKind port == (if e.role = .endpoint then 2 else 1) && s.offAnalysis c.uptree new.entries &&
  s.axisOk c.parcel t c.uptree new.entries

/-- The parcel's plat grants a port. -/
def State.portGranted (s : State) (parcel port : Nat) : Bool := (s.parcel parcel).any fun p => p.plat.ports.getLsbD port

/-- The traverse already has a REMAP or ADMIT action. -/
def State.memberAction (s : State) (t : Nat) : Bool :=
  s.actions.any fun a => match a.kind with
    | .remap u _ _ _ => u == t
    | .warmAdmit u _ _ _ => u == t
    | _ => false

/-- The checks and effect of MEMBER_REMAP and ADMIT. ADMIT with RESTART_ONLY changes no traverse (R391), so it is of the commands that use an
object (R306, log 105). -/
def memberVerdict (c : Cmd) (s : State) : CmdVerdict :=
  let t := c.arg 0 12
  let entry := c.arg 16 8
  let port := c.arg 24 8
  let first := c.word 64
  let admits := c.opcode == 0x17
  let restart := admits && !c.flag 32
  match s.traverse t with
  | none => .reject Status.badArg 0
  | some v =>
    let triggerBad := if restart then !c.noTrigger || first != 0
      else c.trigger.periodic || c.trigger.anyStep || (admits && c.noTrigger) || !c.streamOk s || before32 first v.nextGen
    verdictOf
      (firstChecks c 0 s ++
       [(decide (v.ctx.entries.length ≤ entry) || !s.portTakes t entry port v.ctx || triggerBad, Status.badArg),
        (v.ctx.parcel != c.parcel || !s.portGranted c.parcel port, Status.denied),
        (if restart then c.staleUse v.version else c.staleFor v.version, Status.stale), (s.memberAction t || (admits && !s.qualifies port), Status.busy),
        (!restart && noActionRoom c.parcel s, Status.noSpace)])
      (.accept
        { objKind := 1, object := t, version := if restart then v.version else v.version + 1
          result := if restart then 0 else s.freshOrdinal.toNat
          effect := fun _ s =>
            if restart then s
            else addAction c.parcel c.trigger (if admits then .warmAdmit t entry port first else .remap t entry port first)
              (s.setTraverse t fun v => { v with version := v.version + 1 }) })

/-- MEMBER_REMAP. -/
def execMemberRemap (c : Command) (s : State) : Host.Outcome State Fault Refusal := runCommand (fun d => d.opcode = 0x16) memberVerdict c s

/-- ADMIT with POLICY RESTART_ONLY. -/
def execAdmitRestartOnly (c : Command) (s : State) : Host.Outcome State Fault Refusal :=
  runCommand (fun d => d.opcode = 0x17 ∧ !d.flag 32) memberVerdict c s

/-- ADMIT with POLICY WARM_ADMIT. -/
def execAdmitWarm (c : Command) (s : State) : Host.Outcome State Fault Refusal :=
  runCommand (fun d => d.opcode = 0x17 ∧ d.flag 32) memberVerdict c s

/-! ### BASIS_LOAD (R180, R181) -/

/-- The parcel may load the slot: granted by its plat, and not in use by another parcel (R371, R324). -/
def State.slotAllowed (s : State) (parcel slot : Nat) : Bool :=
  let b := s.bases.getD slot {}
  ((s.parcel parcel).any fun p => p.plat.basisSlots.getLsbD slot) && (b.state == .empty || b.parcel == parcel)

/-- A load begins: the slot is LOADING, and every ledger die owes an array self-test (R180, R186). -/
def startBasis (parcel slot : Nat) (s : State) : State :=
  let dies := s.placement.usable.filter fun i => !s.pairFailed i
  let s := { s with bases := s.bases.modify slot fun b => { b with state := .loading, parcel := parcel, version := b.version + 1 } }
  forEach dies (fun i s => s.setDie i fun d => { d with selfTestOwed := true }) s

/-- A binding takes new values from FIRST_GEN on; the old ones stay as PREV until no generation before it remains open (R180, R181). -/
def bind (t slot : Nat) (recon valid : Bool) (first : BitVec 32) (s : State) : State :=
  let b := s.binding t
  let open_ := (s.traverse t).any fun v => before32 v.oldestGen first
  let new : Binding :=
    { valid := valid, prevValid := b.valid && open_, slot := slot, recon := recon, prevSlot := b.slot, prevRecon := b.recon
      firstGen := first, version := b.version + 1 }
  { s with bindings := tset t new s.bindings }

/-- The checks and effect of BASIS_LOAD. -/
def basisVerdict (c : Cmd) (s : State) : CmdVerdict :=
  let slot := c.arg 1 3
  let b := s.bases.getD slot {}
  if c.flag 0 then
    let t := c.arg 16 12
    let first := c.word 32
    let old := s.binding t
    match s.traverse t with
    | none => .reject Status.badArg 0
    | some v =>
      let recon := c.flag 28
      let valid := c.flag 29
      let fits := (v.ctxAt first).projectOk && v.ctx.projectOk
      let coeffBound := !recon && !(s.bound t).isEmpty
      verdictOf
        (firstChecks c 0 s ++
         [(b.state != .ready || b.parcel != v.ctx.parcel || (valid && !fits) || coeffBound || before32 first v.nextGen, Status.badArg),
          (v.ctx.parcel != c.parcel, Status.denied), (c.staleFor old.version, Status.stale),
          (old.prevValid && before32 v.oldestGen old.firstGen, Status.busy)])
        (.accept { objKind := 5, object := t, version := old.version + 1, effect := fun _ s => bind t slot recon valid first s })
  else
    let w := c.arg 4 2
    let r := c.arg 8 8
    let n := 32 * 2 ^ w * r + r
    verdictOf
      (firstChecks c 0 s ++
       [(!s.slotAllowed c.parcel slot, Status.denied), (c.staleFor b.version, Status.stale), (decide (s.bindingsOf slot > 0), Status.busy),
        (!shapeOk w r || decide (c.len < n) || (c.dataOk && decide (n ≤ c.data.length) && (basisOf w r (c.data.take n)).isNone), Status.badArg)])
      (.accept
        { objKind := 4, object := slot, version := b.version + 1, ready := false
          ending := .basisLoad slot w r (c.arg 64 32) (c.data.take n) (c.dataOk && n ≤ c.data.length)
          effect := fun _ s => startBasis c.parcel slot s })

/-- BASIS_LOAD with OP LOAD. -/
def execBasisLoad (c : Command) (s : State) : Host.Outcome State Fault Refusal := runCommand (fun d => d.opcode = 0x0F ∧ !d.flag 0) basisVerdict c s

/-- BASIS_LOAD with OP BIND. -/
def execBasisBind (c : Command) (s : State) : Host.Outcome State Fault Refusal := runCommand (fun d => d.opcode = 0x0F ∧ d.flag 0) basisVerdict c s

/-! ### NORM_READ (R153, R154) -/

/-- The norm source's place in a member table: the REGION entry with handle 0. -/
def Ctx.normEntry (c : Ctx) : Option Nat := c.entries.findIdx? fun e => e.role == .region && e.region == 0

/-- Regions of a norm set of a parcel on this part. -/
def State.normSet (s : State) (parcel set : Nat) : List (Nat × Region) :=
  s.regions.filter fun e => e.2.parcel = parcel ∧ e.2.gradValid ∧ e.2.normSet = set

/-- The norm traverse meets R153. -/
def normOk (parcel : Nat) (c : Ctx) (rs : List (Nat × Region)) : Bool :=
  c.parcel == parcel && c.kind == .reduce && c.rmode == .lx96 && c.dmode == .fixed && c.autoOpen && c.fmtIn == 0 && c.normEntry.isSome &&
  rs.all fun e => e.2.normD == c.datum && e.2.normF == c.floor

/-- The oldest pending slots of a set. -/
def oldestSlots (rs : List (Nat × Region)) : List Slot := rs.filterMap fun e => e.2.pendingSlots.head?.map (·.2)

/-- The local sum of the partials over all dies (R37, R153). -/
def localNorm (rs : List (Nat × Region)) : Lx := Lx.sumWide ((oldestSlots rs).flatMap fun p => p.norms.map (·.2))

/-- The local sum enters generation G as chain 0 of the norm source, END set (R153); poisoned where a partial was lost (R387). -/
def contributeNorm (t : Nat) (g : BitVec 32) (x : Lx) (lost : Bool) (s : State) : State :=
  let (s, ok) := admitGen t g false .implicit none 0xFF s
  if !ok then s
  else
    match s.traverse t, s.genOf t g with
    | some v, some y =>
      let c := v.ctxAt g
      match c.normEntry with
      | none => s.bump Counter.misdirected t
      | some i =>
        let p := y.progress.getD i {}
        if y.datum ≠ c.datum then abortGen t g 6 0xFF 0 s
        else if lost then abortGen t g 3 0xFF 0 s
        else if p.sent.contains 0 then abortGen t g 5 0xFF 0 s
        else
          let s := addInput t g c 0 (.lx 0 [x] (iTerm 0 [x])) s
          let s := s.setGen t g fun y => { y with progress := lmap i (fun p =>
            { p with last := some 0, sent := p.sent ++ [0], ended := true, lastAt := s.clock }) y.progress }
          settleGen t g s
    | _, _ => s

/-- A chain in HBM whose fill finds a line that does not decode: its value is lost (R285, Table 18.2). -/
def State.fillFails (s : State) (a : Acc) : Bool :=
  (a.residency == .hbm || a.residency == .filling) && a.spilled.any fun l => s.decoded a.die l == .lost

/-- The accumulator NORM_READ reads is freed, with the decodes of its fill where it lay in HBM (R154, R268, R285). -/
def dropKept (t : Nat) (g : BitVec 32) (a : Acc) (s : State) : State :=
  let s := forEach a.spilled (fun l s => decodeCount a.die l false s) s
  (freeAcc a s).setTraverse t fun v => { v with kept := v.kept.filter fun k => !(k.1 == g && k.2.2.chain == a.chain) }

/-- The checks and effect of NORM_READ. A READ of a chain whose value is lost finds it unknown (log 98). -/
def normVerdict (c : Cmd) (s : State) : CmdVerdict :=
  let t := c.arg 16 12
  let g := c.word 32
  match s.traverse t with
  | none => .reject Status.badArg 0
  | some v =>
    let k := v.ctxAt g
    if !c.flag 0 then
      let rs := s.normSet c.parcel (c.arg 4 4)
      let x := localNorm rs
      verdictOf
        (firstChecks c 0 s ++
         [(!normOk c.parcel k rs, Status.badArg), (c.staleUse v.version, Status.stale),
          (rs.any (fun e => e.2.pendingSlots.isEmpty), Status.busy)])
        (.accept
          { objKind := 1, object := t, version := v.version, result := x.slot
            effect := fun _ s => contributeNorm t g x ((oldestSlots rs).any (·.lostNorm)) s })
    else
      let live := (v.gen? g).any fun x => !x.phase.isTerminal
      let aborted := (v.gen? g).any (fun x => x.phase == .aborted) || v.verdicts.any fun w => w.gen == g && w.phase == .aborted
      match (if k.rmode = .lx96 then v.kept.find? fun e => e.1 = g ∧ e.2.2.chain = 0 ∧ !s.fillFails e.2.2 else none) with
      | some (_, d, a) =>
        let x := (lxDense 0 1 a.lx).headD {}
        verdictOf
          (firstChecks c 0 s ++
           [(!k.isRoot, Status.badArg), (v.ctx.parcel != c.parcel, Status.denied), (c.staleUse v.version, Status.stale)])
          (.accept
            { objKind := 1, object := t, version := v.version
              result := packFields [(0, 128, x.slot), (128, 9, unsignedOf 9 d), (192, 64, x.encode .fp64 false d)]
              effect := fun _ s => dropKept t g a s })
      | none =>
        verdictOf
          (firstChecks c 0 s ++
           [(!k.isRoot, Status.badArg), (v.ctx.parcel != c.parcel, Status.denied), (c.staleUse v.version, Status.stale),
            (live, Status.busy), (aborted, Status.abortCommon)])
          (.reject Status.badArg 0)

/-- NORM_READ, LOCAL. -/
def execNormReadLocal (c : Command) (s : State) : Host.Outcome State Fault Refusal := runCommand (fun d => d.opcode = 0x0D ∧ !d.flag 0) normVerdict c s

/-- NORM_READ, READ. -/
def execNormReadRead (c : Command) (s : State) : Host.Outcome State Fault Refusal := runCommand (fun d => d.opcode = 0x0D ∧ d.flag 0) normVerdict c s

/-! ### SERVE_ARM (R159) -/

/-- Armings of a serve traverse, by ordinal. -/
def State.armings (s : State) (t : Nat) : List (Action × Nat) :=
  s.actions.filterMap fun a => match a.kind with
    | .prefetch u k _ _ => if u = t then some (a, k) else none
    | _ => none

/-- A serve traverse rooted at this part (R155). -/
def Ctx.isServe (c : Ctx) : Bool := c.kind == .broadcast && c.isRoot && c.entries.any fun e => e.role == .region

/-- The checks and effect of SERVE_ARM. -/
def serveVerdict (c : Cmd) (s : State) : CmdVerdict :=
  let t := c.arg 0 12
  if c.flag 12 then
    match (s.armings t).find? fun e => e.1.ordinal = c.word 64 with
    | none => .reject Status.badArg 0
    | some (a, _) =>
      verdictOf (firstChecks c 0 s ++ [(a.parcel != c.parcel, Status.denied), (c.staleFor a.version, Status.stale)])
        (.accept { objKind := 12, object := a.ordinal.toNat, version := a.version + 1, effect := fun _ s => dropAction a.ordinal s })
  else
    match s.traverse t with
    | none => .reject Status.badArg 0
    | some v =>
      let k := c.arg 16 4
      let g := c.trigger
      verdictOf
        (firstChecks c 0 s ++
         [(!v.ctx.isServe || k == 0 || !g.periodic || !g.anyStep || !g.anyLayer || !c.streamOk s, Status.badArg),
          (v.ctx.parcel != c.parcel, Status.denied), (c.staleUse v.version, Status.stale),
          (decide ((s.armings t).length ≥ 4) || noActionRoom c.parcel s, Status.noSpace)])
        (.accept
          { objKind := 1, object := t, version := v.version, result := s.freshOrdinal.toNat
            effect := fun _ s => addAction c.parcel g (.prefetch t k (c.flag 13) (c.arg 32 16)) s })

/-- SERVE_ARM. -/
def execServeArm (c : Command) (s : State) : Host.Outcome State Fault Refusal := runCommand (fun d => d.opcode = 0x0E ∧ !d.flag 12) serveVerdict c s

/-- SERVE_ARM with DISARM = 1. -/
def execServeDisarm (c : Command) (s : State) : Host.Outcome State Fault Refusal := runCommand (fun d => d.opcode = 0x0E ∧ d.flag 12) serveVerdict c s

end Sys2Proof.Machine
end

