-- ==== Sys2Proof/Machine/Ledger.lean ====
section
/-! DEFINITION. Commands on ledger regions: LEDGER_ALLOC, LEDGER_LOAD, LEDGER_SAVE, APPLY and EASEMENT_GRANT (R129-R150, R160, R161,
Table 6.4), and AUDIT_READ (R294, R384). -/
namespace Sys2Proof.Machine

/-! ### Shared parts -/

/-- The rows of Table 6.4 for any command naming a region, from the second on. -/
def regionChecks (c : Cmd) (r : Region) : List (Bool × Nat) :=
  [(r.parcel != c.parcel, Status.denied), (c.staleFor r.version, Status.stale), (r.running.isSome, Status.busy)]

/-- A command on a region is accepted: VERSION rises, and the command holds the region's running mark until it ends (R139). -/
def takeRegion (slot seq : Nat) (s : State) : State :=
  s.setRegion slot fun r => { r with version := r.version + 1, running := some seq }

/-- The running mark a command holds is released. -/
def releaseRegion (seq : Nat) (s : State) : State :=
  { s with regions := s.regions.map fun e => if e.2.running = some seq then (e.1, { e.2 with running := none }) else e }

/-- A member table of this part names the region (R136, R161); those of one parcel where one is given. -/
def State.named (s : State) (handle : Nat) (parcel : Option Nat) : Bool :=
  s.traverses.any fun e => (match parcel with
      | some p => e.2.ctx.parcel == p
      | none => true) &&
    (e.2.ctx.entries.any (fun m => m.region == handle) || match e.2.prev with
      | some k => k.1.entries.any fun m => m.region == handle
      | none => false)

/-! ### LEDGER_ALLOC (R129, R131, R135, R136) -/

/-- A slot no region has; which one the part takes is open (R129, log 6). -/
def State.freshSlot (s : State) : Nat :=
  let first := s.drawn % 65535
  (((List.range (s.regions.length + 1)).map fun i => (first + i) % 65535 + 1).find? fun n => (tget n s.regions).isNone).getD 1

/-- SERIAL of a slot's next use: 1 at first, then one more each time, from 0xFFFF to 1 (R129). -/
def State.nextSerial (s : State) (slot : Nat) : Nat :=
  match tget slot s.serials with
  | none => 1
  | some n => if n = 0xFFFF then 1 else n + 1

/-- The stream ranges of two regions overlap (R135). -/
def Region.streamsMeet (a b : Region) : Bool :=
  decide (a.gradElemFirst < b.gradElemFirst + 4096 * b.stripes ∧ b.gradElemFirst < a.gradElemFirst + 4096 * a.stripes)

/-- R135 for a region with GRAD_VALID = 1. -/
def State.gradOk (s : State) (r : Region) : Bool :=
  r.gradElemFirst % 4096 == 0 && (s.traverse r.gradTraverse).all (fun v => fmtElems v.ctx.fmtIn ≤ 4096) &&
  (s.bound r.gradTraverse).all fun e => !r.streamsMeet e.2

/-- The BAD_ARG row of Table 6.4 for a create, and the ranges of Table 6.1. -/
def State.regionBad (s : State) (r : Region) : Bool :=
  decide (r.kind > 4 ∨ r.accType = 3 ∨ (r.int4 ∧ r.kind ≠ 0) ∨ (r.mirror ∧ r.kind = 4) ∨ (r.gradValid ≠ (1 ≤ r.kind ∧ r.kind ≤ 3)) ∨
    r.base > 29 ∨ r.count = 0 ∨ r.normF > 62 ∨ r.scatterF > 62) || (r.gradValid && !s.gradOk r)

/-- The checks and effect of LEDGER_ALLOC. -/
def allocVerdict (c : Cmd) (s : State) : CmdVerdict :=
  let h := c.arg 0 32
  let new := regionOf c.buffer
  if c.flag 32 then
    match s.regionAt h with
    | none => .reject Status.badArg 0
    | some (slot, r) =>
      verdictOf (firstChecks c 0 s ++ regionChecks c r ++ [(!r.grantees.isEmpty || s.named h none, Status.busy)])
        (.accept
          { objKind := 3, object := h, version := r.version + 1
            effect := fun _ s => freeExtents r.extents { s with regions := tdel slot s.regions } })
  else if h = 0 then
    let needs := new.needs s
    let room := allocExtents s needs
    let count := (s.regions.filter fun e => e.2.parcel = c.parcel).length
    let full := decide (s.regions.length ≥ 65535) || !s.ledgerOk || s.overQuota c.parcel (needBytes needs) ||
      decide (count ≥ ((s.parcel c.parcel).map fun p => p.plat.regionQuota).getD 0)
    let slot := s.freshSlot
    let serial := s.nextSerial slot
    verdictOf
      (firstChecks c 128 s ++
       [(!regionZero c.buffer || s.regionBad new, Status.badArg), (new.parcel != c.parcel, Status.denied), (c.staleFor 0, Status.stale),
        (!full && (match room with
          | .inr unzeroed => unzeroed
          | .inl _ => false), Status.busy),
        (full || (match room with
          | .inr _ => true
          | .inl _ => false), Status.noSpace)])
      (.accept
        { objKind := 3, object := slot + serial * 65536, version := 1, result := slot + serial * 65536
          effect := fun _ s =>
            let xs := match room with
              | .inl xs => xs
              | .inr _ => []
            State.draw 1 { s with regions := tset slot { new with serial := serial, extents := xs } s.regions
                                  serials := tset slot serial s.serials } })
  else
    match s.regionAt h with
    | none => .reject Status.badArg 0
    | some (slot, r) =>
      verdictOf
        (firstChecks c 128 s ++ [(!regionZero c.buffer || decide (new.normF > 62), Status.badArg), (new.parcel != c.parcel, Status.denied)] ++
         regionChecks c r ++ [(new.fixedPart != r.fixedPart, Status.badArg)])
        (.accept
          { objKind := 3, object := h, version := r.version + 1
            effect := fun seq s => takeRegion slot seq (s.setRegion slot fun r => r.tuned new) })

/-- LEDGER_ALLOC that creates a region. -/
def execLedgerAllocCreate (c : Command) (s : State) : Host.Outcome State Fault Refusal :=
  runCommand (fun d => d.opcode = 9 ∧ !d.flag 32 ∧ d.arg 0 32 = 0) allocVerdict c s

/-- LEDGER_ALLOC that changes a region. -/
def execLedgerAllocChange (c : Command) (s : State) : Host.Outcome State Fault Refusal :=
  runCommand (fun d => d.opcode = 9 ∧ !d.flag 32 ∧ d.arg 0 32 ≠ 0) allocVerdict c s

/-- LEDGER_ALLOC with FREE = 1. -/
def execLedgerAllocFree (c : Command) (s : State) : Host.Outcome State Fault Refusal :=
  runCommand (fun d => d.opcode = 9 ∧ d.flag 32) allocVerdict c s

/-! ### LEDGER_LOAD and LEDGER_SAVE (R137, R138, R140) -/

/-- Bytes a stripe has without its padding. -/
def Region.stripeBytes (r : Region) (a stripe : Nat) : Nat := (r.elemsOf stripe * r.bits a + 7) / 8

/-- Bytes of a run of stripes (R137). -/
def Region.runBytes (r : Region) (a first n : Nat) : Nat := (List.range n).foldl (fun t i => t + r.stripeBytes a (first + i)) 0

/-- ARRAY is one the KIND has and the stripes lie in the region (Table 6.4). -/
def Region.runOk (r : Region) (a first n : Nat) : Bool := a ≤ 3 && r.bits a != 0 && decide (1 ≤ n ∧ first + n ≤ r.stripes)

/-- Space that a load reserves for the lost stripes it names (R137). -/
def State.reloadNeeds (s : State) (r : Region) (a first n : Nat) : List Need :=
  ((List.range n).filter fun i => r.stripeLost a (first + i)).flatMap fun i => (r.copies a).map fun k =>
    { array := a, copy := k, logical := r.logical (first + i) k, pair := s.physical (r.logical (first + i) k), len := r.stripeSize a
      stripe := some (first + i) }

/-- The checks and effect of LEDGER_LOAD. -/
def loadVerdict (c : Cmd) (s : State) : CmdVerdict :=
  let h := c.arg 0 32
  let a := c.arg 32 2
  let first := c.arg 64 28
  let n := c.arg 96 28
  let zero := c.flag 34
  match s.regionAt h with
  | none => .reject Status.badArg 0
  | some (slot, r) =>
    let run := r.runOk a first n
    let len := if run then r.runBytes a first n else 0
    let needs := if run then s.reloadNeeds r a first n else []
    let room := allocExtents s needs
    verdictOf
      (firstChecks c 0 s ++ [(!zero && decide (c.len < len), Status.badArg)] ++ regionChecks c r ++
       [(!r.grantees.isEmpty, Status.denied), (!run, Status.badArg),
        (!needs.isEmpty && (s.overQuota r.parcel (needBytes needs) || (match room with
          | .inr _ => true
          | .inl _ => false)), Status.noSpace)])
      (.accept
        { objKind := 3, object := h, version := r.version + 1
          ending := .ledgerLoad h a first n (c.arg 128 32) zero (c.data.take len) (c.dataOk && len ≤ c.data.length)
          effect := fun seq s =>
            let xs := match room with
              | .inl xs => xs
              | .inr _ => []
            takeRegion slot seq (s.setRegion slot fun r => { r with extents := r.extents ++ xs }) })

/-- LEDGER_LOAD with ZERO = 0. -/
def execLedgerLoad (c : Command) (s : State) : Host.Outcome State Fault Refusal :=
  runCommand (fun d => d.opcode = 0x0A ∧ !d.flag 34) loadVerdict c s

/-- LEDGER_LOAD with ZERO = 1. -/
def execLedgerLoadZero (c : Command) (s : State) : Host.Outcome State Fault Refusal :=
  runCommand (fun d => d.opcode = 0x0A ∧ d.flag 34) loadVerdict c s

/-- Writes the bytes of a run of stripes, one stripe after another. -/
def writeRun (slot : Nat) (r : Region) (a : Nat) : List Nat → Bytes → State → State
  | [], _, s => s
  | st :: rest, bs, s =>
    let n := r.stripeBytes a st
    writeRun slot r a rest (bs.drop n) (writeStripe slot r a st 0 (bs.take n) s)

/-- The end of a LEDGER_LOAD (R137, R380, R383): the stripes are written and loaded, or, where the bytes did not come or their CRC-32C
differs, not loaded. -/
def finishLoad (handle a first n crc : Nat) (zero : Bool) (data : Bytes) (busOk : Bool) (s : State) : State × Nat :=
  match s.regionAt handle with
  | none => (s, 0)
  | some (slot, r) =>
    let bs := if zero then List.replicate (r.runBytes a first n) 0 else data
    if !zero ∧ (!busOk ∨ crc32c data ≠ crc) then (s.setRegion slot fun r => r.setLoaded a first n false, Status.closure)
    else
      let s := writeRun slot r a ((List.range n).map (first + ·)) bs s
      let s := s.setRegion slot fun r =>
        { r.setLoaded a first n true with lost := r.lost.filter fun e => !(e.1 = a ∧ first ≤ e.2 ∧ e.2 < first + n) }
      (settleLost slot (clearPoison slot a first n s), Status.ok)

/-- The bytes of a run of stripes, zeros for a part that cannot be read. -/
def State.readRun (s : State) (r : Region) (a first n : Nat) : Bytes :=
  (List.range n).flatMap fun i =>
    (s.readStripe r a (first + i) 0 (r.stripeBytes a (first + i))).getD (List.replicate (r.stripeBytes a (first + i)) 0)

/-- The checks and effect of LEDGER_SAVE. -/
def saveVerdict (c : Cmd) (s : State) : CmdVerdict :=
  let h := c.arg 0 32
  let a := c.arg 32 2
  let first := c.arg 64 28
  let n := c.arg 96 28
  match s.regionAt h with
  | none => .reject Status.badArg 0
  | some (slot, r) =>
    let run := r.runOk a first n
    let stripes := if run then (List.range n).map (first + ·) else []
    let data := s.readRun r a first (if run then n else 0)
    verdictOf
      (firstChecks c 0 s ++ [(run && decide (c.len < r.runBytes a first n), Status.badArg)] ++ regionChecks c r ++
       [(!run, Status.badArg), (stripes.any (fun st => r.stripeLost a st || s.stripePoisoned r a st), Status.lost),
        (stripes.any (fun st => !r.loaded.contains (a, st)), Status.notLoaded)])
      (.accept
        { objKind := 3, object := h, version := r.version + 1
          result := packFields [(0, 32, crc32c data), (32, 32, (r.version + 1).toNat), (64, 32, r.applied.toNat)]
          ending := .ledgerSave h a first n c.pair c.addr data c.dataOk
          effect := fun seq s =>
            let counted := a == 3 && r.accType == 1 && r.addedSinceSave
            let s := if counted then bumpNondet r.parcel (s.setRegion slot fun r => { r with addedSinceSave := false }) else s
            takeRegion slot seq s })

/-- The command is the one a row takes, and passes every check. -/
def State.passes? (s : State) (form : Cmd → Bool) (own : Cmd → State → CmdVerdict) (c : Command) : Bool :=
  let d := s.loaded c
  s.takes c && form d && (match verdictOf (commonChecks d s) (own d s) with
    | .accept _ => true
    | _ => false)

/-- The lines a LEDGER_SAVE that passes its checks will read are decoded; a unit found poisoned then counts for those checks (R268, R380, R381). -/
def decodeSave (c : Command) (s : State) : State :=
  let d := s.loaded c
  let a := d.arg 32 2
  if !s.passes? (fun d => d.opcode = 0x0B) saveVerdict c then s
  else match s.regionAt (d.arg 0 32) with
    | none => s
    | some (slot, r) => forEach ((List.range (d.arg 96 28)).map (d.arg 64 28 + ·)) (fun st s => decodeStripe slot a st 0 (r.stripeBytes a st) s) s

/-- LEDGER_SAVE. -/
def execLedgerSave (c : Command) (s : State) : Host.Outcome State Fault Refusal :=
  runCommand (fun d => d.opcode = 0x0B) saveVerdict c (decodeSave c s)

/-! ### APPLY (R148, R387) -/

/-- The checks and effect of APPLY. -/
def applyVerdict (c : Cmd) (s : State) : CmdVerdict :=
  let h := c.arg 0 32
  let discard := c.flag 32
  let gen := c.word 64
  let srGen := c.word 96
  match s.regionAt h with
  | none => .reject Status.badArg 0
  | some (slot, r) =>
    let held := r.slotOf gen
    let aborted := (s.traverse r.gradTraverse).any fun v => v.verdicts.any fun w => w.gen == gen && w.phase == .aborted
    let oldest := r.pendingGens.head? == some gen
    verdictOf
      (firstChecks c 0 s ++ regionChecks c r ++
       [(decide (r.kind = 0 ∨ r.kind > 3), Status.badArg), (!r.grantees.isEmpty, Status.denied), (r.stateCode == 0, Status.notLoaded),
        (r.isLost, Status.lost), (aborted, Status.abortCommon), (held.any (fun p => !p.2.complete), Status.busy), (!oldest, Status.badArg),
        (!discard && r.applied != 0 && !before32 r.lastSrGen srGen, Status.badArg),
        (!discard && held.any (fun p => !p.2.lostStripes.isEmpty), Status.lost)])
      (.accept
        { objKind := 3, object := h, version := r.version + 1
          ending := if discard then .plain else .apply h gen srGen (c.word 128) (c.word 160) (c.word 192) (c.word 224) (s.readsBefore slot)
          effect := fun seq s =>
            let s := takeRegion slot seq s
            match held with
            | some (a, _) => if discard then s.setRegion slot fun r => r.putSlot a none else s
            | none => s })

/-- APPLY. -/
def execApply (c : Command) (s : State) : Host.Outcome State Fault Refusal := runCommand (fun d => d.opcode = 0x0C ∧ !d.flag 32) applyVerdict c s

/-- APPLY with DISCARD = 1. -/
def execApplyDiscard (c : Command) (s : State) : Host.Outcome State Fault Refusal := runCommand (fun d => d.opcode = 0x0C ∧ d.flag 32) applyVerdict c s

/-! ### EASEMENT_GRANT (R160, R161) -/

/-- Easements of the part. -/
def State.grantsHeld (s : State) : Nat := s.regions.foldl (fun a e => a + e.2.grantees.length) 0

/-- The checks and effect of EASEMENT_GRANT. A second grant to one parcel changes the version alone. -/
def easementVerdict (c : Cmd) (s : State) : CmdVerdict :=
  let h := c.arg 0 32
  let g := c.arg 32 16
  match s.regionAt h with
  | none => .reject Status.badArg 0
  | some (slot, r) =>
    let own : List (Bool × Nat) :=
      if c.flag 48 then [(!r.grantees.contains g, Status.badArg), (s.named h (some g), Status.busy)]
      else
        [((s.parcel g).isNone || r.kind != 0, Status.badArg), (r.stateCode == 0, Status.notLoaded), (r.isLost, Status.lost),
         (!r.grantees.contains g && decide (r.grantees.length ≥ 255 ∨ s.grantsHeld ≥ 4096 ∨
            s.grantsGiven c.parcel ≥ ((s.parcel c.parcel).map fun p => p.plat.grantQuota).getD 0), Status.noSpace)]
    verdictOf (firstChecks c 0 s ++ regionChecks c r ++ own)
      (.accept
        { objKind := 3, object := h, version := r.version + 1, aux := g
          effect := fun seq s =>
            takeRegion slot seq (s.setRegion slot fun r =>
              { r with grantees := if c.flag 48 then r.grantees.filter (· ≠ g)
                                   else if r.grantees.contains g then r.grantees else r.grantees ++ [g] }) })

/-- EASEMENT_GRANT. -/
def execEasementGrant (c : Command) (s : State) : Host.Outcome State Fault Refusal :=
  runCommand (fun d => d.opcode = 0x18 ∧ !d.flag 48) easementVerdict c s

/-- EASEMENT_GRANT with REVOKE = 1. -/
def execEasementRevoke (c : Command) (s : State) : Host.Outcome State Fault Refusal :=
  runCommand (fun d => d.opcode = 0x18 ∧ d.flag 48) easementVerdict c s

/-! ### AUDIT_READ (R294, R384) -/

/-- The checks and effect of AUDIT_READ. -/
def auditVerdict (c : Cmd) (s : State) : CmdVerdict :=
  let ledger := c.flag 0
  let h := c.arg 32 32
  let r := (s.regionAt h).map (·.2)
  let scheduled := c.flag 2
  let bad := (ledger && r.isNone) || decide (c.len < if ledger then 64 else 3600) || (scheduled && !c.streamOk s)
  let denied := if ledger then r.any fun r => r.parcel != c.parcel else c.notZero
  let stale := ledger && r.any fun r => c.staleUse r.version
  let busy := !scheduled && (if ledger then r.any fun r => r.running.isSome else s.xbar.walk.isSome)
  let start (seq : Nat) (s : State) : State :=
    if scheduled then addAction c.parcel c.trigger (.audit (!ledger) (c.flag 1) h c.pair c.addr c.ring c.len) s
    else if ledger then (startLedgerAudit h (some seq) c.pair c.addr c.ring c.dataOk s).getD s
    else (startPoolAudit (c.flag 1) (some seq) c.pair c.addr c.ring c.dataOk s).getD s
  verdictOf
    (firstChecks c 0 s ++
     [(bad, Status.badArg), (denied, Status.denied), (stale, Status.stale), (busy, Status.busy),
      (scheduled && noActionRoom c.parcel s, Status.noSpace)])
    (.accept
      { objKind := if ledger then 3 else 0, object := if ledger then h else 0, version := (r.map (·.version)).getD 0
        result := if scheduled then s.freshOrdinal.toNat else 0
        ending := if scheduled then .plain else if ledger then .ledgerAudit h else .poolAudit
        ready := scheduled, effect := start })

/-- AUDIT_READ of the cell pool. -/
def execAuditReadPool (c : Command) (s : State) : Host.Outcome State Fault Refusal :=
  runCommand (fun d => d.opcode = 0x1C ∧ !d.flag 0 ∧ !d.flag 2) auditVerdict c s

/-- AUDIT_READ of a region. -/
def execAuditReadLedger (c : Command) (s : State) : Host.Outcome State Fault Refusal :=
  runCommand (fun d => d.opcode = 0x1C ∧ d.flag 0 ∧ !d.flag 2) auditVerdict c s

/-- AUDIT_READ with SCHEDULED = 1. -/
def execAuditReadScheduled (c : Command) (s : State) : Host.Outcome State Fault Refusal :=
  runCommand (fun d => d.opcode = 0x1C ∧ d.flag 2) auditVerdict c s

/-! ### The end of a command (R304) -/

/-- What a running command still does at the end of its effect: the state after it, and the status. -/
def performEnding (r : Running) (s : State) : State × Nat :=
  match r.ending with
  | .ledgerLoad h a first n crc zero data ok => finishLoad h a first n crc zero data ok s
  | .ledgerSave _ _ _ _ pair addr data ok => (if ok then writeHost pair addr false data s else s, if ok then r.status else Status.closure)
  | .apply h gen srGen clip lr c1 c2 _ => applyRegion h gen srGen { clip := clip.toNat, lr := lr.toNat, c1 := c1.toNat, c2 := c2.toNat } s
  | .fwStage slot crc data ok => stageImage (slot == 1) crc data ok s
  | _ => (s, r.status)

/-- The final entry, then the completion (R304, R316): with MD failed neither is written (R389), and no completion where the pair was enabled
anew since the acceptance (R309). -/
def completeRunning (r : Running) (status : Nat) (s : State) : State :=
  let s := s.setMailbox fun m => { m with running := m.running.filter fun x => x.seq ≠ r.seq }
  if s.mailbox.failed then s
  else
    let us := min 0xFFFFFFFF ((s.clock - r.acceptedAt) / 1000)
    let s := updateEntry r.seq (fun e => { e with status := status, doneUs := us }) s
    if r.lost then s
    else putCompletion r.pair { kind := 1, status := status, opcode := r.opcode, cmdIndex := r.index.toNat, parcel := r.parcel, tag := r.tag.toNat,
                                seq := r.seq, version := r.version.toNat, result := r.result } s

/-- The command's effect may end: while the crossbar forwards, past which MD reaches no copy of the book (R17), and once the groups it works on
run (R347); an APPLY's only after those accepted before it, and after every read of its region by a generation that opened before it was
accepted (R148, R150). -/
def State.mayEnd (s : State) (r : Running) : Bool :=
  !s.xbar.stopped && s.pairsRun (s.commandPairs r.ending) &&
  match r.ending with
  | .apply h _ _ _ _ _ _ before =>
    (s.mailbox.running.all fun o => decide (r.seq ≤ o.seq) || !o.ending.isApply) &&
    s.traverses.all fun e => e.2.gens.all fun x => !(before.contains (e.1, x.gen) && s.readsOwed (h % 65536) e.2 x)
  | _ => true

/-- COMMAND_EFFECT_END (R304): the effect of the running command of a SEQ has ended. Reads that waited for an APPLY go on (R150). -/
def execCommandEffectEnd (seq : Nat) (s : State) : Host.Outcome State Fault Refusal :=
  .next (match s.mailbox.running.find? fun r => r.seq = seq ∧ r.ready ∧ s.mayEnd r with
    | none => s
    | some r =>
      let (s, status) := performEnding r s
      let s := completeRunning r status (releaseRegion seq s)
      match r.ending with
      | .apply .. => emitAll s
      | _ => s)

end Sys2Proof.Machine
end

