-- ==== Sys2Proof/Machine/Flags.lean ====
section
/-! DEFINITION. The status fields and the 32-bit words of the BAR0 registers as a read gives them (Tables 14.1, 14.2). -/
namespace Sys2Proof.Machine

/-- STAGE (Table 14.2). -/
def Stage.code : Stage → Nat
  | .reset => 0
  | .rom => 1
  | .verify => 2
  | .fwStart => 3
  | .ready => 4
  | .failed => 5
  | .mdRestart => 6

/-- LIFECYCLE (Table 17.1). -/
def Lifecycle.code : Lifecycle → Nat
  | .blank => 0
  | .provisioned => 1
  | .deployed => 2
  | .returned => 3

/-- DEV_ID: GRADE is 1 on a part with ledger pairs fused off (R3). -/
def State.devId (s : State) : Nat :=
  packFields [(0, 4, Config.memberCode), (4, 4, if s.trust.disabledPairs = 0 then 0 else 1), (8, 8, s.trust.stepping.toNat)]

/-- BOOT_STATUS; FAIL_CODE reads only with STAGE = FAILED. -/
def State.bootStatus (s : State) : Nat :=
  packFields [(0, 4, s.boot.stage.code), (4, 1, bit s.boot.slotB), (5, 1, bit (s.book.copy0 && s.book.copy1)),
    (6, 2, s.trust.lifecycle.code), (8, 8, if s.boot.stage = .failed then s.boot.failCode else 0)]

/-- HOSTS: requesters registered, and FOREIGN_WRITES, saturating. -/
def State.hosts (s : State) : Nat :=
  packFields [(0, 5, s.mailbox.requesters.length), (16, 16, min 0xFFFF (s.counter Counter.foreignWrites partWide))]

/-- PAIR_CTL of a pair. -/
def Pair.ctl (p : Pair) : Nat := packFields [(0, 1, bit p.enable), (1, 1, bit p.inBand)]
/-- PAIR_STATUS of a pair. -/
def Pair.status (p : Pair) : Nat := packFields [(0, 16, p.cmdHead.toNat), (16, 16, p.parcel)]
/-- CMD_RING of a pair. -/
def Pair.cmdRing (p : Pair) : Nat := packFields [(0, 13, p.cmdBase), (16, 4, p.cmdSizeLog2)]
/-- CMP_RING of a pair. -/
def Pair.cmpRing (p : Pair) : Nat := packFields [(0, 13, p.cmpBase), (16, 4, p.cmpSizeLog2)]
/-- CMP_STATUS of a pair; a command is taken and accepted in one step, so QUIESCED always reads 1. -/
def Pair.cmpStatus (p : Pair) : Nat :=
  packFields [(0, 16, p.cmpTail.toNat), (16, 1, bit p.active), (17, 1, 1), (18, 1, bit p.ringError)]
/-- IN_BAND_SRC of a pair. -/
def Pair.inBandSrc (p : Pair) : Nat := packFields [(0, 16, p.ibPart), (16, 8, p.ibPort)]

/-- The pair and the register of it at a BAR0 offset (Table 14.1): registers 0 to 7 in the table's order. -/
def pairRegister (offset : Nat) : Option (Nat × Nat) :=
  if 0x1000 ≤ offset ∧ offset < 0x1800 ∧ offset % 4 = 0 then some ((offset - 0x1000) / 32, (offset - 0x1000) % 32 / 4) else none

/-- The 32-bit word a read of BAR0 gives: zero at a reserved offset (R8) and for a write-only register (R7). -/
def readRegister (offset : Nat) (s : State) : Nat :=
  match pairRegister offset with
  | some (n, 0) => (s.pair n).ctl
  | some (n, 1) => (s.pair n).status
  | some (n, 2) => (s.pair n).cmdRing
  | some (n, 3) => (s.pair n).cmpRing
  | some (n, 4) => (s.pair n).cmpStatus
  | some (n, 5) => (s.pair n).inBandSrc
  | some _ => 0
  | none =>
    match offset with
    | 0x00 => s.devId
    | 0x04 => s.bootStatus
    | 0x08 => bitsAt s.trust.serial.toNat 0 32
    | 0x0C => bitsAt s.trust.serial.toNat 32 32
    | 0x10 => s.supply.resetCount.toNat
    | 0x14 => s.boot.fwInstance.toNat
    | 0x18 => bitsAt s.book.next 0 32
    | 0x1C => bitsAt s.book.next 32 32
    | 0x20 => bitsAt s.book.oldest 0 32
    | 0x24 => bitsAt s.book.oldest 32 32
    | 0x28 => s.hosts
    | _ => 0

end Sys2Proof.Machine
end

