-- ==== Sys2Proof/Machine/Registers.lean ====
section
/-! DEFINITION. Writes of the BAR0 registers and of ring memory (R297-R301, R309, R310), and the MANAGEMENT frames MD takes
(R302, R312, R313). -/
namespace Sys2Proof.Machine

/-! ### Who writes (R299-R301) -/

/-- The requester of a PCIe access. -/
def whoOf (a : Access) : Owner := .requester a.endpoint a.requester

/-- The writer owns an active pair. -/
def State.owns (s : State) (who : Owner) (n : Nat) : Bool := (s.pair n).active && (s.pair n).owner == some who

/-- The owner of pair 0, or the in-band source, the only one whose REG frames are served, which has its rights at all times (R301). -/
def State.ownsZero (s : State) (who : Owner) : Bool :=
  match who with
  | .inBand .. => true
  | .requester .. => s.owns who 0

/-- A write is discarded and counted in FOREIGN_WRITES (R300). -/
def foreignWrite (s : State) : State := s.bump Counter.foreignWrites partWide

/-- The writer is a 17th distinct requester (R300). -/
def State.seventeenth (s : State) : Owner → Bool
  | .requester e id => 16 ≤ s.mailbox.requesters.length && !s.mailbox.requesters.contains (e, id)
  | .inBand .. => false

/-- An access by the owner of pair 0 ends its abandonment and starts its 10 s anew (R301). -/
def touchZero (who : Owner) (s : State) : State :=
  if s.owns who 0 then s.setMailbox fun m => { m with pair0At := s.clock, pair0Abandoned := false } else s

/-- The PCIe logic of an endpoint delivers accesses: the link is up, and firmware has reached READY (R341, R389). -/
def State.reachable (s : State) (a : Access) : Bool :=
  s.mailbox.linked.getD a.endpoint false && (s.boot.stage == .ready || s.boot.stage == .mdRestart) && !s.supply.inReset

/-- The endpoint and the requester ID exist. -/
def accessOk (a : Access) : Bool := a.endpoint < 2 && a.requester < 65536

/-! ### Enabling and stopping (R299, R309) -/

/-- What R299 asks of a write of ENABLE = 1. -/
def State.enableOk (s : State) (n : Nat) : Bool :=
  let p := s.pair n
  p.parcel != 0xFFFF && 4 ≤ p.cmdSizeLog2 && p.cmdSizeLog2 ≤ 10 && 4 ≤ p.cmpSizeLog2 && p.cmpSizeLog2 ≤ 12 &&
  p.rings.all (fun r => r.1 + r.2 ≤ ringMemory && s.mailbox.activeRings.all fun o => !overlap r o)

/-- The pair is active from here on: rings zeroed, indices at 0, the owner registered (R299). The completions of commands accepted before
are lost (R309). -/
def activatePair (n : Nat) (who : Owner) (s : State) : State :=
  let s := s.setPair n fun p =>
    { p with enable := true, active := true, ringError := false, owner := some (if p.inBand then .inBand p.ibPart p.ibPort else who)
             cmdHead := 0, cmdTail := 0, cmpHead := 0, cmpTail := 0 }
  let s := s.setMailbox fun m =>
    { m with ring := (s.pair n).rings.foldl (fun r x => Memory.zero x.1 x.2 r) m.ring
             inBuffers := m.inBuffers.filter fun e => e.1.1 != n
             running := m.running.map fun r => if r.pair = n then { r with lost := true } else r
             requesters := match who with
               | .requester e id => if m.requesters.contains (e, id) then m.requesters else m.requesters ++ [(e, id)]
               | .inBand .. => m.requesters }
  let s := s.setMailbox releaseRequesters
  if n = 0 then s.setMailbox fun m => { m with pair0At := s.clock, pair0Abandoned := false } else s

/-- A write of ENABLE from 0 to 1: accepted, or refused with RING_ERROR (R299). -/
def enablePair (n : Nat) (who : Owner) (s : State) : State :=
  if s.enableOk n then activatePair n who s else s.setPair n fun p => { p with enable := false, ringError := true }

/-- A write of ENABLE from 1 to 0 (R309). -/
def disablePair (n : Nat) (s : State) : State :=
  let s := stopPair n s
  if n = 0 then s.setMailbox fun m => { m with pair0Abandoned := false } else s

/-! ### Register writes (R298, R300) -/

/-- A write of PAIR_CTL: IN_BAND only on pairs 48 to 63 and only while ENABLE = 0, then ENABLE (log 37). -/
def writeCtl (n : Nat) (who : Owner) (value : BitVec 32) (s : State) : State :=
  let p := s.pair n
  let change : Bool := 48 ≤ n && value.getLsbD 1 != p.inBand
  let s := if change then (if p.enable then foreignWrite s else s.setPair n fun p => { p with inBand := value.getLsbD 1 }) else s
  if value.getLsbD 0 then (if p.enable then s else enablePair n who s) else if p.enable then disablePair n s else s

/-- A doorbell of an active pair; the part ignores doorbells once MD has failed (R309, R310, R389). -/
def writeCmdDoorbell (n : Nat) (value : BitVec 32) (s : State) : State :=
  let p := s.pair n
  let tail : BitVec 16 := value.setWidth 16
  if !p.active ∨ s.mailbox.failed then s
  else if p.cmdSlots < (tail - p.cmdHead).toNat then ringError n s
  else s.setPair n fun p => { p with cmdTail := tail }

/-- The completion doorbell (R310). -/
def writeCmpDoorbell (n : Nat) (value : BitVec 32) (s : State) : State :=
  if !(s.pair n).active ∨ s.mailbox.failed then s else s.setPair n fun p => { p with cmpHead := value.setWidth 16 }

/-- A write of a register that only holds a value: ignored bits are reserved; discarded and counted while ENABLE = 1 (R300). -/
def writePlain (n : Nat) (f : Pair → Pair) (s : State) : State :=
  if (s.pair n).enable then foreignWrite s else s.setPair n f

/-- A 32-bit write at a BAR0 offset. -/
def writeRegister (who : Owner) (offset : Nat) (value : BitVec 32) (s : State) : State :=
  let v := value.toNat
  let s := touchZero who s
  match pairRegister offset with
  | none => if s.seventeenth who then foreignWrite s else s
  | some (n, r) =>
    if r = 0 ∧ n = 0 ∧ s.mailbox.pair0Abandoned ∧ !value.getLsbD 0 then disablePair 0 s
    else if s.seventeenth who ∨ ((s.pair n).active ∧ !s.owns who n ∧ !s.ownsZero who) then foreignWrite s
    else
      match r with
      | 0 => writeCtl n who value s
      | 2 => writePlain n (fun p => { p with cmdBase := bitsAt v 0 13, cmdSizeLog2 := bitsAt v 16 4 }) s
      | 3 => writePlain n (fun p => { p with cmpBase := bitsAt v 0 13, cmpSizeLog2 := bitsAt v 16 4 }) s
      | 5 => writePlain n (fun p => { p with ibPart := bitsAt v 0 16, ibPort := bitsAt v 16 8 }) s
      | 6 => writeCmdDoorbell n value s
      | 7 => writeCmpDoorbell n value s
      | _ => s

/-- An active pair of another owner has a ring that shares a byte with the write (R300). -/
def State.ringForeign (s : State) (who : Owner) (offset len : Nat) : Bool :=
  s.mailbox.pairs.any fun p => p.active && p.owner != some who && p.rings.any fun r => overlap r (offset, len)

/-- A write to ring memory (R300). -/
def writeRing (who : Owner) (offset : Nat) (bs : Bytes) (s : State) : State :=
  let s := touchZero who s
  if s.seventeenth who ∨ s.ringForeign who offset bs.length then foreignWrite s
  else s.setMailbox fun m => { m with ring := Memory.write offset bs m.ring }

/-- A PCIe write of a pair's register. -/
def pairWrite (a : Access) (pair r : Nat) (value : BitVec 32) (s : State) : State :=
  if s.reachable a then writeRegister (whoOf a) (0x1000 + 32 * pair + 4 * r) value s else s

/-- PAIR_ENABLE (R299): a write of PAIR_CTL with ENABLE = 1. -/
def execPairEnable (a : Access) (pair : Nat) (value : BitVec 32) (s : State) : Host.Outcome State Fault Refusal :=
  guardUnit (accessOk a && pair < 64) (if value.getLsbD 0 then pairWrite a pair 0 value s else s)

/-- PAIR_DISABLE (R309, R301): a write of PAIR_CTL with ENABLE = 0. -/
def execPairDisable (a : Access) (pair : Nat) (value : BitVec 32) (s : State) : Host.Outcome State Fault Refusal :=
  guardUnit (accessOk a && pair < 64) (if value.getLsbD 0 then s else pairWrite a pair 0 value s)

/-- CMD_DOORBELL (R309). -/
def execCmdDoorbell (a : Access) (pair : Nat) (value : BitVec 32) (s : State) : Host.Outcome State Fault Refusal :=
  guardUnit (accessOk a && pair < 64) (pairWrite a pair 6 value s)

/-- CMP_DOORBELL (R310). -/
def execCmpDoorbell (a : Access) (pair : Nat) (value : BitVec 32) (s : State) : Host.Outcome State Fault Refusal :=
  guardUnit (accessOk a && pair < 64) (pairWrite a pair 7 value s)

/-- REGISTER_WRITE (R300): a write at any BAR0 offset. -/
def execRegisterWrite (a : Access) (offset : Nat) (value : BitVec 32) (s : State) : Host.Outcome State Fault Refusal :=
  guardUnit (accessOk a && offset < 0x10000 && offset % 4 == 0) (if s.reachable a then writeRegister (whoOf a) offset value s else s)

/-- RING_MEMORY_WRITE (R300). -/
def execRingMemoryWrite (a : Access) (offset : Nat) (bytes : Bytes) (s : State) : Host.Outcome State Fault Refusal :=
  guardUnit (accessOk a && decide (offset + bytes.length ≤ ringMemory)) (if s.reachable a then writeRing (whoOf a) offset bytes s else s)

/-- PAIR_ABANDONED (R301): pair 0's owner has made no access for 10 s. -/
def execPairAbandoned (s : State) : Host.Outcome State Fault Refusal :=
  .next (if !(s.pair 0).active ∨ s.mailbox.pair0Abandoned then s
         else (s.reach (s.mailbox.pair0At + 10000000000)).setMailbox fun m => { m with pair0Abandoned := true })

/-! ### MANAGEMENT frames (R302, R312, R313) -/

/-- The in-band source the running image names (R302, Table 17.5). -/
def State.inBandSource (s : State) : Option (Nat × Nat) :=
  let img := s.boot.runningImage
  if s.boot.stage = .ready ∧ imageField img 28 1 = 1 then some (imageField img 128 16, imageField img 144 8) else none

/-- SUBTYPE REG_READ, REG_WRITE. -/
def isReg (sub : Nat) (f : Frame) : Bool := f.type == 9 && f.sub8 == sub

/-- MD takes the oldest frame delivered to it, where it is of the row's kind. -/
def mdTake (p : Frame → Bool) (effect : Rx → State → State) (s : State) : State :=
  match s.mdReseq.inbox.head? with
  | none => s
  | some rx =>
    if !p rx.frame then s
    else
      let s := oweEcho rx.frame rx.port { s with mdReseq := { s.mdReseq with inbox := s.mdReseq.inbox.drop 1 } }
      if s.mailbox.failed ∨ rx.frame.taint ∨ !Frame.crcOk rx.frame then s
      else if !reservedOk rx.frame then (if rx.port < 128 then s.bump Counter.portTypeErr rx.port else s)
      else effect rx s

/-- The port on which the last frame accepted from the in-band source arrived (R302, R313). -/
def noteInBandPort (rx : Rx) (s : State) : State :=
  if rx.port < 128 ∧ s.inBandSource = some (rx.frame.srcPart, rx.frame.srcPort) then s.setMailbox fun m => { m with inBandPort := some rx.port } else s

/-- A COMMAND frame for an in-band pair from its source: entry and buffer, placed in the ring by MD (R312). -/
def takeCommandFrame (rx : Rx) (s : State) : State :=
  let f := rx.frame
  let n := f.field 104 6
  let p := s.pair n
  if f.type ≠ 9 ∨ f.sub8 ≠ 1 ∨ f.payload.length < 256 ∨ !p.active ∨ !p.inBand ∨ f.srcPart ≠ p.ibPart ∨ f.srcPort ≠ p.ibPort then
    foreignWrite s
  else
    if p.cmdSlots ≤ (p.cmdTail - p.cmdHead).toNat then s.bump Counter.ibRingFull partWide
    else
      let s := (noteInBandPort rx s).setMailbox fun m =>
        { m with ring := Memory.write (ringAt p.cmdBase + 256 * (p.cmdTail.toNat % p.cmdSlots)) (f.payload.take 256) m.ring
                 inBuffers := m.inBuffers.filter (fun e => e.1 != (n, p.cmdTail.toNat)) ++ [((n, p.cmdTail.toNat), f.payload.drop 256)] }
      s.setPair n fun p => { p with cmdTail := p.cmdTail + 1 }

/-- A REG frame MD serves: from the source of R302, 1 to 64 words at a multiple of 4. -/
def State.regOk (s : State) (f : Frame) : Bool :=
  s.inBandSource == some (f.srcPart, f.srcPort) && 1 ≤ f.field 112 8 && f.field 112 8 ≤ 64 && f.field 128 32 % 4 == 0

/-- The words a REG_READ reads: BAR0, or ring memory (SPACE). -/
def regWords (f : Frame) (s : State) : Bytes :=
  let at_ := f.field 128 32
  if f.field 120 1 = 1 then Memory.readBytes s.mailbox.ring at_ (4 * f.field 112 8)
  else (List.range (f.field 112 8)).flatMap fun i => leBytes 4 (readRegister (at_ + 4 * i) s)

/-- The writer of a REG frame. -/
def regWriter (f : Frame) : Owner := .inBand f.srcPart f.srcPort

/-- The words a REG_WRITE writes, each as one write with the rights of the owner of pair 0; none beyond ring memory. -/
def regWrite (f : Frame) (s : State) : State :=
  let at_ := f.field 128 32
  forEach (List.range (f.field 112 8)) (fun i s =>
    let w := (f.payload.drop (4 * i)).take 4
    if f.field 120 1 = 1 then (if at_ + 4 * i + 4 ≤ ringMemory then writeRing (regWriter f) (at_ + 4 * i) w s else s)
    else writeRegister (regWriter f) (at_ + 4 * i) (BitVec.ofNat 32 (leNat w)) s) s

/-- MGMT_COMMAND_FRAME (R312); a frame that is none of the three kinds MD takes is discarded and counted here. -/
def execMgmtCommandFrame (s : State) : Host.Outcome State Fault Refusal :=
  .next (mdTake (fun f => !isReg 3 f && !isReg 4 f) takeCommandFrame s)

/-- MGMT_REG_READ (R312): answered with REG_DATA to the frame's source. -/
def execMgmtRegRead (s : State) : Host.Outcome State Fault Refusal :=
  .next (mdTake (isReg 3) (fun rx s =>
    let f := rx.frame
    if !s.regOk f then foreignWrite s
    else
      let s := noteInBandPort rx (touchZero (regWriter f) s)
      mdSend 5 f.srcPart f.srcPort (f.field 104 6) (f.field 112 8) (f.field 128 32) (f.field 120 1) (regWords f s) s) s)

/-- MGMT_REG_WRITE (R312). -/
def execMgmtRegWrite (s : State) : Host.Outcome State Fault Refusal :=
  .next (mdTake (isReg 4) (fun rx s =>
    let f := rx.frame
    if !s.regOk f ∨ f.payload.length ≠ 4 * f.field 112 8 then foreignWrite s else regWrite f (noteInBandPort rx s)) s)

end Sys2Proof.Machine
end

