-- ==== Sys2Proof/Machine/Stations.lean ====
section
/-! DEFINITION. Chainage (05_chainage_and_stations.md): accepting marks (R119-R122), firing actions (R123-R125, R390, R392), HOLD (R126) and
the end of a hand-over (R366-R368). -/
namespace Sys2Proof.Machine

/-! ### Accepting a mark (R119) -/

/-- The case of R119 that a mark meets: `source` is whether port and origin, or the pin, are the stream's. -/
def markCase (x : Stream) (source : Bool) (c : Coord) (n : BitVec 32) : Nat :=
  if x.state = .off ∨ !source then 1
  else if x.state = .unset then 2
  else if n = x.markNo then (if c = x.coord then 3 else 4)
  else if (n - x.markNo).toInt < 0 ∨ c.step < x.coord.step then 5
  else if n = x.markNo + 1 ∧ c.step ≤ x.coord.step + 1 then 6
  else 7

/-- A 16-bit counter that saturates (R117). -/
def sat16 (n : Nat) : Nat := min 0xFFFF (n + 1)

/-- The stream takes the mark of case 2 or 6, at time `now` in ns (R119, R126, R351). -/
def Stream.accept (now : Nat) (c : Coord) (n : BitVec 32) (x : Stream) : Stream :=
  { x with state := .running, coord := c, markNo := n, markAt := now, marked := true
           intervals := if x.marked then ((now - x.markAt) / 1000 :: x.intervals).take 16 else x.intervals }

/-- The stream after a mark of a case. -/
def Stream.mark (now k : Nat) (c : Coord) (n : BitVec 32) (x : Stream) : Stream :=
  match k with
  | 1 => { x with srcRej := sat16 x.srcRej }
  | 3 => { x with repeats := min 0xFFFFFFFF (x.repeats + 1) }
  | 4 => { x with conflict := sat16 x.conflict }
  | 5 => { x with backRej := sat16 x.backRej }
  | 7 => { x with skipRej := sat16 x.skipRej }
  | _ => x.accept now c n

/-- A stream of one timebase die. -/
def State.streamAt (s : State) (tb n : Nat) : Stream := (s.timebases.getD tb {}).streams.getD n {}

/-- Changes a stream of one timebase die. -/
def setStreamAt (tb n : Nat) (f : Stream → Stream) (s : State) : State :=
  s.setTimebase tb fun b => { b with streams := lmap n f b.streams }

/-! ### Firing (R123, R124) -/

/-- The pattern matches a coordinate. -/
def Trigger.matches (g : Trigger) (c : Coord) : Bool :=
  (g.anyStep || g.coord.step == c.step) && (g.anyLayer || g.coord.layer == c.layer) && (g.anyPhase || g.coord.phase == c.phase) &&
  (g.anySub || g.coord.sub == c.sub)

/-- A one-shot action whose STEP the mark has passed fires late. -/
def Trigger.late (g : Trigger) (c : Coord) : Bool := !g.periodic && !g.anyStep && decide (g.coord.step < c.step)

/-- `a` is issued before `b`: Table 5.3's order, then increasing ordinal. -/
def Action.before (a b : Action) : Bool :=
  decide (a.kind.code < b.kind.code) || (a.kind.code == b.kind.code && decide (a.ordinal.toNat ≤ b.ordinal.toNat))

/-- An action put at its place. -/
def insertAction (a : Action) : List Action → List Action
  | [] => [a]
  | b :: bs => if a.before b then a :: b :: bs else b :: insertAction a bs

/-- Actions a mark of a stream fires, in the order they are issued (R124); whichever parcel the stream belongs to now (log 101). -/
def State.firedBy (s : State) (n : Nat) (c : Coord) : List Action :=
  (s.actions.filter fun a => a.trigger.stream == n && (a.trigger.matches c || a.trigger.late c)).foldr insertAction []

/-- A REMAP or ADMIT action fires: the change of R390 under R58, or a YIELD record of case 3. An ADMIT needs the qualifying test, and at
the root of a serve traverse it runs the load of R392. -/
def fireMember (a : Action) (admits : Bool) (t entry port : Nat) (first : BitVec 32) (s : State) : State :=
  match s.traverse t with
  | none => yieldEvent a.parcel 5 1 3 t a.ordinal.toNat 0xFFFF s
  | some v =>
    if before32 first v.nextGen ∨ v.changeBusy ∨ !s.portUp port ∨ (admits ∧ !s.qualifies port) then
      yieldEvent a.parcel 5 1 3 t a.ordinal.toNat 0xFFFF s
    else
      let s := s.setTraverse t (Traverse.change (v.ctx.withPort entry port) first)
      if admits ∧ v.ctx.isServe then
        let arms := (s.armings t).map fun e => (e.1.ordinal.toNat, e.2)
        let k := match arms with
          | [] => 1
          | e :: es => (es.foldl (fun m x => if x.1 < m.1 then x else m) e).2
        forEach (List.range k) (fun l => layerRequest t l (some entry)) s
      else s

/-- A PREFETCH action fires on a mark of a layer: a request for the layer the lookahead names (R159). -/
def firePrefetch (t k : Nat) (backward : Bool) (layers layer : Nat) (s : State) : State :=
  let target : Option Nat := if backward then (if k ≤ layer then some (layer - k) else none) else some (layer + k)
  match target with
  | none => s
  | some l =>
    if layers ≤ l then s
    else if (s.traverse t).any fun v => v.ctx.isServe then layerRequest t l none s
    else s.bump Counter.serveBad t

/-- Groups a parcel has bound to a stream (R351). -/
def State.groupsBound (s : State) (parcel n : Nat) : List Nat :=
  (List.range Config.groups).filter fun g => (s.parcel parcel).any fun p => (tget g p.budgets).any fun b => b.stream == some n

/-- Processors that write a section of the hand-over record: the management cores, the timebase cores, ledger sequencers and lane
microcontrollers that run (Table 17.8). -/
def State.sections (s : State) : Nat :=
  4 + (s.timebases.filter fun b => !b.stopped).length + (s.placement.usable.filter fun i => !s.pairFailed i).length + Config.chiplets

/-- A HANDOVER action fires: the hand-over begins with the record header (R366, Table 17.9). -/
def fireHandover (slot cmdSeq : Nat) (c : Coord) (s : State) : State :=
  if s.mailbox.failed then s
  else
    let header := packFields [(0, 16, hoWrite s.boot.runningImage), (16, 1, bit s.boot.slotB), (17, 1, slot), (32, 32, s.boot.fwInstance.toNat),
      (64, 64, cmdSeq), (128, 40, c.step), (168, 16, c.layer), (184, 4, c.phase), (188, 12, c.sub), (200, 8, s.sections)]
    { s with boot := { s.boot with handover := some (s.clock, cmdSeq, c, slot), handoverRecord := BitVec.ofNat 512 header, rollbackDie := none } }

/-- What an action does as it fires on a mark (Table 5.3). -/
def performAction (a : Action) (c : Coord) (s : State) : State :=
  match a.kind with
  | .plat p i => selectPlat p i s
  | .remap t e q g => fireMember a false t e q g s
  | .warmAdmit t e q g => fireMember a true t e q g s
  | .wake p n => forEach (s.groupsBound p n) exitIfDeep s
  | .prefetch t k back n => firePrefetch t k back n c.layer s
  | .audit pool reclaim h pair addr ring _ =>
    ((if pool then startPoolAudit reclaim none pair addr ring true s else startLedgerAudit h none pair addr ring true s)).getD s
  | .handover slot cmdSeq => fireHandover slot cmdSeq c s

/-- The executing dies have received the action's ordinal for this mark or a later one (R125). -/
def Action.ran (a : Action) (m : BitVec 32) : Bool := a.last.any fun l => (m - l).toInt ≤ 0

/-- The entry of an action on a mark. -/
def Fired.is (a : Action) (m : BitVec 32) (f : Fired) : Bool := f.action.ordinal == a.ordinal && f.markNo == m

/-- One action fires on mark `m`: a one-shot action is deleted, and the ordinal waits for its confirmation (R123, R125). An ordinal that its
dies have already received for the mark is discarded. -/
def fireAction (m : BitVec 32) (c : Coord) (a : Action) (s : State) : State :=
  if a.ran m then s
  else
    let s := if a.trigger.periodic then
        { s with actions := s.actions.map fun b => if b.ordinal = a.ordinal then { b with last := some m } else b }
      else dropAction a.ordinal s
    let s := if a.trigger.matches c then s else s.bump Counter.late partWide
    let s := { s with fired := (s.fired.filter fun f => !f.is a m) ++ [{ action := a, mark := c, markNo := m }] }
    performAction a c s

/-- The standby takes a mark ahead of the active die: it holds the mark's actions, which it issues if the active die stops first (R122, R125). -/
def holdActions (n : Nat) (m : BitVec 32) (c : Coord) (s : State) : State :=
  let due := (s.firedBy n c).filter fun a => !a.ran m && s.fired.all fun f => !f.is a m
  { s with fired := s.fired ++ due.map fun a => { action := a, mark := c, markNo := m, issued := false } }

/-- A die that becomes active issues every action that is not confirmed; executing dies discard those they have received (R125). What an
action's own command has deleted is not issued. -/
def issueHeld (s : State) : State :=
  let s' := { s with fired := s.fired.filter (·.issued) }
  forEach (s.fired.filter fun f => !f.issued) (fun f s =>
    match s.actions.find? fun a => a.ordinal == f.action.ordinal with
    | none => s
    | some a => fireAction f.markNo f.mark a s) s'

/-! ### The active die (R120, R122) -/

/-- A NACK toward the stream's origin, at most one of the part's in 64 µs, whichever die sends it (R120, log 32). -/
def sendNack (tb n flow : Nat) (s : State) : State :=
  let x := s.streamAt tb n
  let recent := match x.nackAt with
    | some at_ => decide (s.clock < at_ + 64000)
    | none => false
  if recent then s
  else
    let f := mkFrame [(0, 4, 8), (16, 8, flow), (48, 16, s.number), (64, 8, x.ingressPort), (72, 8, 2), (80, 6, n), (160, 32, x.markNo.toNat)] [] 0 0
    let targets := stationTargets s f Config.mdPort
    stageFrame Config.mdPort Config.mdPort false f targets (setStream n (fun x => { x with nackAt := some s.clock }) s)

/-- A timebase die meets a mark of stream `n`: R119, and on the active die what follows from it. -/
def meetMark (tb n flow : Nat) (source : Bool) (c : Coord) (m : BitVec 32) (s : State) : State :=
  let x := s.streamAt tb n
  let k := markCase x source c m
  let s := setStreamAt tb n (Stream.mark s.clock k c m) s
  if tb ≠ s.refclk.active then (if k = 2 ∨ k = 6 then holdActions n m c s else s)
  else if k = 7 then sendNack tb n flow s
  else if k = 2 ∨ k = 3 ∨ k = 6 then
    let y := s.streamAt tb n
    let s := { s with ringSync := s.ringSync ++ [{ stream := n, replica := y }] }
    if k = 3 then s
    else
      let s := if x.state = .hold then stationEvent n y s else s
      forEach (s.firedBy n c) (fireAction m c) s
  else s

/-- The coordinate a MARK frame carries (Table 5.1). -/
def markCoord (f : Frame) : Coord := { step := f.field 88 40, layer := f.field 128 16, phase := f.field 144 4, sub := f.field 148 12 }

/-! ### The pin (R121) -/

/-- The stream that a word of STATION_IN which fails its checks counts against: the one it names where that has PIN = 1, else the
lowest-numbered one that has (log 38). -/
def State.pinStream (s : State) (tb named : Nat) : Option Nat :=
  if (s.streamAt tb named).pin then some named else (List.range 64).find? fun n => (s.streamAt tb n).pin

/-- A word on STATION_IN at one timebase die; its bytes enter the CRC-8 lowest first (log 39). A good word is a mark of the stream it
names, which takes it only while PIN = 1 (R119); a word with a bad SYNC, CRC or zero field is counted (log 38). -/
def pinWord (tb : Nat) (w : Nat) (s : State) : State :=
  let n := bitsAt w 88 6
  if bitsAt w 0 16 = 0xB38F ∧ bitsAt w 94 26 = 0 ∧ bitsAt w 120 8 = crc8 0x07 0 (leBytes 15 w) then
    let c : Coord := { step := bitsAt w 16 40, layer := bitsAt w 56 16, phase := bitsAt w 72 4, sub := bitsAt w 76 12 }
    let x := s.streamAt tb n
    meetMark tb n 0 x.pin c (if c = x.coord then x.markNo else x.markNo + 1) s
  else
    match s.pinStream tb n with
    | none => s
    | some p => setStreamAt tb p (fun x => { x with srcRej := sat16 x.srcRej }) s

/-- STATION_IN_WORD (R121): each timebase die that runs takes the word; the pin is ignored until a STATION_SOURCE sets PIN (Table 16.5). -/
def execStationInWord (word : BitVec 128) (s : State) : Host.Outcome State Fault Refusal :=
  .next (forEach ((List.range 2).filter fun tb => !(s.timebases.getD tb {}).stopped && (s.timebases.getD tb {}).streams.any (·.pin))
    (fun tb => pinWord tb word.toNat) s)

/-! ### Confirmations, replicas, HOLD -/

/-- ACTION_CONFIRM (R125). -/
def execActionConfirm (ordinal : BitVec 32) (s : State) : Host.Outcome State Fault Refusal :=
  .next { s with fired := s.fired.eraseP fun f => f.issued && f.action.ordinal == ordinal }

/-- The standby has the mark a copy speaks of still to take. -/
def Timebase.awaits (b : Timebase) (y : RingSync) : Bool :=
  b.marks.any fun rx => rx.frame.stream == y.stream && BitVec.ofNat 32 (rx.frame.field 160 32) == y.replica.markNo &&
    markCoord rx.frame == y.replica.coord

/-- A replica takes the state of another: last mark, counters and timers. What STATION_SOURCE sets stands on both dies already. -/
def Stream.follow (y x : Stream) : Stream :=
  { x with state := y.state, coord := y.coord, markNo := y.markNo, backRej := y.backRej, skipRej := y.skipRej, srcRej := y.srcRej
           conflict := y.conflict, repeats := y.repeats, timeouts := y.timeouts, markAt := y.markAt, nackAt := y.nackAt
           intervals := y.intervals, marked := y.marked }

/-- Two replicas are of one state: (c, n) and STATE. -/
def Stream.agrees (x y : Stream) : Bool := x.coord == y.coord && x.markNo == y.markNo && x.state == y.state

/-- The oldest copy on the ring reaches the standby, behind the mark it speaks of (R122). Actions the standby held for marks up to this one
have been issued or never will be. -/
def syncReplica (s : State) : State :=
  match s.ringSync with
  | [] => s
  | y :: rest =>
    let tb := 1 - s.refclk.active
    let b := s.timebases.getD tb {}
    if b.stopped then { s with ringSync := rest }
    else if b.awaits y then s
    else
      let s := { s with ringSync := rest
                        fired := s.fired.filter fun f =>
                          f.issued || f.action.trigger.stream != y.stream || decide (0 < (f.markNo - y.replica.markNo).toInt) }
      if (s.streamAt tb y.stream).agrees y.replica then s
      else (setStreamAt tb y.stream y.replica.follow s).bump Counter.replicaSync partWide

/-- Both replicas of a stream are lost: a stream that is RUNNING or in HOLD returns to UNSET with its actions kept, and a completion names the
state entered (R126, Table 18.1). Its settings and counters stay (R117, log 104). -/
def unsetStream (n : Nat) (s : State) : State :=
  let x := s.stream n
  if x.state ≠ .running ∧ x.state ≠ .hold then s
  else
    let s := renewStream n (setStream n (fun x => { x with state := .unset, coord := {}, markNo := 0, intervals := [], marked := false }) s)
    forEach (s.boundGroups n) exitIfDeep (stationEvent n (s.stream n) s)

/-- Uncorrectable errors in the records of stream `n` on the dies of `bad`: a die copies the other die's replica, which counts in REPLICA_SYNC
where the standby does it; with no good replica left, the stream returns to UNSET (Table 18.1, R122, R126, log 104). -/
def loseReplica (n : Nat) (bad : List Nat) (s : State) : State :=
  let runs (tb : Nat) : Bool := !(s.timebases.getD tb {}).stopped
  match (List.range 2).find? fun tb => runs tb && !bad.contains tb with
  | none => if bad.any runs then unsetStream n s else s
  | some good =>
    if bad.contains (1 - good) ∧ runs (1 - good) then
      let s' := setStreamAt (1 - good) n (fun _ => s.streamAt good n) s
      if good = s.refclk.active then s'.bump Counter.replicaSync partWide else s'
    else s

/-- Uncorrectable errors in stream records, as (die, stream), stream by stream. -/
def loseRecordsOf (lost : List (Nat × Nat)) (s : State) : State :=
  forEach (lost.map (·.2)).eraseDups (fun n => loseReplica n ((lost.filter fun e => e.2 = n).map (·.1))) s

/-- REPLICA_SYNC (R122). -/
def execReplicaSync (s : State) : Host.Outcome State Fault Refusal := .next (syncReplica s)

/-- A timebase die takes the oldest mark it has received (R119). A tainted frame, or one that fails its CRC, is discarded (R110); one with a
reserved bit set also counts in TYPE_ERR, once (R94). A frame whose VC or CKIND is not 0 is taken as any other (log 82). -/
def takeMark (tb : Nat) (s : State) : State :=
  match (s.timebases.getD tb {}).marks with
  | [] => s
  | rx :: rest =>
    let s := s.setTimebase tb fun b => { b with marks := rest }
    let f := rx.frame
    if f.taint ∨ !Frame.crcOk f then s
    else if !reservedOk f ∨ !f.payload.isEmpty then (if tb = s.refclk.active ∧ rx.port < 128 then s.bump Counter.portTypeErr rx.port else s)
    else
      let x := s.streamAt tb f.stream
      let source := rx.port == x.ingressPort && f.srcPart == x.originPart && f.srcPort == x.originPort
      meetMark tb f.stream f.flow source (markCoord f) (BitVec.ofNat 32 (f.field 160 32)) s

/-- STATION_MARK (R119). The row carries the stream records in which uncorrectable errors have been found since (Table 18.1, log 104). -/
def execStationMark (mark : MarkRead) (s : State) : Host.Outcome State Fault Refusal :=
  guardUnit (mark.tb < 2 && mark.lost.all fun e => e.1 < 2 && e.2 < 64) (takeMark mark.tb (loseRecordsOf mark.lost s))

/-- STATION_TIMEOUT (R126): a die's own timer. The active die counts for the part: the completion, the YIELD record of case 4, and the exit
of bound groups too deep for their budget (R352). -/
def execStationTimeout (tb stream : Nat) (s : State) : Host.Outcome State Fault Refusal :=
  guardUnit (tb < 2 && stream < 64)
    (let x := s.streamAt tb stream
     if (s.timebases.getD tb {}).stopped ∨ x.state ≠ .running then s
     else
       let s := s.reach (x.markAt + 1000 * x.timeoutUs)
       let s := setStreamAt tb stream (fun x => { x with state := .hold, timeouts := sat16 x.timeouts }) s
       if tb ≠ s.refclk.active then s
       else
         let s := yieldEvent x.parcel 5 3 4 stream 0 0xFFFF (stationEvent stream (s.streamAt tb stream) s)
         forEach (s.boundGroups stream) exitIfDeep s)

/-! ### The end of a hand-over (R366, R368) -/

/-- Die identifiers with a processor that takes part (Table 1.2). -/
def handoverDie (d : Nat) : Bool := d < 0x20 || (0x40 ≤ d && d < 0x5E) || d == 0x80 || d == 0x82 || d == 0x83

/-- Digest of an image as verified (R358, R360). -/
def imageDigest (img : Bytes) : Nat := beNat (sha384 (signedPart img))

/-- The staged slot becomes the running and preferred one, and its image commits (R360, R366 step 6). -/
def switchSlot (slotB : Bool) (s : State) : State :=
  let st := s.boot.slotState
  let img := s.boot.image slotB
  let boot := s.boot.writeState slotB st.2.2.1 st.2.2.2
  { s with boot := { boot with slotB := slotB, digest := imageDigest img }, trust := commitImage img s.trust }

/-- A die leaves the active role where the other one runs; the new active die goes on from its own replica and issues every action that is
not confirmed (R122, R125). -/
def passActive (tb : Nat) (s : State) : State :=
  if s.refclk.active = tb ∧ !(s.timebases.getD (1 - tb) {}).stopped then
    issueHeld { s with refclk := { s.refclk with active := 1 - tb }, ringSync := [] }
  else s

/-- A hand-over ends: where it is DONE, the standby has become active (Table 17.8 step 2; after a rollback the roles are as they were, log 109). Then FW_INSTANCE, event 0x02, the FIRMWARE completion, and the events queued meanwhile. -/
def endHandover (since cmdSeq slot : Nat) (die : Option Nat) (s : State) : State :=
  let s := if die.isNone then switchSlot (slot == 1) (passActive s.refclk.active s) else s
  let us := (s.clock - since) / 1000
  let queued := s.boot.queuedEvents
  let s := { s with boot := { s.boot with fwInstance := s.boot.fwInstance + 1, handover := none, rollbackDie := none, queuedEvents := [] } }
  let s := journalEvent 0x02 0xFFFF [(64, 1, if die.isNone then 1 else 2), (65, 1, bit s.boot.slotB), (68, 4, s.boot.fwInstance.toNat),
    (72, 8, cmdSeq), (80, 4, us), (84, 1, die.getD 0xFF)] s
  forEach queued (fun q => postEvent q.1 q.2.1 q.2.2.1 q.2.2.2) (postFirmware 3 s)

/-- HANDOVER_END (R368). -/
def execHandoverEnd (outcome : HandoverOutcome) (s : State) : Host.Outcome State Fault Refusal :=
  let die := match outcome with
    | .done => none
    | .rolledBack d => some d
  guardUnit (die.all handoverDie)
    (match s.boot.handover with
     | none => s
     | some (since, cmdSeq, _, slot) => endHandover since cmdSeq slot (match s.boot.rollbackDie with
         | some d => some d
         | none => die) s)

end Sys2Proof.Machine
end

