-- ==== Sys2Proof/Machine/Resets.lean ====
section
/-! DEFINITION. Supplies, reset, boot and the PCIe resets (R331-R344, R354, R359-R361): holding the part in reset, leaving it, and the
stages to READY. -/
namespace Sys2Proof.Machine

/-! ### Holding the part (R334, R337, R338) -/

/-- Every object, ring, field-book entry, counter and power state is gone; the always-on domain, the fuses, the secure store, the flash,
the pins and the boundary scan stay (R337), and so does a FULL debug level, the other sessions closing (R375, R377). The part is in
reset. -/
def clearPart (s : State) : State :=
  { State.reset with
    pending := s.pending, clock := s.clock, freeCount := s.freeCount, sent := s.sent, hostOut := s.hostOut, scan := s.scan
    trust := { s.trust with lcErr := 0, wdogMgmt := 0, wdogSeq := 0, wdogLane := 0, wdogTb := 0, deadman := false, refclkLost := false }
    boot := { ({} : Boot) with slotA_image := s.boot.slotA_image, slotB_image := s.boot.slotB_image, state0 := s.boot.state0
                               state1 := s.boot.state1 }
    supply := { s.supply with inReset := true, held := false, hotDies := [], loopAt := s.clock, powerLog := []
                              faultN := s.supply.fault != .none || s.supply.thermtrip }
    refclk := { s.refclk with active := 0 }
    dbg := if s.dbg.level = .full then { level := .full } else {}
    mailbox := { State.reset.mailbox with perst := s.mailbox.perst } }

/-- The part fails closed with a code: everything is lost, and it stays so until RESET_N or a power cycle (R338, R363). -/
def failClosed (code : Nat) (s : State) : State :=
  let s := clearPart s
  { s with boot := { s.boot with stage := .failed, failCode := code } }

/-! ### Rails (R331-R336) -/

/-- Stage of a rail (Table 16.1). -/
def railStage (r : Nat) : Nat := if r = 0 then 1 else if r ≤ 2 then 2 else if r ≤ 42 then 3 else if r = 43 then 4 else 5

/-- Rails of a stage. -/
def stageRails (k : Nat) : List Nat := (List.range Config.rails).filter fun r => railStage r = k

def State.rail (s : State) (r : Nat) : Rail := s.supply.rails.getD r {}
def State.setRail (r : Nat) (f : Rail → Rail) (s : State) : State :=
  { s with supply := { s.supply with rails := lmap r f s.supply.rails } }

/-- Every rail of a stage has crossed 90%. -/
def State.stageUp (s : State) (k : Nat) : Bool := (stageRails k).all fun r => (s.rail r).above90

/-- The highest stage complete. -/
def State.stagesUp (s : State) : Nat := ((List.range 6).filter fun k => (List.range k).all fun j => s.stageUp (j + 1)).length - 1

/-- Enters SUPPLY_FAULT: the record is updated and the part held (R334, Table 16.2). A DOWN_ORDER fault that waits for the next power-up may
be followed by one of that power-up. -/
def enterFault (kind : SupplyKind) (rail : Nat) (s : State) : State :=
  if s.supply.fault ≠ .none ∧ s.supply.fault ≠ .downOrder then s
  else
    let r : SupplyRec :=
      { kind := kind, rail := rail, stage := s.stagesUp, runtime := s.boot.stage != .reset
        aonTicks := (s.clock - s.supply.aonAt) / 10 % 2 ^ 48, faults := min 0xFFFF (s.supply.record.faults + 1) }
    clearPart { s with supply := { s.supply with fault := kind, record := r } }

/-- Every rail is in tolerance. -/
def State.railsGood (s : State) : Bool := s.supply.rails.all (·.inTol)

/-- The rails have settled after an event: the 1 ms of R339 begins once all are in tolerance, start-up is then over, and a DOWN_ORDER fault
ends with it (Table 16.3). -/
def settleRails (s : State) : State :=
  if s.railsGood then
    let s := if s.supply.fault = .downOrder ∧ !s.supply.started then
        { s with supply := { s.supply with fault := .none, faultN := s.supply.thermtrip, held := s.supply.resetN } } else s
    { s with supply := { s.supply with started := true, goodSince := (match s.supply.goodSince with
        | some t => some t
        | none => some s.clock) } }
  else { s with supply := { s.supply with goodSince := none } }

/-- A rail crosses 10% on its way up (R332, R334). -/
def riseTen (r : Nat) (s : State) : State :=
  if (s.rail r).above10 then s
  else
    let k := railStage r
    let last := (stageRails (k - 1)).foldl (fun m q => max m (s.rail q).at90) 0
    let order := (List.range (k - 1)).all fun j => s.stageUp (j + 1)
    let s' := s.setRail r fun x => { x with above10 := true, at10 := s.clock }
    if k = 1 then s'
    else if !order ∨ !(s.rail 0).inTol then enterFault .order r s'
    else if s.clock < last + 100000 then enterFault .separation r s'
    else s'

/-- A rail crosses 90% on its way up. -/
def riseNinety (r : Nat) (s : State) : State :=
  if (s.rail r).above90 ∨ !(s.rail r).above10 then s
  else
    let s' := s.setRail r fun x => { x with above90 := true, at90 := s.clock }
    if (s.rail r).at10 + 20000000 < s.clock then enterFault .rampSlow r s' else s'

/-- A rail falls below 90%: out of order while a rail of a later stage is above 10% (R333). -/
def fallNinety (r : Nat) (s : State) : State :=
  if !(s.rail r).above90 then s
  else
    let s' := s.setRail r fun x => { x with above90 := false, inTol := false }
    if (List.range Config.rails).any fun q => railStage r < railStage q && (s.rail q).above10 then enterFault .downOrder r s' else s'

/-- VDD_AON falls below 10%: the always-on domain loses what it holds (R335). -/
def loseAon (s : State) : State :=
  let s := clearPart s
  { s with
    supply := { s.supply with record := {}, fault := .none, thermtrip := false, faultN := false, resetCount := 0, started := false }
    trust := { s.trust with ir := .idcode, tdo := 0, tdoBits := 0 }
    scan := {} }

/-- A rail falls below 10%. Once every rail but VDD_AON has, the next power-up begins. -/
def fallTen (r : Nat) (s : State) : State :=
  if !(s.rail r).above10 then s
  else
    let s := s.setRail r fun x => { x with above10 := false, above90 := false, inTol := false }
    if r = 0 then loseAon s
    else if ((List.range Config.rails).drop 1).all fun q => !(s.rail q).above10 then { s with supply := { s.supply with started := false } }
    else s

/-- A rail has stayed outside nominal ±8% for 2 µs. -/
def outside (kind : SupplyKind) (r : Nat) (s : State) : State :=
  let s := s.setRail r fun x => { x with inTol := false }
  if s.supply.started then enterFault kind r s else s

/-- A rail's level moves while the trust die has no supply to watch it. -/
def unwatched (r : Nat) (event : RailEvent) (s : State) : State :=
  if r = 0 then s
  else s.setRail r fun x => match event with
    | .rise10 => { x with above10 := true }
    | .rise90 => { x with above10 := true, above90 := true }
    | .fall90 => { x with above90 := false, inTol := false }
    | .fall10 => { x with above10 := false, above90 := false, inTol := false }
    | .back => { x with inTol := x.above90 }
    | _ => { x with inTol := false }

/-- SUPPLY_RAIL_EVENT (R332-R334, R336): nothing is sampled until VDD_AON has risen. -/
def execSupplyRailEvent (rail : Nat) (event : RailEvent) (s : State) : Host.Outcome State Fault Refusal :=
  guardUnit (rail < Config.rails)
    (if !(s.rail 0).above10 then unwatched rail event s
     else settleRails (match event with
       | .rise10 => riseTen rail s
       | .rise90 => riseNinety rail s
       | .fall90 => fallNinety rail s
       | .fall10 => fallTen rail s
       | .below8 => outside .undervolt rail s
       | .above8 => outside .overvolt rail s
       | .back => if (s.rail rail).above90 then s.setRail rail fun x => { x with inTol := true } else s))

/-- VDD_AON_RISE (R335): VDD_AON rises into tolerance; the supply record is written zero, and RESET_N tied high counts as an early release
(R339). A rail already above 10% came out of order (R332). -/
def execVddAonRise (s : State) : Host.Outcome State Fault Refusal :=
  .next
    (if (s.rail 0).above10 then s
     else
       let s := loseAon s
       let up : Rail := { at10 := s.clock, at90 := s.clock }
       let s := { s with supply := { s.supply with aonAt := s.clock, goodSince := none, held := s.supply.resetN } }
       let s := s.setRail 0 fun _ => up
       match ((List.range Config.rails).drop 1).find? fun r => (s.rail r).above10 with
       | some r => enterFault .order r s
       | none => s)

/-! ### RESET_N (R336-R339) -/

/-- A low of this length resets the part: always from 1 µs, never below 0.5 µs, either way between; SUPPLY_FAULT, a trip and the deadman
yield to 1 µs only (R337, R336, R363, log 6). -/
def State.resetQualifies (s : State) (lowNs : Nat) : Bool :=
  1000 ≤ lowNs || (500 ≤ lowNs && s.drawn % 2 == 1 && s.supply.fault == .none && !s.supply.thermtrip && !s.trust.deadman)

/-- Ports that were UP before the reset send GOING_IDLE in 64 rows, on with their row count and scrambler (R259, R337). -/
def announceIdle (before s : State) : State :=
  forEach ((List.range 128).filter before.portUp) (fun p => State.setLink p fun l =>
    { l with goingIdleRows := 64, rowCnt := (before.link p).rowCnt, txScr := (before.link p).txScr }) s

/-- RESET_N_ASSERT (R337): RESET_N has been low for `lowNs`. -/
def execResetNAssert (lowNs : Nat) (s : State) : Host.Outcome State Fault Refusal :=
  .next
    (if !s.supply.resetN ∨ !(s.rail 0).above10 then s
     else
       let q := s.resetQualifies lowNs
       let at_ := s.clock
       let s := { s with clock := s.clock + lowNs, freeCount := s.freeCount + 1 }
       if !q then s
       else
         let s := announceIdle s (clearPart s)
         { s with supply := { s.supply with resetN := false, lowAt := at_ } })

/-- The rails have been in tolerance for 1 ms by a time. -/
def State.railsSettled (s : State) (t : Nat) : Bool := match s.supply.goodSince with
  | some g => decide (g + 1000000 ≤ t)
  | none => false

/-- Every sensor reads below 85 °C (R354). -/
def State.cool (s : State) : Bool := s.supply.celsius.all fun e => e.2 < 85

/-- Releasing RESET_N leaves the fault in force (Table 16.3, R354). -/
def State.leaves (s : State) : Bool :=
  let pulsed := s.railsSettled s.supply.lowAt && decide (s.supply.lowAt + 1000 ≤ s.clock)
  (s.supply.fault == .none || ((s.supply.fault == .undervolt || s.supply.fault == .overvolt) && pulsed)) &&
  (!s.supply.thermtrip || (pulsed && s.cool))

/-- RESET_N_RELEASE (R339): the release is held until it takes effect; with both REFCLK inputs absent the trust die records their loss. -/
def execResetNRelease (s : State) : Host.Outcome State Fault Refusal :=
  .next
    (if s.supply.resetN then s
     else
       let s := { s with supply := { s.supply with resetN := true } }
       let s := if s.refclk.present.all (!·) then { s with trust := { s.trust with refclkLost := true } } else s
       if s.leaves then { s with supply := { s.supply with fault := .none, thermtrip := false, faultN := false, held := true } } else s)

/-! ### The start (R339, R340, R388) -/

/-- An erase that was not finished runs to its end, or fails (R356, log 6). -/
def finishWipe (s : State) : State × Bool :=
  if !s.trust.wiping then (s, true)
  else
    let ok := s.drawn % 2 == 0
    let s := s.draw 1
    (if ok then { s with trust := { s.trust with identityKey := none, monument := [], wipeDone := true, wiping := false } } else s, ok)

/-- The trust die's random source gives a part in BLANK its identity key (R357, log 6). -/
def giveIdentity (s : State) : State :=
  if s.trust.lifecycle = .blank ∧ s.trust.identityKey.isNone then
    State.draw 1 { s with trust := { s.trust with identityKey := some (1 + s.drawn % (curveN - 1)) } }
  else s

/-- The debug level a release leaves (R375). -/
def releaseLevel (t : Trust) : DebugLevel := if t.lifecycle == .blank || (t.lifecycle == .returned && t.wipeDone) then .full else .none

/-- Pairs that pass their reset test: enabled, passing, and with at most 8 failing pseudo-channels (R17, R271, R388). -/
def usablePairs (t : Trust) (r : ResetTests) : List Nat :=
  (List.range Config.pairs).filter fun i =>
    !t.disabledPairs.getLsbD i && r.pairsPass.getLsbD i && (r.pchFail.filter fun e => e.1 == i).length ≤ 8

/-- What the tests at a release settle: placement, journal pairs, crossbar dies, declared pseudo-channels, repaired columns. -/
def applyTests (r : ResetTests) (s : State) : State :=
  let us := usablePairs s.trust r
  let bad := (List.range 4).filter fun k => !r.xdPass.getLsbD k
  let s := { s with placement := { usable := us, journal0 := us.getD 0 Config.pairs, journal1 := us.getD 1 Config.pairs } }
  let s := s.setXbar fun x =>
    if bad.isEmpty then { x with stopped := false }
    else { x with failed := bad, stopped := bad.length > 1, free := [[(0, 675840)], [(675840, 675840)], [(1351680, 675840)]] }
  let s := forEach us (fun i => State.setStack i fun h =>
    let l := ((r.pchFail.filter fun e => e.1 == i).map (·.2)).eraseDups
    { h with declared := l }) s
  forEach us (fun i => State.setDie i (softRepair ((r.columns.filter fun c => c.1 == i).map (·.2)))) s

/-- Since when a REFCLK input has been valid. -/
def State.refclkSince (s : State) : Option Nat :=
  ((List.range 2).filter fun i => s.refclk.present.getD i false).foldl (fun m i =>
    let t := s.refclk.validSince.getD i 0
    match m with
    | none => some t
    | some u => some (min t u)) none

/-- RESET_RELEASE_EFFECTIVE (R339): once rails and REFCLK have been valid for 1 ms, lifecycle and debug level take effect, the tests settle
what works, and ROM starts. -/
def execResetReleaseEffective (tests : ResetTests) (s : State) : Host.Outcome State Fault Refusal :=
  .next
    (match s.supply.goodSince, s.refclkSince with
     | some g, some v =>
       if !s.supply.held ∨ !s.supply.resetN ∨ !s.supply.inReset ∨ s.supply.fault ≠ .none ∨ s.supply.thermtrip then s
       else
         let s := s.reach (max (g + 1000000) (v + 1000000))
         let s := { s with
           supply := { s.supply with inReset := false, held := false, resetCount := s.supply.resetCount + 1, releasedAt := s.clock
                                     loopAt := s.clock }
           refclk := { s.refclk with inUse := if s.refclk.present.getD s.refclk.inUse false then s.refclk.inUse else 1 - s.refclk.inUse }
           groups := s.groups.map fun _ => { workAt := s.clock }
           trust := { s.trust with lifecycle := s.trust.fusedLifecycle } }
         let (s, wiped) := finishWipe s
         if !wiped then { s with boot := { s.boot with stage := .failed, failCode := 0x0A } }
         else
           let s := giveIdentity s
           applyTests tests { s with dbg := { s.dbg with level := releaseLevel s.trust }, boot := { s.boot with stage := .rom } }
     | _, _ => s)

/-! ### Boot (R340, R359-R361) -/

/-- Milliseconds from the effective release (R361). -/
def State.sinceRelease (s : State) : Nat := (s.clock - s.supply.releasedAt) / 1000000

/-- A start ends FAILED. -/
def bootFails (code : Nat) (s : State) : State :=
  { s with boot := { s.boot with stage := .failed, failCode := code, bootMs := s.sinceRelease } }

/-- What ROM finds in a slot: SLOT_EMPTY, or the first failure of its image (Table 17.6). -/
def slotCode (s : State) (slotB : Bool) : Nat := if s.boot.validSlot slotB then checkImage s.trust (s.boot.image slotB) else 0x08

/-- The code of a slot is noted for BOOT_LOG. -/
def noteCode (slotB : Bool) (code : Nat) (s : State) : State :=
  { s with boot := if slotB then { s.boot with codeB := code } else { s.boot with codeA := code } }

/-- Firmware starts from a slot: STAGE is FW_START, every port begins step 1, and the endpoints whose PERST_N is released train (R340,
R341). -/
def startFirmware (slotB : Bool) (s : State) : State :=
  let s := { s with boot := { s.boot with stage := .fwStart, slotB := slotB, fwInstance := s.boot.fwInstance + 1
                                          digest := imageDigest (s.boot.image slotB) } }
  let s := s.setMailbox fun m => { m with linked := m.perst.map (!·) }
  forEach (List.range 128) enterIdle s

/-- BOOT_VERIFY_DONE (R361): the preferred slot first, then the other; then the self-tests of TD, TB0, TB1 and MD. -/
def execBootVerifyDone (flashFound selfTest : Bool) (s : State) : Host.Outcome State Fault Refusal :=
  .next
    (if s.boot.stage ≠ .rom then s
     else
       let first := s.boot.slotState.2.1
       let s := { s with boot := { s.boot with preferredB := first } }
       if !flashFound then bootFails 0x01 (noteCode first 0x01 (noteCode (!first) 0x01 s))
       else
         let c := slotCode s first
         let s := noteCode first c s
         let d := slotCode s (!first)
         let s := if c = 0 then s else noteCode (!first) d s
         if c ≠ 0 ∧ d ≠ 0 then bootFails d s
         else
           let slotB := if c = 0 then first else !first
           if !selfTest then bootFails 0x09 { s with boot := { s.boot with slotB := slotB } } else startFirmware slotB s)

/-- Lines of a stack's allocatable space, zeroed only after READY (R372). -/
def zeroSoon (i : Nat) (s : State) : State := s.setStack i fun h => { h with unzeroed := [(0, s.allocTop i / 2048)] }

/-- Pair 63 starts in-band (R302): active from its source, with rings the spec does not place: free values within the bounds of Table 14.2,
apart from each other (log 40). -/
def startInBand (part port : Nat) (s : State) : State :=
  if (s.pair 63).active then s
  else
    let base := s.drawn % 8128
    let apart := Config.freeNat (s.freeCount + 1) % 8001
    let sizes := Config.freeNat (s.freeCount + 2)
    let s := s.draw 3
    activatePair 63 (.inBand part port) (s.setPair 63 fun p =>
      { p with inBand := true, ibPart := part, ibPort := port, cmdBase := base, cmdSizeLog2 := 4 + sizes % 7
               cmpBase := (base + 64 + apart) % 8128, cmpSizeLog2 := 4 + sizes / 7 % 9 })

/-- BOOT_READY (R340): the self-tests pass. The field book begins with FW_START, the declarations of the reset test follow, the image commits,
pair 63 starts in-band, and the FIRMWARE event is written (R302, R317, R360, R361). -/
def execBootReady (s : State) : Host.Outcome State Fault Refusal :=
  .next
    (if s.boot.stage ≠ .fwStart then s
     else
       let us := s.placement.usable
       let s := { s with boot := { s.boot with stage := .ready, bootMs := s.sinceRelease }
                         book := { s.book with copy0 := decide (1 ≤ us.length), copy1 := decide (2 ≤ us.length) }
                         trust := commitImage s.boot.runningImage s.trust }
       let s := forEach us zeroSoon s
       let s := journalEvent 0x01 0xFFFF [(64, 1, bit s.boot.slotB), (68, 4, s.boot.fwInstance.toNat)] s
       let s := forEach us (fun i s => forEach (s.stack i).declared (fun c =>
         journalEvent 0x06 0xFFFF [(64, 1, 0x60 + i), (65, 1, c), (66, 1, 1)]) s) s
       let s := match s.inBandSource with
         | some (part, port) => startInBand part port s
         | none => s
       postFirmware 1 s)

/-! ### The endpoints (R341) -/

/-- MP_PERST_ASSERT: only that endpoint's PCIe logic is reset; its pairs stay. -/
def execMpPerstAssert (endpoint : Nat) (s : State) : Host.Outcome State Fault Refusal :=
  guardUnit (endpoint < 2)
    (s.setMailbox fun m => { m with perst := m.perst.set endpoint true, linked := m.linked.set endpoint false })

/-- MP_PERST_RELEASE: the endpoint trains at the later of this release and FW_START. -/
def execMpPerstRelease (endpoint : Nat) (s : State) : Host.Outcome State Fault Refusal :=
  guardUnit (endpoint < 2)
    (s.setMailbox fun m => { m with perst := m.perst.set endpoint false, linked := m.linked.set endpoint (s.boot.stage.started && !s.supply.inReset) })

/-! ### Over-temperature (R354) -/

/-- Trip temperature of a die in °C (Table 16.9). -/
def tripAtC (die : Nat) : Int := if 0x60 ≤ die ∧ die < 0x7E then 105 else 115

/-- Every die identifier of Table 1.2. -/
def dieExists (d : Nat) : Bool := (groupOfDieId d).isSome || d == 0x81 || d == 0x82 || d == 0x83

/-- THERMTRIP: a die reaches its trip temperature; the part is held. -/
def execThermtrip (die : Nat) (s : State) : Host.Outcome State Fault Refusal :=
  guardUnit (dieExists die)
    (let t := max (tripAtC die) ((tget die s.supply.celsius).getD (tripAtC die))
     clearPart { s with supply := { s.supply with thermtrip := true, celsius := tset die t s.supply.celsius } })

end Sys2Proof.Machine
end

