-- ==== Sys2Proof/Machine/Clocks.lean ====
section
/-! DEFINITION. Failures and restarts: REFCLK inputs (R20, R21), crossbar dies and three-slice mode (R200-R202, R292), ledger pairs (R386), MD
(R319, R389), watchdogs (R362), the deadman (R363) and the timebase dies (R122). -/
namespace Sys2Proof.Machine

/-! ### Stopping every port (R21, R200, R362) -/

/-- A port goes to electrical idle: out of UP as R259 has it, or back to step 1. -/
def idlePort (p : Nat) (s : State) : State :=
  if s.portUp p then portDown p false s else if (s.port p).state = .training then enterIdle p s else s

/-- The part stops forwarding and holds every port in electrical idle. -/
def stopForwarding (s : State) : State := forEach (List.range 128) idlePort (s.setXbar fun x => { x with stopped := true })

/-! ### REFCLK (R20, R21) -/

/-- REFCLK_INPUT_LOST: the other input takes over, or, with both lost, the part stops. -/
def execRefclkInputLost (input : Nat) (s : State) : Host.Outcome State Fault Refusal :=
  guardUnit (input < 2)
    (if !s.refclk.present.getD input false then s
     else
       let s := { s with refclk := { s.refclk with present := s.refclk.present.set input false } }
       if s.refclk.present.getD (1 - input) false then
         if s.refclk.inUse = input then
           State.bump Counter.refclkSwitch partWide { s with refclk := { s.refclk with inUse := 1 - input } }
         else s
       else stopForwarding { s with trust := { s.trust with refclkLost := true } })

/-- REFCLK_INPUT_RETURN: the input is present again, and valid for R339 from now. The reference tree takes it up when no input was in use. -/
def execRefclkInputReturn (input : Nat) (s : State) : Host.Outcome State Fault Refusal :=
  guardUnit (input < 2)
    (if s.refclk.present.getD input false then s
     else
       { s with refclk := { s.refclk with
           present := s.refclk.present.set input true, validSince := s.refclk.validSince.set input s.clock
           inUse := if s.refclk.present.getD s.refclk.inUse false then s.refclk.inUse else input } })

/-! ### Three-slice mode (Table 9.2) -/

/-- Step 1: a copy, or a stub, part-way through the egress of an external port is ended with TAINT and counted in XBAR_ERR. -/
def cutSending (xd : Nat) (s : State) : State :=
  forEach (s.xbar.outputs.map (·.1)) (fun o s =>
    match (s.xbar.output o).sending with
    | none => s
    | some sd =>
      let s : State := match s.xbar.record sd.desc.record with
        | some r =>
          if o < 128 then
            State.bump Counter.xbarErr xd (sendOut o (setTaint (copyFrame sd r)) s)
          else s
        | none => s
      s.setXbar fun x => x.setOutput o { x.output o with sending := none }) s

/-- Descriptors a resequencer holds, or has still to take, are dropped and counted in SEQ_LOST; its flows resume by their hole rules. Table 15.10 gives
SEQ_LOST to ledger dies alone: lane chiplet c counts as instance 31 + c (DESIGN CHOICE, log 87). -/
def dropHeld (place : Nat) (s : State) : State :=
  let r := s.reseqAt place
  let n := r.arrivals.length + (r.flows.map fun f => f.held.length).foldl (· + ·) 0
  let s := s.setReseq place fun r => { r with arrivals := [], flows := r.flows.map fun f => { f with held := [] } }
  if place ≠ Config.pairs ∧ 0 < n then s.bumpBy n Counter.seqLost place else s

/-- Step 2: every frame in the cell buffer is discarded. Frames still in staging without their cells stay, and will take cells of the new
size. -/
def emptyBuffer (s : State) : State :=
  let s := forEach s.xbar.records (fun r => flightDown r.epoch r.ordered) s
  let s := s.setXbar fun x =>
    { x with records := [], queues := []
             inputs := x.inputs.map fun e => (e.1, { e.2 with staging := (e.2.staging.filter fun st => st.record.isNone).map fun st =>
               { st with cells := cellsOf true st.frame.payload.length } }) }
  forEach (List.range 63) dropHeld s

/-- Step 3: the pool on the surviving dies (R292). -/
def rebuildPool (xd : Nat) (x : Xbar) : Xbar :=
  { x with failed := x.failed ++ [xd], free := [[(0, 675840)], [(675840, 675840)], [(1351680, 675840)]], ptrs := [], fallbackUsed := []
           freeing := [], lastAudit := none }

/-- A crossbar die has failed: three-slice mode, or for a second one the end of forwarding (R200, R201). -/
def failCrossbar (xd : Nat) (s : State) : State :=
  if s.xbar.failed.contains xd then s
  else if s.xbar.threeSlice then stopForwarding (s.setXbar fun x => { x with failed := x.failed ++ [xd] })
  else
    let s := settleBroadcasts ((emptyBuffer (cutSending xd s)).setXbar (rebuildPool xd))
    let s := forEach ((List.range 128).filter s.portUp) startCinit s
    journalEvent 0x04 0xFFFF [(64, 1, 0x20 + xd)] s

/-- The named link is one of the 63 that attach a crossbar die (Table 1.3). -/
def XdCause.ok : XdCause → Bool
  | .linkLost l => l < 63
  | _ => true

/-- XD_HEARTBEAT_MISS (R200): by any of its causes. -/
def execXdHeartbeatMiss (failure : XdFailure) (s : State) : Host.Outcome State Fault Refusal :=
  guardUnit (failure.xd < 4 && XdCause.ok failure.cause) (if s.supply.inReset ∨ !s.boot.stage.started then s else failCrossbar failure.xd s)

/-! ### Ledger pairs (R386) -/

/-- LEDGER_HEARTBEAT_MISS: three heartbeats missed, or the stack silent. -/
def execLedgerHeartbeatMiss (pair : Nat) (stackSilent : Bool) (s : State) : Host.Outcome State Fault Refusal :=
  guardUnit (pair < Config.pairs)
    (if s.supply.inReset ∨ !s.placement.usable.contains pair then s else failPair pair (if stackSilent then 4 else 1) s)

/-! ### MD (R319, R362, R389) -/

/-- MD is failed until the next reset. -/
def failMd (s : State) : State :=
  { s with mailbox := { s.mailbox with failed := true }, boot := { s.boot with stage := .mdRestart } }

/-- A processor fault during a hand-over makes it roll back (R368). -/
def spoilHandover (die : Nat) (s : State) : State :=
  if s.boot.handover.isSome then { s with boot := { s.boot with rollbackDie := s.boot.rollbackDie.or (some die) } } else s

/-- Step 1 of the recovery: the end of the book is one past the highest SEQ valid in either copy, and entries of the last 4,096 valid in one copy
only are written to the other (R319). -/
def mendBook (s : State) : State :=
  let b := s.book
  let recent (q : Nat) : Bool := b.next ≤ q + 4096
  let entries := (b.entries.reverse.dropWhile fun e => recent e.seq && (s.entryBytes e).isNone).reverse
  let next := match entries.getLast? with
    | some e => e.seq + 1
    | none => b.next
  let kept (bad : List Nat) : List Nat := bad.filter (· < next)
  let s := { s with book := { b with entries := entries, next := next, bad0 := kept b.bad0, bad1 := kept b.bad1 } }
  forEach (entries.filter fun e => recent e.seq) (fun e s =>
    forEach (if (s.entryBytes e).isNone then [] else s.bookCopies.filter fun c => !s.copyGood c e) (fun c s =>
      let line := bookAt e.seq / 2048
      if s.decoded c.2 line = .lost then { s with book := loseEntries c.1 (s.bookMates e.seq) s.book }
      else { s with
        book := { s.book with bad0 := if c.1 then s.book.bad0 else s.book.bad0.filter (· ≠ e.seq)
                              bad1 := if c.1 then s.book.bad1.filter (· ≠ e.seq) else s.book.bad1 }
        pokes := s.pokes.filter fun p => !(p.1.1 = 0x60 + c.2 && bookAt e.seq ≤ p.1.2 && p.1.2 < bookAt e.seq + 1024) }) s) s

/-- The completion ring of a pair holds the COMMAND completion of a SEQ. -/
def State.ringHolds (s : State) (n seq : Nat) : Bool :=
  let p := s.pair n
  (List.range p.cmpSlots).any fun k =>
    let e := leNat (Memory.readBytes s.mailbox.ring (ringAt p.cmpBase + 64 * k) 24)
    bitsAt e 8 8 == 1 && bitsAt e 128 64 == seq

/-- Step 3 of the recovery: the COMMAND completions of final entries among the last 4,096 that an active pair's ring does not hold are written, as far
as slots are free; CMD_INDEX and RESULT, which no entry keeps, are free (R319, R320, log 107). -/
def rewriteCompletions (s : State) : State :=
  forEach (s.book.entries.filter fun e => e.kind = 1 ∧ e.status ≠ 0xFF ∧ s.book.next ≤ e.seq + 4096) (fun e s =>
    if !(s.pair e.pair).active ∨ s.ringHolds e.pair e.seq ∨ s.mailbox.freeSlots e.pair = 0 then s
    else
      let index := s.drawn % 65536
      let result := Config.freeNat (s.freeCount + 1) % 2 ^ 256
      putCompletion e.pair { kind := 1, status := e.status, opcode := e.code, cmdIndex := index, parcel := e.parcel, tag := bitsAt e.body 64 64,
                             seq := e.seq, version := e.versionAfter, result := result } (s.draw 2)) s

/-- An MD firmware restart and its recovery (R319): accepted commands run on, as their effect has begun (log 41). A second restart within 1 s
fails MD (R362). -/
def restartMd (s : State) : State :=
  let recent := s.mailbox.restarts.filter fun t => s.clock < t + secondNs
  let s := spoilHandover 0x80 s
  if !recent.isEmpty then failMd s
  else
    let s := s.setMailbox fun m => { m with restarts := [s.clock] }
    let s := rewriteCompletions (mendBook s)
    let s := { s with boot := { s.boot with fwInstance := s.boot.fwInstance + 1 } }
    let s := journalEvent 0x03 0xFFFF [(64, 4, s.boot.fwInstance.toNat), (68, 4, s.mailbox.running.length), (72, 4, 0)] s
    postFirmware 2 s

/-- MD runs. -/
def State.mdRuns (s : State) : Bool := s.boot.stage == .ready && !s.mailbox.failed && !s.supply.inReset

/-- An 8-bit count of TD_STATE, saturating. -/
def sat8 (n : Nat) : Nat := min 0xFF (n + 1)

/-- MD_HEARTBEAT_MISS (R389). -/
def execMdHeartbeatMiss (s : State) : Host.Outcome State Fault Refusal := .next (if s.mdRuns then failMd s else s)

/-- MD_FIRMWARE_FAULT (R319, Table 18.1). -/
def execMdFirmwareFault (s : State) : Host.Outcome State Fault Refusal := .next (if s.mdRuns then restartMd s else s)

/-- MGMT_WATCHDOG_EXPIRY (R362): all four cores restart together. -/
def execMgmtWatchdogExpiry (core : Nat) (s : State) : Host.Outcome State Fault Refusal :=
  guardUnit (core < 4)
    (if !s.mdRuns ∨ s.isHalted 0x80 core then s else restartMd { s with trust := { s.trust with wdogMgmt := sat8 s.trust.wdogMgmt } })

/-! ### The other watchdogs (R348, R362) -/

/-- Expiries of the last second, with this one. -/
def nowAndRecent (now : Nat) (l : List Nat) : List Nat := (l.filter fun t => now < t + secondNs) ++ [now]

/-- The group's processors are powered: not in L2 or L3 (R348). -/
def State.watched (s : State) (g : Nat) : Bool := (s.group g).state == .l0 || (s.group g).state == .l1

/-- SEQ_WATCHDOG_EXPIRY: the sequencer restarts and its command work goes on; the third expiry within 1 s fails the pair (R386). -/
def execSeqWatchdogExpiry (die : Nat) (s : State) : Host.Outcome State Fault Refusal :=
  guardUnit (die < Config.pairs)
    (if s.supply.inReset ∨ !s.boot.stage.started ∨ s.pairFailed die ∨ !s.placement.usable.contains die ∨ !s.watched (groupOfDie die) ∨
        s.isHalted (0x40 + die) 0 then s
     else
       let l := nowAndRecent s.clock (s.die die).expiries
       let s := { s with trust := { s.trust with wdogSeq := sat8 s.trust.wdogSeq } }
       let s := spoilHandover (0x40 + die) (s.setDie die fun d => { d with expiries := l })
       if l.length ≥ 3 then failPair die 2 s else s)

/-- A port of the chiplet that restarts: in training it returns to step 1 (R362). -/
def retrain (p : Nat) (s : State) : State := if (s.port p).state = .training then enterIdle p s else s

/-- LANE_WATCHDOG_EXPIRY: the eighth expiry within 1 s holds the chiplet's ports in electrical idle. -/
def execLaneWatchdogExpiry (chiplet : Nat) (s : State) : Host.Outcome State Fault Refusal :=
  guardUnit (chiplet < Config.chiplets)
    (if s.supply.inReset ∨ !s.boot.stage.started ∨ !s.watched (chiplet / 4) ∨ s.isHalted chiplet 0 then s
     else
       let l := nowAndRecent s.clock (s.chiplets.getD chiplet {}).expiries
       let s := { s with trust := { s.trust with wdogLane := sat8 s.trust.wdogLane }
                         chiplets := lmap chiplet (fun c => { c with expiries := l }) s.chiplets }
       let s := spoilHandover chiplet s
       let ports := (List.range 4).map (4 * chiplet + ·)
       if l.length ≥ 8 then forEach ports (fun p s => (idlePort p s).setPort p fun x => { x with heldIdle := true }) s
       else forEach ports retrain s)

/-! ### Timebase dies (R20, R122, R362) -/

/-- A die stops until reset. -/
def stopTimebase (tb : Nat) (s : State) : State := s.setTimebase tb fun b => { b with stopped := true, marks := [] }

/-- TIMEBASE_WATCHDOG_EXPIRY: the expired core rejoins as standby; at the third expiry within 1 s it stays stopped. -/
def execTimebaseWatchdogExpiry (tb : Nat) (s : State) : Host.Outcome State Fault Refusal :=
  guardUnit (tb < 2)
    (let b := s.timebases.getD tb {}
     if s.supply.inReset ∨ !s.boot.stage.started ∨ b.stopped ∨ s.isHalted (0x82 + tb) 0 then s
     else
       let l := nowAndRecent s.clock b.expiries
       let s := { s with trust := { s.trust with wdogTb := sat8 s.trust.wdogTb } }
       let s := spoilHandover (0x82 + tb) (s.setTimebase tb fun b => { b with expiries := l })
       let s := passActive tb s
       if l.length ≥ 3 then stopTimebase tb s else s)

/-- TIMEBASE_HEARTBEAT_MISS: a die that stops. -/
def execTimebaseHeartbeatMiss (tb : Nat) (s : State) : Host.Outcome State Fault Refusal :=
  guardUnit (tb < 2)
    (if s.supply.inReset ∨ (s.timebases.getD tb {}).stopped then s else stopTimebase tb (passActive tb s))

/-! ### The deadman (R363) -/

/-- DEADMAN_EXPIRY: the part fails closed and asserts FAULT_N. -/
def execDeadmanExpiry (s : State) : Host.Outcome State Fault Refusal :=
  .next
    (if !(s.rail 0).above10 ∨ s.trust.deadman then s
     else
       let s := failClosed 0x0B s
       { s with trust := { s.trust with deadman := true }, supply := { s.supply with faultN := true } })

end Sys2Proof.Machine
end

