-- ==== Sys2Proof/Machine/TestPort.lean ====
section
/-! DEFINITION. The IEEE 1149.1 test access port (R342, R356-R358, R361, R373-R377): boundary scan, the trust die's records, lifecycle
transitions and debug. What a selected register gives at TDO stands in `trust.tdo`, bit 0 first. -/
namespace Sys2Proof.Machine

/-! ### The port -/

/-- An instruction of the port: it needs only VDD_AON (R342). -/
def withTap (ir : Tap) (work : State → State) (s : State) : State :=
  if (s.rail 0).above10 then work { s with trust := { s.trust with ir := ir } } else s

/-- The selected register gives `bits` bits at TDO. -/
def shiftOut (bits value : Nat) (s : State) : State := { s with trust := { s.trust with tdo := value % 2 ^ bits, tdoBits := bits } }

/-- Boundary-scan cells let go of the pins. -/
def letGo (s : State) : State := { s with scan := { s.scan with driven := false, floating := false } }

/-- The number a run of bits spells, first bit lowest. -/
def bitsNat : List Bool → Nat
  | [] => 0
  | b :: bs => bit b + 2 * bitsNat bs

/-- EXTEST: the boundary-scan register drives the pins with what is shifted in; the pin levels it captured are not known here (log 6). -/
def execExtest (shiftIn : List Bool) (s : State) : Host.Outcome State Fault Refusal :=
  .next (withTap .extest (fun s =>
    State.draw 1 (shiftOut shiftIn.length s.drawn { s with scan := { s.scan with latch := shiftIn, driven := true, floating := false } })) s)

/-- SAMPLE/PRELOAD: pin levels are captured and shifted out; the latch is preloaded; the pins are not driven. -/
def execSamplePreload (pins shiftIn : List Bool) (s : State) : Host.Outcome State Fault Refusal :=
  .next (withTap .samplePreload (fun s =>
    shiftOut pins.length (bitsNat pins) { s with scan := { latch := shiftIn, captured := pins } }) s)

/-- The 32 bits of IDCODE (R373). -/
def idcodeOf (t : Trust) : Nat := packFields [(0, 1, 1), (1, 11, t.jep106.toNat), (12, 16, 0x0128), (28, 4, t.stepping.toNat)]

/-- IDCODE. -/
def execIdcode (s : State) : Host.Outcome State Fault Refusal :=
  .next (withTap .idcode (fun s => shiftOut 32 (idcodeOf s.trust) (letGo s)) s)

/-- CLAMP: the latch holds the pins; bypass is selected. -/
def execClamp (s : State) : Host.Outcome State Fault Refusal :=
  .next (withTap .clamp (fun s => shiftOut 1 0 { s with scan := { s.scan with driven := true, floating := false } }) s)

/-- HIGHZ: the outputs float; bypass is selected. -/
def execHighz (s : State) : Host.Outcome State Fault Refusal :=
  .next (withTap .highz (fun s => shiftOut 1 0 { s with scan := { s.scan with driven := false, floating := true } }) s)

/-- Codes of Table 17.12 other than BYPASS. -/
def listedCode (c : Nat) : Bool := [0x00, 0x01, 0x02, 0x03, 0x04, 0x10, 0x11, 0x12, 0x13, 0x14, 0x15, 0x20, 0x21, 0x22].contains c

/-- BYPASS, and every unlisted code (R373): a captured 0, then what is shifted in. -/
def execBypass (code : BitVec 8) (shiftIn : Bool) (s : State) : Host.Outcome State Fault Refusal :=
  .next (if listedCode code.toNat then s else withTap .bypass (fun s => shiftOut 2 (2 * bit shiftIn) (letGo s)) s)

/-- TAP_RESET: IDCODE is selected. -/
def execTapReset (s : State) : Host.Outcome State Fault Refusal :=
  .next (withTap .idcode (fun s => shiftOut 0 0 (letGo s)) s)

/-! ### Records of the trust die -/

def SupplyKind.code : SupplyKind → Nat
  | .none => 0
  | .order => 1
  | .separation => 2
  | .rampSlow => 3
  | .undervolt => 4
  | .overvolt => 5
  | .downOrder => 6

/-- The supply record (Table 16.2). -/
def SupplyRec.word (r : SupplyRec) : Nat :=
  packFields [(0, 4, r.kind.code), (4, 6, r.rail), (10, 3, r.stage), (13, 1, bit r.runtime), (16, 48, r.aonTicks), (64, 16, r.faults)]

/-- SUPPLY_REC (R335). -/
def execSupplyRec (s : State) : Host.Outcome State Fault Refusal :=
  .next (withTap .supplyRec (fun s => shiftOut 128 s.supply.record.word (letGo s)) s)

/-- TD_STATE (Table 17.13). -/
def State.tdState (s : State) : Nat :=
  let t := s.trust
  packFields [(0, 2, t.lifecycle.code), (2, 1, bit t.wipeDone), (3, 1, bit t.identityKey.isSome), (4, 2, s.dbg.level.code),
    (6, 16, s.dbg.subject), (22, 1, bit t.deadman), (23, 1, bit t.refclkLost), (24, 8, s.boot.failCode), (32, 8, t.wdogMgmt),
    (40, 8, t.wdogSeq), (48, 8, t.wdogLane), (56, 8, t.wdogTb), (64, 7, t.svCount), (71, 4, t.vendorRevoke.toNat),
    (75, 1, bit t.ownerDigest.isSome), (76, 4, t.lcErr)]

/-- TD_STATE (R373). -/
def execTdState (s : State) : Host.Outcome State Fault Refusal :=
  .next (withTap .tdState (fun s => shiftOut 128 s.tdState (letGo s)) s)

/-- BOOT_LOG (R361). -/
def execBootLog (s : State) : Host.Outcome State Fault Refusal :=
  .next (withTap .bootLog (fun s =>
    shiftOut 64 (packFields [(0, 8, s.boot.codeA), (8, 8, s.boot.codeB), (16, 1, bit s.boot.preferredB), (17, 1, bit s.boot.slotB),
      (32, 32, s.boot.bootMs)]) (letGo s)) s)

/-- What MONUMENT_READ gives: in BLANK the raw identity public key, else the monument (R358). -/
def Trust.monumentBytes (t : Trust) : Bytes :=
  if t.lifecycle = .blank then (match t.identityKey with
    | some d => publicKey d
    | none => []) else t.monument

/-- MONUMENT_READ (R358). -/
def execMonumentRead (s : State) : Host.Outcome State Fault Refusal :=
  .next (withTap .monumentRead (fun s =>
    let bs := s.trust.monumentBytes
    shiftOut (8 * bs.length) (leNat bs) (letGo s)) s)

/-- The 112-byte report of ATTEST (R358). -/
def State.report (s : State) (nonce : BitVec 384) : Bytes :=
  leBytes 48 nonce.toNat ++ leBytes 8 s.trust.serial.toNat ++ leBytes 1 s.trust.lifecycle.code ++ leBytes 1 (bit s.boot.slotB) ++
  leBytes 1 (if s.boot.stage.started then securityVersion s.boot.runningImage else 0) ++ leBytes 1 0 ++ leBytes 4 s.boot.fwInstance.toNat ++
  beBytes 48 s.boot.digest

/-- The signature of ATTEST: all zeros in RETURNED, where the key is erased (R358, log 6). -/
def State.attestation (s : State) (nonce : BitVec 384) : Bytes :=
  match (if s.trust.lifecycle = .returned then none else s.trust.identityKey) with
  | none => List.replicate 96 0
  | some d => leBytes 96 (Config.attestSignature d (beNat (sha384 (s.report nonce))))

/-- ATTEST (R358). -/
def execAttest (nonce : BitVec 384) (s : State) : Host.Outcome State Fault Refusal :=
  .next (withTap .attest (fun s => shiftOut 1664 (leNat (s.report nonce ++ s.attestation nonce)) (letGo s)) s)

/-! ### Lifecycle (R356) -/

/-- A transition record cut into its parts (log 42): target, SERIAL, payload, the signer's public key, signature. -/
structure Transition where
  target : Nat
  serial : Nat
  payload : Bytes
  key : Bytes
  signature : Bytes
  signed : Bytes

/-- The record's parts; none where it is too short. -/
def transitionOf (bs : Bytes) : Option Transition :=
  if bs.length < 201 then none
  else
    let n := bs.length - 192
    some { target := leNat (bs.take 1), serial := leNat ((bs.drop 1).take 8), payload := (bs.take n).drop 9, key := (bs.drop n).take 96
           signature := bs.drop (n + 96), signed := bs.take (n + 96) }

/-- The key is an unrevoked vendor key. -/
def Trust.vendorKey (t : Trust) (key : Bytes) : Bool :=
  (List.range 4).any fun i => !t.vendorRevoke.getLsbD i && beNat (sha384 key) == t.vendorDigest.getD i 0

/-- `part` stands somewhere in `whole`. -/
def holdsRun (part : Bytes) : Bytes → Bool
  | [] => part.isEmpty
  | b :: bs => part.isPrefixOf (b :: bs) || holdsRun part bs

/-- DER of the subject public key info of a P-384 key, up to the point (RFC 5480, log 17). -/
def spkiHead : Bytes :=
  [0x30, 0x76, 0x30, 0x10, 0x06, 0x07, 0x2A, 0x86, 0x48, 0xCE, 0x3D, 0x02, 0x01, 0x06, 0x05, 0x2B, 0x81, 0x04, 0x00, 0x22, 0x03, 0x62, 0x00, 0x04]

/-- The monument carries the identity public key. -/
def monumentOk (t : Trust) (m : Bytes) : Bool :=
  m.length ≤ 2048 && (match t.identityKey with
    | some d => holdsRun (spkiHead ++ publicKey d) m
    | none => false)

/-- The erase of a part that is returned: it runs to its end, or is interrupted and resumes at the next start (R356, log 6). -/
def beginWipe (s : State) : State :=
  (finishWipe { s with trust := { s.trust with fusedLifecycle := .returned, wiping := true } }).1

/-- An accepted transition; none where the record is rejected (Table 17.2). -/
def transit (r : Transition) (s : State) : Option State :=
  let t := s.trust
  let vendor := t.vendorKey r.key
  let owner := match t.ownerDigest with
    | some d => beNat (sha384 r.key) == d
    | none => vendor
  let good := r.serial == t.serial.toNat && verifies r.key r.signature r.signed
  match t.fusedLifecycle, r.target with
  | .blank, 1 =>
    if good && vendor && monumentOk t r.payload then
      some { s with trust := { t with fusedLifecycle := .provisioned, monument := r.payload, monumentDigest := some (beNat (sha384 r.payload)) } }
    else none
  | .provisioned, 2 =>
    if good && vendor && r.payload.length == 48 then
      some { s with trust := { t with fusedLifecycle := .deployed
                                      ownerDigest := if beNat r.payload = 0 then none else some (beNat r.payload) } }
    else none
  | .provisioned, 3 => if good && owner && r.payload.isEmpty then some (beginWipe s) else none
  | .deployed, 3 => if good && owner && r.payload.isEmpty then some (beginWipe s) else none
  | _, _ => none

/-- LC_TRANSITION (R356): only while RESET_N is low; a rejected record is counted in LC_ERR. -/
def execLcTransition (record : Bytes) (s : State) : Host.Outcome State Fault Refusal :=
  .next (withTap .lcTransition (fun s =>
    let s := shiftOut 0 0 (letGo s)
    if s.supply.resetN then s
    else match (transitionOf record).bind fun r => transit r s with
      | some s => s
      | none => { s with trust := { s.trust with lcErr := min 15 (s.trust.lcErr + 1) } }) s)

/-! ### Debug (R375-R377) -/

/-- The part is in reset, in SUPPLY_FAULT or failed closed. -/
def State.isHeld (s : State) : Bool := s.supply.inReset || s.supply.fault != .none || s.supply.thermtrip || s.boot.stage == .failed

/-- A debug access first closes a session that has ended: the subject changed, or FB_NEXT has passed NOT_AFTER_SEQ (R375). -/
def enterDebug (s : State) : State :=
  let s := settleDebug s
  if s.dbg.level = .parcel ∧ s.dbg.notAfter < s.book.next then closeDebug s else s

/-- The power state of the group that holds a die; dies on VDD_AON are always powered (R23). -/
def State.dieState (s : State) (d : Nat) : PState := match groupOfDieId d with
  | some g => (s.group g).state
  | none => .l0

/-- DBG_TRACE (R376, Table 17.15): the window's STALE bit, then what the buffer holds, whose layout the spec leaves open (log 6). -/
def execDbgTrace (dieId : Nat) (s : State) : Host.Outcome State Fault Refusal :=
  guardUnit (dieExists dieId && !(0x60 ≤ dieId && dieId < 0x7E))
    (withTap .dbgTrace (fun s =>
      let s := enterDebug (letGo s)
      if s.dbg.level = .none ∨ (s.isHeld ∧ !(s.dbg.level = .full ∧ dieId = 0x81)) then shiftOut 0 0 s
      else if s.dieState dieId = .l3 then shiftOut 1 1 s
      else
        let word := 2 * Config.debugWord dieId s.freeCount
        State.draw 1 { s with trust := { s.trust with tdo := word, tdoBits := 0 } }) s)

/-- Work of a debug access in the group of a die: done in L0, else the group's exit starts and the access waits (R347, R376). -/
def onDieId (d : Nat) (work : State → State) (s : State) : State := match groupOfDieId d with
  | some g => onGroup g work s
  | none => work s

/-- The byte of the cell buffer at an address: of the frame whose cell stands there; none in a cell no frame holds. -/
def State.cellByte (s : State) (a : Nat) : Option (Frame × Byte) :=
  let size := if s.xbar.threeSlice then 192 else 256
  let c := a / size
  let cellsOfRec (r : FrameRec) : List (Nat × Nat) := match r.fallback with
    | some n => [(s.xbar.bufFirst n, r.cells)]
    | none => r.runs
  (s.xbar.records.findSome? fun r =>
    let rec_ := (cellsOfRec r).foldl (fun (acc : Nat × Option Nat) run =>
      (acc.1 + run.2, if run.1 ≤ c ∧ c < run.1 + run.2 then some (acc.1 + (c - run.1)) else acc.2)) (0, none)
    rec_.2.bind fun k => ((frameBytes r.frame)[size * k + a % size]?).map fun b => (r.frame, b))

/-- The kept field-book entry whose slot a stack address lies in, as that copy's byte. -/
def State.bookByte (s : State) (stack a : Nat) : Option Byte :=
  let top := 34 * 2 ^ 30
  if s.isJournal stack ∧ top ≤ a ∧ a < top + 2 ^ 30 then
    (s.book.entries.find? fun e => e.seq % bookSlots = (a - top) / 1024).bind fun e => (s.copyBytes stack e)[a % 1024]?
  else none

/-- First byte of the controller and firmware data in a stack (Table 12.2). -/
def systemBase : Nat := 35 * 2 ^ 30 + 736 * 2 ^ 20

/-- The firmware data area of a journal stack: the hand-over record's header, little-endian (R6, R367, Table 17.9), then, from 1 MiB on, the verified
copy of the staged image (R364; the places in the area are DESIGN CHOICE, log 100). -/
def State.firmwareByte (s : State) (stack a : Nat) : Option Byte :=
  if !s.isJournal stack ∨ a < systemBase then none
  else
    let k := a - systemBase
    if k < 64 then (leBytes 64 s.boot.handoverRecord.toNat)[k]?
    else if 2 ^ 20 ≤ k then s.boot.verified[k - 2 ^ 20]? else none

/-- Firmware has zeroed what it zeroes before READY (R372). -/
def State.zeroedEarly (s : State) : Bool := s.boot.stage == .ready || s.boot.stage == .mdRestart

/-- A stack line has not been zeroed since the release: debug reads zeros there and writes nothing (R372). Nothing zeroes the controller and firmware
data. -/
def State.unzeroed (s : State) (stack a : Nat) : Bool :=
  !s.zeroedEarly || systemBase ≤ a || (s.stack stack).unzeroed.any fun r => r.1 ≤ a / 2048 && a / 2048 < r.1 + r.2

/-- An SRAM bank has not been zeroed since the release: nothing zeroes the basis store (R372). -/
def State.bankUnzeroed (s : State) (a : Nat) : Bool := !s.zeroedEarly || decide (a < basisBytes)

/-- A stack address lies in an extent of a region of the parcel. -/
def State.inRegionOf (s : State) (parcel stack a : Nat) : Bool :=
  s.regions.any fun e => e.2.parcel == parcel && e.2.extents.any fun x => x.pair == stack && x.base ≤ a && a < x.base + x.len

/-- A stack address lies in a spilled accumulator of a generation of the parcel. -/
def State.spillOf (s : State) (parcel stack a : Nat) : Bool :=
  (s.spillOwner stack (a / 2048)).any fun o => (s.traverse o.1).any fun v => v.ctx.parcel == parcel

/-- A byte of a place whose layout the spec does not give: as DBG_MEM or a save wrote it, or free (log 6). -/
def State.openByte (s : State) (d a : Nat) : Byte :=
  ((s.pokes.find? fun e => e.1 == (d, a)).map (·.2)).getD (BitVec.ofNat 8 (Config.debugWord d (s.freeCount + a)))

/-- A byte of a place that was zeroed before READY: as DBG_MEM or a save wrote it since, or zero (R372). -/
def State.zeroedByte (s : State) (d a : Nat) : Byte := ((s.pokes.find? fun e => e.1 == (d, a)).map (·.2)).getD 0

/-- A byte of a stack, but for the check area. -/
def State.stackByte (s : State) (stack a : Nat) : Byte :=
  if a < systemBase ∧ s.unzeroed stack a then 0
  else if (s.spillOwner stack (a / 2048)).isSome then BitVec.ofNat 8 (Config.debugWord (0x60 + stack) (s.freeCount + a))
  else if a < s.allocTop stack then Memory.read (s.stack stack).mem a
  else (s.bookByte stack a).getD ((s.firmwareByte stack a).getD
    (if a < systemBase then s.zeroedByte (0x60 + stack) a else s.openByte (0x60 + stack) a))

/-- A byte of the check area (R267): of the check symbols of its line, as they stand there. -/
def State.checkByte (s : State) (stack a : Nat) : Byte :=
  let k := a - 2048 * checkBase
  let line := k / 32
  let good := (lineCheck (Config.ownCheck stack) (s.stackByte stack) 6 line).getD (k % 32) 0
  let flips := ((s.stack stack).errorsAt line).filter fun e => e.1 = 1024 + k % 32 / 2
  flips.foldl (fun b e => b ^^^ BitVec.ofNat 8 (e.2 / 256 ^ (k % 2))) good

/-- The address lies in a stack's check area. -/
def inCheckArea (a : Nat) : Bool := 2048 * checkBase ≤ a && a < 2048 * (checkBase + checkArea)

/-- A byte of a ledger die's SRAM outside the basis store: as DBG_MEM wrote it; zero in a bank that holds nothing; else free, for the spec gives no
layout (R279, log 6). -/
def State.sramByte (s : State) (die a : Nat) : Byte :=
  match (s.die die).sram.find? fun e => e.1 = a with
  | some e => e.2
  | none =>
    if s.bankUsed die (a / bankBytes) then BitVec.ofNat 8 (Config.debugWord (0x40 + die) (s.freeCount + a)) else 0

/-- What DBG_MEM reads: none where the level does not reach. Where the spec gives no layout the byte is free, at PARCEL level that of the subject's
object which stands there (log 6). -/
def State.debugRead (s : State) (space : DebugSpace) (a : Nat) : Option Nat :=
  let full := s.dbg.level == .full
  match space with
  | .sram i =>
    if s.bankUnzeroed a then some 0
    else some (if full then s.sramByte i a else BitVec.ofNat 8 (Config.debugWord (0x40 + i) (s.freeCount + a))).toNat
  | .hbm i =>
    if s.unzeroed i a then some 0
    else if !full && !s.inRegionOf s.dbg.subject i a && !s.spillOf s.dbg.subject i a then none
    else some (if inCheckArea a then s.checkByte i a else s.stackByte i a).toNat
  | .cell => match s.cellByte a with
    | some (f, b) => if full || frameParcel s f == some s.dbg.subject then some b.toNat else none
    | none => if full then some (s.openByte 0x20 a).toNat else none

/-- A byte written where the spec gives no layout. -/
def poke (d a : Nat) (b : Byte) (s : State) : State :=
  { s with pokes := s.pokes.filter (fun e => e.1 != (d, a)) ++ [((d, a), b)] }

/-- A byte written to a stack: in the check area it leaves the line's data as they are, and its check symbols wrong (R266, R267). -/
def pokeStack (i a : Nat) (b : Byte) (s : State) : State :=
  if s.unzeroed i a then s
  else if inCheckArea a then
    let k := a - 2048 * checkBase
    s.setStack i (addErrors [(k / 32, 1024 + k % 32 / 2, (s.checkByte i a ^^^ b).toNat * 256 ^ (k % 2))])
  else if a < s.allocTop i then storeSector i a [b] s
  else (poke (0x60 + i) a b s).setStack i (touchChecks (a / 2048) 1 true)

/-- What DBG_MEM writes, under FULL only. -/
def debugWrite (space : DebugSpace) (a : Nat) (b : Byte) (s : State) : State :=
  bumpNondet 0 (match space with
    | .sram i => if s.bankUnzeroed a then s else s.setDie i fun d => { d with sram := d.sram.filter (fun e => e.1 ≠ a) ++ [(a, b)] }
    | .hbm i => pokeStack i a b s
    | .cell => poke 0x20 a b s)

/-- The die whose group an access wakes. -/
def spaceDie : DebugSpace → Nat
  | .sram i => 0x40 + i
  | .hbm i => 0x60 + i
  | .cell => 0x20

/-- The address exists (R5, R279, R286). -/
def spaceHas (a : Nat) : DebugSpace → Bool
  | .sram i => i < Config.pairs && decide (a < 160 * 2 ^ 20)
  | .hbm i => i < Config.pairs && decide (a < 38654705664)
  | .cell => decide (a < 512 * 2 ^ 20)

/-- DBG_MEM (R375-R377). -/
def execDbgMem (space : DebugSpace) (address : Nat) (write : Option Byte) (s : State) : Host.Outcome State Fault Refusal :=
  guardUnit (spaceHas address space)
    (withTap .dbgMem (fun s =>
      let s := shiftOut 0 0 (enterDebug (letGo s))
      if s.isHeld ∨ !(s.dbg.level = .full ∨ (s.dbg.level = .parcel ∧ write.isNone)) then s
      else onDieId (spaceDie space) (fun s =>
        match write with
        | some b => debugWrite space address b s
        | none => match s.debugRead space address with
          | some v => State.draw 1 (shiftOut 8 v s)
          | none => s) s) s)

/-- The processors of Table 17.7 by die and index, and the trust-die core. -/
def processorExists (d n : Nat) : Bool :=
  (d == 0x80 && n < 4) || (n == 0 && (d < 0x20 || (0x40 ≤ d && d < 0x5E) || d == 0x81 || d == 0x82 || d == 0x83))

/-- What DBG_CTRL does to a processor. A step runs one instruction of firmware, which the spec does not give: its registers are free from
then on (log 6). -/
def debugControl (d n : Nat) (action : DebugAction) (s : State) : State :=
  let dropRegs (l : List ((Nat × Nat) × Nat × Nat)) := l.filter fun e => e.1 != (d, n)
  match action with
  | .halt => bumpNondet 0 { s with dbg := { s.dbg with halted := if s.dbg.halted.contains (d, n) then s.dbg.halted
                                                                     else s.dbg.halted ++ [(d, n)] } }
  | .resume => { s with dbg := { s.dbg with halted := s.dbg.halted.erase (d, n), regs := dropRegs s.dbg.regs } }
  | .step => { s with dbg := { s.dbg with regs := dropRegs s.dbg.regs } }
  | .readReg r => match s.dbg.regs.find? fun e => e.1 == (d, n) && e.2.1 == r with
    | some e => shiftOut 64 e.2.2 s
    | none => State.draw 1 (shiftOut 64 (Config.debugWord d s.freeCount) s)
  | .writeReg r v => { s with dbg := { s.dbg with
      regs := (s.dbg.regs.filter fun e => !(e.1 == (d, n) && e.2.1 == r)) ++ [((d, n), r, v)] } }

/-- DBG_CTRL (R375-R377): under FULL; it never reaches the trust-die core. -/
def execDbgCtrl (dieId processor : Nat) (action : DebugAction) (s : State) : Host.Outcome State Fault Refusal :=
  guardUnit (processorExists dieId processor)
    (withTap .dbgCtrl (fun s =>
      let s := shiftOut 0 0 (enterDebug (letGo s))
      if s.isHeld ∨ s.dbg.level ≠ .full ∨ dieId = 0x81 then s
      else onDieId dieId (debugControl dieId processor action) s) s)

end Sys2Proof.Machine
end

