-- ==== Sys2Proof/Machine/Dispatch.lean ====
section
/-! DEFINITION. The dispatch: one arm per row of the opcode table, each a direct call of the row's meaning. -/
namespace Sys2Proof.Machine

def exec (i : Instr) (s : State) : Host.Outcome State Fault Refusal :=
  match i with
  | .query c => Sys2Proof.Machine.execQuery c s
  | .fieldbookRead c => Sys2Proof.Machine.execFieldbookRead c s
  | .parcelCreate c => Sys2Proof.Machine.execParcelCreate c s
  | .setPlat c => Sys2Proof.Machine.execSetPlat c s
  | .parcelRemove c => Sys2Proof.Machine.execParcelRemove c s
  | .platSet c => Sys2Proof.Machine.execPlatSet c s
  | .traverseOpen c => Sys2Proof.Machine.execTraverseOpen c s
  | .traverseClose c => Sys2Proof.Machine.execTraverseClose c s
  | .traverseCloseForce c => Sys2Proof.Machine.execTraverseCloseForce c s
  | .genOpen c => Sys2Proof.Machine.execGenOpen c s
  | .tallySet c => Sys2Proof.Machine.execTallySet c s
  | .tallySetFree c => Sys2Proof.Machine.execTallySetFree c s
  | .ledgerAllocCreate c => Sys2Proof.Machine.execLedgerAllocCreate c s
  | .ledgerAllocChange c => Sys2Proof.Machine.execLedgerAllocChange c s
  | .ledgerAllocFree c => Sys2Proof.Machine.execLedgerAllocFree c s
  | .ledgerLoad c => Sys2Proof.Machine.execLedgerLoad c s
  | .ledgerLoadZero c => Sys2Proof.Machine.execLedgerLoadZero c s
  | .ledgerSave c => Sys2Proof.Machine.execLedgerSave c s
  | .apply c => Sys2Proof.Machine.execApply c s
  | .applyDiscard c => Sys2Proof.Machine.execApplyDiscard c s
  | .normReadLocal c => Sys2Proof.Machine.execNormReadLocal c s
  | .normReadRead c => Sys2Proof.Machine.execNormReadRead c s
  | .serveArm c => Sys2Proof.Machine.execServeArm c s
  | .serveDisarm c => Sys2Proof.Machine.execServeDisarm c s
  | .basisLoad c => Sys2Proof.Machine.execBasisLoad c s
  | .basisBind c => Sys2Proof.Machine.execBasisBind c s
  | .mapSelectImmediate c => Sys2Proof.Machine.execMapSelectImmediate c s
  | .mapSelectAction c => Sys2Proof.Machine.execMapSelectAction c s
  | .mapSelectDelete c => Sys2Proof.Machine.execMapSelectDelete c s
  | .routeStage c => Sys2Proof.Machine.execRouteStage c s
  | .routeCommit c => Sys2Proof.Machine.execRouteCommit c s
  | .mirrorSet c => Sys2Proof.Machine.execMirrorSet c s
  | .mirrorSetPart c => Sys2Proof.Machine.execMirrorSetPart c s
  | .budgetSet c => Sys2Proof.Machine.execBudgetSet c s
  | .stationSource c => Sys2Proof.Machine.execStationSource c s
  | .stationSourceOff c => Sys2Proof.Machine.execStationSourceOff c s
  | .memberRemap c => Sys2Proof.Machine.execMemberRemap c s
  | .admitRestartOnly c => Sys2Proof.Machine.execAdmitRestartOnly c s
  | .admitWarm c => Sys2Proof.Machine.execAdmitWarm c s
  | .easementGrant c => Sys2Proof.Machine.execEasementGrant c s
  | .easementRevoke c => Sys2Proof.Machine.execEasementRevoke c s
  | .fwStage c => Sys2Proof.Machine.execFwStage c s
  | .fwHandover c => Sys2Proof.Machine.execFwHandover c s
  | .fwHandoverCancel c => Sys2Proof.Machine.execFwHandoverCancel c s
  | .debugOpen c => Sys2Proof.Machine.execDebugOpen c s
  | .auditReadPool c => Sys2Proof.Machine.execAuditReadPool c s
  | .auditReadLedger c => Sys2Proof.Machine.execAuditReadLedger c s
  | .auditReadScheduled c => Sys2Proof.Machine.execAuditReadScheduled c s
  | .commandEffectEnd seq => Sys2Proof.Machine.execCommandEffectEnd seq s
  | .pairEnable a pair value => Sys2Proof.Machine.execPairEnable a pair value s
  | .pairDisable a pair value => Sys2Proof.Machine.execPairDisable a pair value s
  | .cmdDoorbell a pair value => Sys2Proof.Machine.execCmdDoorbell a pair value s
  | .cmpDoorbell a pair value => Sys2Proof.Machine.execCmpDoorbell a pair value s
  | .registerWrite a offset value => Sys2Proof.Machine.execRegisterWrite a offset value s
  | .mgmtCommandFrame => Sys2Proof.Machine.execMgmtCommandFrame s
  | .mgmtRegRead => Sys2Proof.Machine.execMgmtRegRead s
  | .mgmtRegWrite => Sys2Proof.Machine.execMgmtRegWrite s
  | .laneFrameIngress port bytes => Sys2Proof.Machine.execLaneFrameIngress port bytes s
  | .allocRetry input vc => Sys2Proof.Machine.execAllocRetry input vc s
  | .outputFrameStart output => Sys2Proof.Machine.execOutputFrameStart output s
  | .outputFrameEnd output readError => Sys2Proof.Machine.execOutputFrameEnd output readError s
  | .epochDrained => Sys2Proof.Machine.execEpochDrained s
  | .sprayJoin port => Sys2Proof.Machine.execSprayJoin port s
  | .descriptorAgeDrop queue => Sys2Proof.Machine.execDescriptorAgeDrop queue s
  | .bufferThresholdUpdate => Sys2Proof.Machine.execBufferThresholdUpdate s
  | .telemetryPeriod => Sys2Proof.Machine.execTelemetryPeriod s
  | .reseqFrameArrival die => Sys2Proof.Machine.execReseqFrameArrival die s
  | .holeSkip die srcPart srcPort flow => Sys2Proof.Machine.execHoleSkip die srcPart srcPort flow s
  | .seqFlowRetire die srcPart srcPort flow => Sys2Proof.Machine.execSeqFlowRetire die srcPart srcPort flow s
  | .egReseqFrameArrival chiplet => Sys2Proof.Machine.execEgReseqFrameArrival chiplet s
  | .egHoleSkip chiplet srcPart srcPort flow => Sys2Proof.Machine.execEgHoleSkip chiplet srcPart srcPort flow s
  | .ledgerFrameReceive die => Sys2Proof.Machine.execLedgerFrameReceive die s
  | .surveyFrame die => Sys2Proof.Machine.execSurveyFrame die s
  | .openFrame die => Sys2Proof.Machine.execOpenFrame die s
  | .datumFrame die => Sys2Proof.Machine.execDatumFrame die s
  | .doneFrame die => Sys2Proof.Machine.execDoneFrame die s
  | .abortCommonFrame die => Sys2Proof.Machine.execAbortCommonFrame die s
  | .abortReqFrame die => Sys2Proof.Machine.execAbortReqFrame die s
  | .resultFrame => Sys2Proof.Machine.execResultFrame s
  | .serveRequest die => Sys2Proof.Machine.execServeRequest die s
  | .layerGenerationOpen traverse => Sys2Proof.Machine.execLayerGenerationOpen traverse s
  | .verdictQueryFrame die => Sys2Proof.Machine.execVerdictQueryFrame die s
  | .releaseQueryFrame die => Sys2Proof.Machine.execReleaseQueryFrame die s
  | .genMemberTimeout traverse gen entry => Sys2Proof.Machine.execGenMemberTimeout traverse gen entry s
  | .broadcastMemberTimeout traverse gen entry => Sys2Proof.Machine.execBroadcastMemberTimeout traverse gen entry s
  | .verdictWaitTimeout tally index gen => Sys2Proof.Machine.execVerdictWaitTimeout tally index gen s
  | .contextDrop traverse => Sys2Proof.Machine.execContextDrop traverse s
  | .bindingPrevClear traverse => Sys2Proof.Machine.execBindingPrevClear traverse s
  | .tallyArrival die => Sys2Proof.Machine.execTallyArrival die s
  | .tallyRelease die => Sys2Proof.Machine.execTallyRelease die s
  | .tallyMemberLate tally => Sys2Proof.Machine.execTallyMemberLate tally s
  | .timeoutReqFrame die => Sys2Proof.Machine.execTimeoutReqFrame die s
  | .stationMark mark => Sys2Proof.Machine.execStationMark mark s
  | .stationInWord word => Sys2Proof.Machine.execStationInWord word s
  | .handoverEnd outcome => Sys2Proof.Machine.execHandoverEnd outcome s
  | .actionConfirm ordinal => Sys2Proof.Machine.execActionConfirm ordinal s
  | .replicaSync => Sys2Proof.Machine.execReplicaSync s
  | .stationTimeout tb stream => Sys2Proof.Machine.execStationTimeout tb stream s
  | .spillStart die => Sys2Proof.Machine.execSpillStart die s
  | .spillAck die traverse gen chain => Sys2Proof.Machine.execSpillAck die traverse gen chain s
  | .fillDone die traverse gen chain => Sys2Proof.Machine.execFillDone die traverse gen chain s
  | .scatterAdd die => Sys2Proof.Machine.execScatterAdd die s
  | .patrolScrubLine stack faults => Sys2Proof.Machine.execPatrolScrubLine stack faults s
  | .mapoutStart stack => Sys2Proof.Machine.execMapoutStart stack s
  | .mapoutDone stack faults => Sys2Proof.Machine.execMapoutDone stack faults s
  | .poolAuditDone => Sys2Proof.Machine.execPoolAuditDone s
  | .ledgerAuditDone faults => Sys2Proof.Machine.execLedgerAuditDone faults s
  | .basisReady slot => Sys2Proof.Machine.execBasisReady slot s
  | .arraySelftestDone die columns => Sys2Proof.Machine.execArraySelftestDone die columns s
  | .linkControlWord port word => Sys2Proof.Machine.execLinkControlWord port word s
  | .rateRecovery port => Sys2Proof.Machine.execRateRecovery port s
  | .goingIdleExpiry port => Sys2Proof.Machine.execGoingIdleExpiry port s
  | .bringupIdleEnd port => Sys2Proof.Machine.execBringupIdleEnd port s
  | .ckWindowSwitch port => Sys2Proof.Machine.execCkWindowSwitch port s
  | .ckLock port => Sys2Proof.Machine.execCkLock port s
  | .losCheckPass port => Sys2Proof.Machine.execLosCheckPass port s
  | .trainingRow port row => Sys2Proof.Machine.execTrainingRow port row s
  | .bringupStepTimeout port => Sys2Proof.Machine.execBringupStepTimeout port s
  | .losAssert port position => Sys2Proof.Machine.execLosAssert port position s
  | .losClear port position => Sys2Proof.Machine.execLosClear port position s
  | .lossOfLock port position => Sys2Proof.Machine.execLossOfLock port position s
  | .lockRegained port => Sys2Proof.Machine.execLockRegained port s
  | .refclkInputLost input => Sys2Proof.Machine.execRefclkInputLost input s
  | .xdHeartbeatMiss failure => Sys2Proof.Machine.execXdHeartbeatMiss failure s
  | .ledgerHeartbeatMiss pair stackSilent => Sys2Proof.Machine.execLedgerHeartbeatMiss pair stackSilent s
  | .mdHeartbeatMiss => Sys2Proof.Machine.execMdHeartbeatMiss s
  | .mgmtWatchdogExpiry core => Sys2Proof.Machine.execMgmtWatchdogExpiry core s
  | .seqWatchdogExpiry die => Sys2Proof.Machine.execSeqWatchdogExpiry die s
  | .laneWatchdogExpiry chiplet => Sys2Proof.Machine.execLaneWatchdogExpiry chiplet s
  | .timebaseWatchdogExpiry tb => Sys2Proof.Machine.execTimebaseWatchdogExpiry tb s
  | .deadmanExpiry => Sys2Proof.Machine.execDeadmanExpiry s
  | .supplyRailEvent rail event => Sys2Proof.Machine.execSupplyRailEvent rail event s
  | .vddAonRise => Sys2Proof.Machine.execVddAonRise s
  | .resetNAssert lowNs => Sys2Proof.Machine.execResetNAssert lowNs s
  | .resetNRelease => Sys2Proof.Machine.execResetNRelease s
  | .resetReleaseEffective tests => Sys2Proof.Machine.execResetReleaseEffective tests s
  | .bootVerifyDone flashFound selfTest => Sys2Proof.Machine.execBootVerifyDone flashFound selfTest s
  | .bootReady => Sys2Proof.Machine.execBootReady s
  | .mpPerstAssert endpoint => Sys2Proof.Machine.execMpPerstAssert endpoint s
  | .mpPerstRelease endpoint => Sys2Proof.Machine.execMpPerstRelease endpoint s
  | .powerStateEntry group => Sys2Proof.Machine.execPowerStateEntry group s
  | .powerExitDone group => Sys2Proof.Machine.execPowerExitDone group s
  | .wakePoint group => Sys2Proof.Machine.execWakePoint group s
  | .powerLoopTick watts celsius => Sys2Proof.Machine.execPowerLoopTick watts celsius s
  | .hwThrottle die => Sys2Proof.Machine.execHwThrottle die s
  | .thermtrip die => Sys2Proof.Machine.execThermtrip die s
  | .extest shiftIn => Sys2Proof.Machine.execExtest shiftIn s
  | .samplePreload pins shiftIn => Sys2Proof.Machine.execSamplePreload pins shiftIn s
  | .idcode => Sys2Proof.Machine.execIdcode s
  | .clamp => Sys2Proof.Machine.execClamp s
  | .highz => Sys2Proof.Machine.execHighz s
  | .bypass code shiftIn => Sys2Proof.Machine.execBypass code shiftIn s
  | .supplyRec => Sys2Proof.Machine.execSupplyRec s
  | .tdState => Sys2Proof.Machine.execTdState s
  | .bootLog => Sys2Proof.Machine.execBootLog s
  | .monumentRead => Sys2Proof.Machine.execMonumentRead s
  | .attest nonce => Sys2Proof.Machine.execAttest nonce s
  | .lcTransition record => Sys2Proof.Machine.execLcTransition record s
  | .dbgTrace dieId => Sys2Proof.Machine.execDbgTrace dieId s
  | .dbgMem space address write => Sys2Proof.Machine.execDbgMem space address write s
  | .dbgCtrl dieId processor action => Sys2Proof.Machine.execDbgCtrl dieId processor action s
  | .cellSlot => Sys2Proof.Machine.execCellSlot s
  | .timebaseHeartbeatMiss tb => Sys2Proof.Machine.execTimebaseHeartbeatMiss tb s
  | .refclkInputReturn input => Sys2Proof.Machine.execRefclkInputReturn input s
  | .powerStateEntryDone group => Sys2Proof.Machine.execPowerStateEntryDone group s
  | .zeroingLine stack => Sys2Proof.Machine.execZeroingLine stack s
  | .ringMemoryWrite a offset bytes => Sys2Proof.Machine.execRingMemoryWrite a offset bytes s
  | .pairAbandoned => Sys2Proof.Machine.execPairAbandoned s
  | .tapReset => Sys2Proof.Machine.execTapReset s
  | .mdFirmwareFault => Sys2Proof.Machine.execMdFirmwareFault s

end Sys2Proof.Machine
end

