-- ==== Sys2Proof/WellFormed.lean ====
section
/-! DEFINITION. Well-formedness of commands: every unit an operand names exists on the LV-X128 (Tables 0.1, 1.1, 1.2, 16.1),
and a row of measured facts has the length the spec gives it. A meaning faults on what this refuses, and on nothing else. -/
namespace Sys2Proof

/-- External port number (Table 0.1). -/
def portOk (p : Nat) : Bool := p < Config.ports
/-- Ledger die or stack number (Table 1.1). -/
def ledgerOk (i : Nat) : Bool := i < Config.pairs
/-- Lane chiplet number (Table 1.1). -/
def chipletOk (n : Nat) : Bool := n < Config.chiplets
/-- Mailbox pair number (R298). -/
def pairOk (n : Nat) : Bool := n < 64
/-- Die group number (Table 15.6). -/
def groupOk (g : Nat) : Bool := g < Config.groups
/-- Timebase die number (R20). -/
def tbOk (t : Nat) : Bool := t < 2
/-- Traverse or tally index (R54, R81). -/
def indexOk (t : Nat) : Bool := t < Config.indices
/-- Who accesses: MP0 or MP1, and a 16-bit requester ID (R297, R299). -/
def requesterOk (a : Access) : Bool := a.endpoint < 2 && a.requester < 65536
/-- A die identifier of Table 1.2 in one of the die groups of Table 1.8. -/
def groupedDieOk (d : Nat) : Bool := d < 0x24 || (0x40 ≤ d && d < 0x5E) || (0x60 ≤ d && d < 0x7E) || d == 0x80
/-- A die identifier of Table 1.2. -/
def dieIdOk (d : Nat) : Bool := groupedDieOk d || d == 0x81 || d == 0x82 || d == 0x83
/-- A die that takes part in a hand-over's section exchange (R367). -/
def handoverDieOk (d : Nat) : Bool := d < 0x20 || (0x40 ≤ d && d < 0x5E) || d == 0x80 || d == 0x82 || d == 0x83
/-- A firmware processor of a die (R376): four on MD, one on each of the others that run firmware. -/
def processorOk (d n : Nat) : Bool :=
  (d == 0x80 && n < 4) || (n == 0 && (d < 0x20 || (0x40 ≤ d && d < 0x5E) || d == 0x81 || d == 0x82 || d == 0x83))
/-- An address a debug space has: 160 MiB of SRAM, 36 GiB of a stack, 512 MiB of cells (Tables 12.1, 12.2, R286). -/
def debugOk (a : Nat) : DebugSpace → Bool
  | .sram i => ledgerOk i && a < 160 * 2 ^ 20
  | .hbm i => ledgerOk i && a < 36 * 2 ^ 30
  | .cell => a < 512 * 2 ^ 20

/-- A cause of a crossbar die's failure names a link it has: 32 lane chiplets, 30 ledger dies and MD (R200). -/
def xdCauseOk : XdCause → Bool
  | .linkLost l => l < 63
  | _ => true
/-- Faults of a stack name lines, codeword symbols, sectors and pseudo-channels it has (R264, R266). -/
def arrayFaultsOk (w : ArrayFaults) : Bool :=
  (w.symbols.all fun e => e.1 < 18 * 2 ^ 20 && e.2.1 < 1040 && 0 < e.2.2 && e.2.2 < 65536) &&
  (w.sectors.all fun k => k < 64 * (18 * 2 ^ 20)) && w.silent.all (· < 64)

/-- The command's operands name units that exist. -/
def Instr.wf : Instr → Bool
  | .query c | .fieldbookRead c | .parcelCreate c | .setPlat c | .parcelRemove c | .platSet c | .traverseOpen c
  | .traverseClose c | .traverseCloseForce c | .genOpen c | .tallySet c | .tallySetFree c | .ledgerAllocCreate c
  | .ledgerAllocChange c | .ledgerAllocFree c | .ledgerLoad c | .ledgerLoadZero c | .ledgerSave c | .apply c
  | .applyDiscard c | .normReadLocal c | .normReadRead c | .serveArm c | .serveDisarm c | .basisLoad c | .basisBind c
  | .mapSelectImmediate c | .mapSelectAction c | .mapSelectDelete c | .routeStage c | .routeCommit c | .mirrorSet c
  | .mirrorSetPart c | .budgetSet c | .stationSource c | .stationSourceOff c | .memberRemap c | .admitRestartOnly c
  | .admitWarm c | .easementGrant c | .easementRevoke c | .fwStage c | .fwHandover c | .fwHandoverCancel c
  | .debugOpen c | .auditReadPool c | .auditReadLedger c | .auditReadScheduled c => pairOk c.pair
  | .pairEnable a p _ | .pairDisable a p _ | .cmdDoorbell a p _ | .cmpDoorbell a p _ => requesterOk a && pairOk p
  | .registerWrite a offset _ => requesterOk a && offset < 0x10000 && offset % 4 == 0
  | .ringMemoryWrite a offset bytes => requesterOk a && offset + bytes.length ≤ 32 * 2 ^ 20
  | .sprayJoin p | .rateRecovery p | .goingIdleExpiry p | .bringupIdleEnd p
  | .ckWindowSwitch p | .ckLock p | .losCheckPass p | .bringupStepTimeout p | .lockRegained p => portOk p
  | .laneFrameIngress p rows => portOk p && rows.all fun r => r.length == 8
  | .linkControlWord p overhead => portOk p && overhead.length == 8
  | .trainingRow p r => portOk p && r.length == 8
  | .losAssert p l | .losClear p l | .lossOfLock p l => portOk p && l < 9
  | .allocRetry i v => i < Config.xports && v < 8
  | .outputFrameStart o => o < Config.xports
  | .outputFrameEnd o e => o < Config.xports && e.all (· < 4)
  | .descriptorAgeDrop q => q < 262144 + 8 * 31
  | .reseqFrameArrival d | .holeSkip d _ _ _ => d ≤ Config.pairs
  | .seqFlowRetire d _ _ _ => d ≤ Config.pairs + Config.chiplets
  | .egReseqFrameArrival c | .egHoleSkip c _ _ _ | .laneWatchdogExpiry c => chipletOk c
  | .ledgerFrameReceive d | .surveyFrame d | .openFrame d | .datumFrame d | .doneFrame d | .abortCommonFrame d
  | .abortReqFrame d | .serveRequest d | .verdictQueryFrame d | .releaseQueryFrame d | .tallyArrival d | .tallyRelease d
  | .timeoutReqFrame d | .spillStart d | .spillAck d _ _ _ | .fillDone d _ _ _ | .scatterAdd d | .arraySelftestDone d _
  | .seqWatchdogExpiry d => ledgerOk d
  | .mapoutStart h | .zeroingLine h | .ledgerHeartbeatMiss h _ => ledgerOk h
  | .patrolScrubLine h w | .mapoutDone h w => ledgerOk h && arrayFaultsOk w
  | .layerGenerationOpen t | .genMemberTimeout t _ _ | .broadcastMemberTimeout t _ _ | .verdictWaitTimeout _ t _
  | .contextDrop t | .bindingPrevClear t | .tallyMemberLate t => indexOk t
  | .stationMark m => tbOk m.tb && m.lost.all fun e => tbOk e.1 && e.2 < 64
  | .timebaseWatchdogExpiry t | .timebaseHeartbeatMiss t => tbOk t
  | .stationTimeout t n => tbOk t && n < 64
  | .ledgerAuditDone faults => faults.all fun e => ledgerOk e.1 && arrayFaultsOk e.2
  | .basisReady n => n < 8
  | .refclkInputLost i | .refclkInputReturn i => i < 2
  | .xdHeartbeatMiss x => x.xd < 4 && xdCauseOk x.cause
  | .mgmtWatchdogExpiry c => c < 4
  | .supplyRailEvent r _ => r < Config.rails
  | .mpPerstAssert e | .mpPerstRelease e => e < 2
  | .powerStateEntry g | .powerExitDone g | .wakePoint g | .powerStateEntryDone g => groupOk g
  | .powerLoopTick w _ => w.length == 31
  | .hwThrottle d | .thermtrip d => dieIdOk d
  | .dbgTrace d => dieIdOk d && !(0x60 ≤ d && d < 0x7E)
  | .dbgMem space a _ => debugOk a space
  | .dbgCtrl d n _ => processorOk d n
  | .handoverEnd (.rolledBack d) => handoverDieOk d
  | .commandEffectEnd _ | .mgmtCommandFrame | .mgmtRegRead | .mgmtRegWrite | .epochDrained | .bufferThresholdUpdate
  | .telemetryPeriod | .resultFrame | .stationInWord _ | .handoverEnd .done | .actionConfirm _
  | .poolAuditDone | .replicaSync | .mdHeartbeatMiss | .deadmanExpiry | .vddAonRise | .resetNAssert _
  | .resetNRelease | .resetReleaseEffective _ | .bootVerifyDone _ _ | .bootReady | .extest _ | .samplePreload _ _
  | .idcode | .clamp | .highz | .bypass _ _ | .supplyRec | .tdState | .bootLog | .monumentRead | .attest _
  | .lcTransition _ | .cellSlot | .pairAbandoned | .tapReset | .mdFirmwareFault => true

end Sys2Proof
end

