-- ==== Sys2Proof/Safety.lean ====
section
/-! DEFINITION. What claims call a safe run: the block's invariant (canonical memories, every unit of the spec present, the
trust die's counts within their widths), and what one step may do to the fuses. -/
namespace Sys2Proof

/-- The rows that may write a part State.Quiet names: those of supplies, reset and start, of the test access port, of timebases and their marks, of
basis slots, of watchdogs, those that make or narrow a handle or a debug session, and those that end a frame on its way in, by a port's fall among
them, which may be a mark. -/
def Instr.stirs : Instr → Bool
  | .parcelCreate .. | .setPlat .. | .parcelRemove .. | .ledgerAllocCreate .. | .ledgerAllocChange ..
  | .ledgerAllocFree .. | .basisLoad .. | .basisBind .. | .budgetSet .. | .stationSource .. | .stationSourceOff ..
  | .debugOpen .. | .laneFrameIngress .. | .stationMark .. | .stationInWord .. | .handoverEnd .. | .replicaSync ..
  | .stationTimeout .. | .basisReady .. | .linkControlWord .. | .goingIdleExpiry .. | .trainingRow .. | .losAssert ..
  | .lossOfLock .. | .refclkInputLost .. | .xdHeartbeatMiss .. | .mgmtWatchdogExpiry .. | .seqWatchdogExpiry ..
  | .laneWatchdogExpiry .. | .timebaseWatchdogExpiry .. | .deadmanExpiry .. | .supplyRailEvent .. | .vddAonRise ..
  | .resetNAssert .. | .resetNRelease .. | .resetReleaseEffective .. | .bootReady .. | .powerExitDone ..
  | .powerLoopTick .. | .hwThrottle .. | .thermtrip .. | .extest .. | .samplePreload .. | .idcode .. | .clamp ..
  | .highz .. | .bypass .. | .supplyRec .. | .tdState .. | .bootLog .. | .monumentRead .. | .attest ..
  | .lcTransition .. | .dbgTrace .. | .dbgMem .. | .dbgCtrl .. | .timebaseHeartbeatMiss .. | .refclkInputReturn ..
  | .powerStateEntryDone .. | .tapReset .. => true
  | _ => false

/-- The rows that may store to HBM: those that carry a generation to its result, whether a frame, an abort or the loss of a unit ends what it waits
for; that zero lines or regions, add or end a command's effect; that read whole lines of a region, and so repair what does not decode; reset the
part; and DBG_MEM. -/
def Instr.storesHbm : Instr → Bool
  | .genOpen .. | .ledgerSave .. | .normReadLocal .. | .normReadRead .. | .commandEffectEnd .. | .laneFrameIngress .. | .outputFrameEnd .. | .descriptorAgeDrop ..
  | .ledgerFrameReceive .. | .surveyFrame .. | .openFrame .. | .datumFrame .. | .doneFrame .. | .abortCommonFrame ..
  | .abortReqFrame .. | .resultFrame .. | .serveRequest .. | .layerGenerationOpen .. | .stationMark ..
  | .stationInWord .. | .handoverEnd .. | .fillDone .. | .scatterAdd .. | .patrolScrubLine .. | .mapoutDone ..
  | .ledgerAuditDone .. | .arraySelftestDone .. | .linkControlWord .. | .goingIdleExpiry .. | .trainingRow ..
  | .losAssert .. | .lossOfLock .. | .refclkInputLost .. | .xdHeartbeatMiss .. | .ledgerHeartbeatMiss ..
  | .seqWatchdogExpiry .. | .laneWatchdogExpiry .. | .timebaseWatchdogExpiry .. | .deadmanExpiry ..
  | .supplyRailEvent .. | .vddAonRise .. | .resetNAssert .. | .powerExitDone .. | .thermtrip .. | .dbgMem ..
  | .timebaseHeartbeatMiss .. | .powerStateEntryDone .. | .zeroingLine .. => true
  | _ => false

/-- The mailbox command a row takes, where it is a row of chapter 15. -/
def Instr.mailboxCommand : Instr → Option Command
  | .query c | .fieldbookRead c | .parcelCreate c | .setPlat c | .parcelRemove c | .platSet c | .traverseOpen c
  | .traverseClose c | .traverseCloseForce c | .genOpen c | .tallySet c | .tallySetFree c | .ledgerAllocCreate c
  | .ledgerAllocChange c | .ledgerAllocFree c | .ledgerLoad c | .ledgerLoadZero c | .ledgerSave c | .apply c
  | .applyDiscard c | .normReadLocal c | .normReadRead c | .serveArm c | .serveDisarm c | .basisLoad c | .basisBind c
  | .mapSelectImmediate c | .mapSelectAction c | .mapSelectDelete c | .routeStage c | .routeCommit c | .mirrorSet c
  | .mirrorSetPart c | .budgetSet c | .stationSource c | .stationSourceOff c | .memberRemap c | .admitRestartOnly c
  | .admitWarm c | .easementGrant c | .easementRevoke c | .fwStage c | .fwHandover c | .fwHandoverCancel c | .debugOpen c
  | .auditReadPool c | .auditReadLedger c | .auditReadScheduled c => some c
  | _ => none

end Sys2Proof

namespace Sys2Proof.Machine

/-- Every byte memory of the block is canonical. -/
def State.memoriesWf (s : State) : Bool :=
  s.hbmStacks.all (fun h => Memory.wf h.mem) && Memory.wf s.mailbox.ring

/-- Every unit of Tables 0.1, 1.1, 1.8 and 7.1 and of R298 has its place in the state: 128 ports and links, 32 lane chiplets,
30 ledger dies and stacks, 20 die groups, 8 basis slots, 64 mailbox pairs and two timebase dies. -/
def State.unitsOk (s : State) : Bool :=
  s.ports.length == 128 && s.links.length == 128 && s.chiplets.length == 32 && s.dies.length == 30 && s.hbmStacks.length == 30 &&
  s.groups.length == 20 && s.bases.length == 8 && s.mailbox.pairs.length == 64 && s.timebases.length == 2

/-- SV_COUNT is at most 64 (Table 17.3), LC_ERR at most 15 and the watchdog counts at most 255 (Table 17.13). -/
def Trust.inBounds (t : Trust) : Bool :=
  t.svCount ≤ 64 && t.lcErr ≤ 15 && t.wdogMgmt ≤ 255 && t.wdogSeq ≤ 255 && t.wdogLane ≤ 255 && t.wdogTb ≤ 255

/-- The invariant that every step keeps. -/
def State.inv (s : State) : Bool := s.memoriesWf && s.unitsOk && s.trust.inBounds

/-- The fuses only ever gain (R356, R360, Table 17.3): what manufacture fused stays, SV_COUNT does not fall, no vendor key loses
its revocation, the lifecycle goes forward only, OWNER_DIGEST stays from DEPLOYED on, and WIPE_DONE
stays. -/
structure Trust.Forward (a b : Trust) : Prop where
  serial : b.serial = a.serial
  stepping : b.stepping = a.stepping
  disabledPairs : b.disabledPairs = a.disabledPairs
  vendorDigest : b.vendorDigest = a.vendorDigest
  svCount : a.svCount ≤ b.svCount
  vendorRevoke : a.vendorRevoke &&& b.vendorRevoke = a.vendorRevoke
  lifecycle : a.fusedLifecycle.code ≤ b.fusedLifecycle.code
  ownerDigest : 2 ≤ a.fusedLifecycle.code → b.ownerDigest = a.ownerDigest
  wipeDone : a.wipeDone = true → b.wipeDone = true

/-- Parts of the state that only some rows write: the trust die, the scan cells, the debug session, supplies, reference clock,
placement, the timebase dies, the basis slots and the handles' serials. -/
structure State.Quiet (a b : State) : Prop where
  trust : b.trust = a.trust
  scan : b.scan = a.scan
  dbg : b.dbg = a.dbg
  supply : b.supply = a.supply
  refclk : b.refclk = a.refclk
  placement : b.placement = a.placement
  timebases : b.timebases = a.timebases
  bases : b.bases = a.bases
  serials : b.serials = a.serials

/-- A command row takes `c` in `s` and its checks accept it with `a`: the pair exists, the command stands in the slot whose turn it is
and is of the row's form, and neither the checks of R305 nor the opcode's own reject it (R304, R307, R326). -/
structure Accepts (form : Cmd → Bool) (own : Cmd → State → CmdVerdict) (c : Command) (s : State) (a : Accepted) : Prop where
  pair : c.pair < 64
  takes : s.takes c = true
  form : form (s.loaded c) = true
  checks : verdictOf (commonChecks (s.loaded c) s) (own (s.loaded c) s) = .accept a

/-- The state in which an accepted command's effect begins: it has been taken and journaled as PENDING, and the groups it gives work have had it
or begin their exit (R304, R307, R347). -/
def State.begun (s : State) (c : Command) (a : Accepted) : State :=
  let u := takeCommand c.pair s
  workPairs (u.acceptPairs a) (journalCommand (s.loaded c) (s.pair c.pair).cmdHead a u)

/-- A step does not stop. -/
def State.safe (s : State) : Prop := ∃ t, step s = .next t

/-- What an instruction of the test access port leaves that only reads: `ir` is selected, `bits` bits of `value` stand at TDO, and the
boundary-scan cells let go of the pins (R373). -/
def State.tapGives (s : State) (ir : Tap) (bits value : Nat) : State :=
  { s with trust := { s.trust with ir := ir, tdo := value % 2 ^ bits, tdoBits := bits }
           scan := { s.scan with driven := false, floating := false } }

/-- Where a debug access to a die does its work: the die's group runs, and has had work now (R347, R376). -/
def State.reached (s : State) (die : Nat) : State := match groupOfDieId die with
  | some g => s.setGroup g fun x => { x with workAt := s.clock }
  | none => s

/-- A running ledger die has a CONTROL frame of a subtype as its oldest delivered frame, and the frame is good: not tainted, its CRC right, its
reserved bits and its payload as Table 4.4 says (R94, R110, R346). -/
structure Delivers (die sub : Nat) (rx : Rx) (s : State) : Prop where
  low : die < 30
  head : headOf die (isControl sub) s = some rx
  runs : s.running (groupOfDie die) = true
  whole : rx.frame.taint = false ∧ Frame.crcOk rx.frame = true
  clear : reservedOk rx.frame = true ∧ controlPayloadOk rx.frame = true

/-- The state in which a ledger die acts on the frame it has taken (R237, R346). -/
def State.received (s : State) (die : Nat) (rx : Rx) : State :=
  takeHead die rx (s.setGroup (groupOfDie die) fun x => { x with workAt := s.clock })

end Sys2Proof.Machine
end

