-- ==== Sys2Proof/Certificates/Slice0/Obligations.lean ====
section
/-! DEFINITION. The statements of this row, each a Prop for the provers. They come from the numbered rules of spec/; where a
clause rests on a choice of the model, its docstring names the log entry. -/
open Sys2Proof Sys2Proof.Machine

/-! ### One step, the reset state, and what every step keeps -/

/-- R307 (of the queue and of a step, the model's own convention, log 2): a step runs the command at the front of the queue on
the state with the queue's rest; on an empty queue the model clock moves on by one nanosecond; no command changes the queue of
those behind it. -/
def Obligations.StepRunsTheFrontCommand : Prop :=
  (∀ c s rest, s.pending = c :: rest → step s = exec c { s with pending := rest }) ∧
  (∀ s, s.pending = [] → step s = .next { s with clock := s.clock + 1 }) ∧
  (∀ c s t, exec c s = .next t → t.pending = s.pending) ∧
  (∀ c (s t : State), step { s with pending := c :: s.pending } = .next t → t.pending = s.pending)

/-- R298, R117, R186, R337, R343, R361, R370 (Tables 5.2, 7.2, 8.2, 14.1, 14.2): after reset no object exists but parcel 0,
which holds pairs 0, 1 and 63; every pair is disabled, its ring registers 0; every stream is UNSET; every basis slot EMPTY; no
route is committed; the field book holds no entry and numbers from 1; nothing waits; and the invariant holds. -/
def Obligations.ResetLeavesAnEmptyPart : Prop :=
  State.reset.inv ∧ State.reset.pending = [] ∧ State.reset.traverses = [] ∧ State.reset.tallies = [] ∧ State.reset.regions = [] ∧
  State.reset.actions = [] ∧ State.reset.bindings = [] ∧ State.reset.parcels.map (·.1) = [0] ∧ State.reset.book.entries = [] ∧
  State.reset.book.next = 1 ∧ State.reset.book.oldest = 1 ∧ State.reset.counters = [] ∧ State.reset.boot.stage = .reset ∧
  !State.reset.routes.committed ∧ State.reset.mailbox.pairs.length = 64 ∧ State.reset.bases.all (fun b => b.state == .empty) ∧
  (∀ n, n < 64 → !(State.reset.pair n).enable ∧ !(State.reset.pair n).active ∧ (State.reset.pair n).cmdBase = 0 ∧
    (State.reset.pair n).cmdSizeLog2 = 0 ∧ (State.reset.pair n).cmpBase = 0 ∧ (State.reset.pair n).cmpSizeLog2 = 0 ∧
    ((State.reset.pair n).parcel = 0 ↔ n = 0 ∨ n = 1 ∨ n = 63)) ∧
  (∀ tb n, tb < 2 → n < 64 → (State.reset.streamAt tb n).state = .unset)

/-- Every step keeps the block's invariant (Safety.lean): each byte memory canonical, each unit of the spec (Tables 0.1, 1.1,
1.8, 7.1, R298) in its place, and the trust die's counts within their widths (Tables 17.3, 17.13). The canonical form is the
model's own (log 11). -/
def Obligations.EveryStepKeepsTheInvariant : Prop :=
  ∀ s t, s.inv → step s = .next t → t.inv

/-- R356, R360 (Tables 17.2, 17.3): no step, of whatever command in whatever state, takes a fuse back: SERIAL, stepping and the
disabled pairs stay, SV_COUNT and the revocations only grow, the lifecycle goes forward, OWNER_DIGEST stays from DEPLOYED on,
and a done wipe stays done. -/
def Obligations.FusesOnlyGain : Prop :=
  ∀ s t, step s = .next t → Trust.Forward s.trust t.trust

/-- Tables 0.1, 1.1, 1.2, 16.1: a command whose operands name units that exist runs in every state; one that names a unit the
part does not have is stopped by name (the stop is the model's, log 1). -/
def Obligations.WellFormedCommandsRun : Prop :=
  (∀ c s, c.wf → ∃ t, exec c s = .next t) ∧
  (∀ c s, c.wf = false → exec c s = .fault .noSuchUnit)

/-- R304, R305, R307, R316, R326: a row that does not find its command in the slot whose turn it is does nothing. A command that
fails a check of R305 completes at once with the status of the first one that fails and its slot is released: the 64 bytes of
the completion go to the pair's ring, and to its in-band source. An accepted command takes the next sequence number, PENDING, in
the field book and runs; the command index moves on by one. -/
def Obligations.CommandsSettleByTheirChecks : Prop :=
  (∀ i (c : Command) (s : State), Instr.mailboxCommand i = some c → c.pair < 64 → !s.takes c → exec i s = .next s) ∧
  (∀ i (c : Command) (s : State) k x, Instr.mailboxCommand i = some c → c.pair < 64 → s.takes c → (commonChecks (s.loaded c) s)[k]? = some x → x.1 →
    (∀ (j : Nat), j < k → ∀ (y : Bool × Nat), (commonChecks (s.loaded c) s)[j]? = some y → y.1 = false) →
    exec i s = .next s ∨ exec i s = .next (completeAtOnce (s.loaded c) (s.pair c.pair).cmdHead x.2 0 0 (takeCommand c.pair s))) ∧
  (∀ (d : Cmd) (i : BitVec 16) st r v (s : State) p bs u, s.mailbox.failed = false → p = s.pair d.pair →
    bs = Completion.bytes { kind := 1, status := st, opcode := d.opcode, cmdIndex := i.toNat, parcel := d.parcel, tag := d.tag.toNat,
                            version := v.toNat, result := r } ((p.cmpTail.toNat / p.cmpSlots) % 2 == 0) p.loss →
    u = (if ringAt p.cmpBase + 64 * (p.cmpTail.toNat % p.cmpSlots) + 64 ≤ ringMemory then s.setMailbox (fun m =>
      { m with ring := Memory.write (ringAt p.cmpBase + 64 * (p.cmpTail.toNat % p.cmpSlots)) bs m.ring }) else s).setPair d.pair
      (fun p => { p with cmpTail := p.cmpTail + 1, loss := false, cmpHead := if p.inBand then p.cmpTail + 1 else p.cmpHead }) →
    completeAtOnce d i st r v s = if p.inBand then mdSend 2 p.ibPart p.ibPort d.pair 1 0 0 bs u else u) ∧
  (∀ (s : State) (c : Command) (a : Accepted), c.pair < 64 → s.mailbox.pairs.length = 64 → ∃ (e : FbEntry) (r : Running), e.seq = s.book.next ∧ e.status = 0xFF ∧ e.code = (s.loaded c).opcode ∧
    e.parcel = (s.loaded c).parcel ∧ (s.begun c a).book.entries.getLast? = some e ∧ (s.begun c a).book.next = s.book.next + 1 ∧
    r.seq = s.book.next ∧ r.pair = c.pair ∧ r.opcode = (s.loaded c).opcode ∧ (s.begun c a).mailbox.running = s.mailbox.running ++ [r] ∧
    ((s.begun c a).pair c.pair).cmdHead = (s.pair c.pair).cmdHead + 1 ∧ (s.begun c a).traverses = s.traverses ∧
    (s.begun c a).regions = s.regions ∧ (s.begun c a).sent = s.sent)

/-- The frame of every row (R337, R356, R373, R376 and the rules of each row): where a row gives a next state, a row outside
`stirs` leaves the trust die, the scan cells, the debug session, the supplies, the reference clock, the placement, the timebase
dies, the basis slots and the handles' serials as they are; a row outside `storesHbm` leaves every byte of every stack as it
reads. -/
def Obligations.RowsLeaveTheRest : Prop :=
  (∀ i s t, Instr.stirs i = false → exec i s = .next t → State.Quiet s t) ∧
  (∀ i s t, Instr.storesHbm i = false → exec i s = .next t →
    ∀ die x, Memory.read (t.stack die).mem x = Memory.read (s.stack die).mem x)

/-! ### Arithmetic -/

/-- R36 (Table 2.4): the sum of two LX96 values adds N in 96 bits whatever the classes, and joins the classes by the table; the
class of a sum is a function of the set of classes among its terms; the sum is associative and commutative, and no regrouping or
reordering changes a reduction. -/
def Obligations.LxSumsFollowR36 : Prop :=
  (∀ a b : Lx, (a.add b).n = BitVec.ofInt 96 (a.n.toInt + b.n.toInt)) ∧
  (∀ a b : Lx, ∀ e ∈ ([(.finite, .finite, .finite), (.finite, .posInf, .posInf), (.finite, .negInf, .negInf), (.finite, .nan, .nan),
      (.posInf, .finite, .posInf), (.posInf, .posInf, .posInf), (.posInf, .negInf, .nan), (.posInf, .nan, .nan),
      (.negInf, .finite, .negInf), (.negInf, .posInf, .nan), (.negInf, .negInf, .negInf), (.negInf, .nan, .nan),
      (.nan, .finite, .nan), (.nan, .posInf, .nan), (.nan, .negInf, .nan), (.nan, .nan, .nan)] : List (Cls × Cls × Cls)),
    a.cls = e.1 → b.cls = e.2.1 → (a.add b).cls = e.2.2) ∧
  (∀ (x : Lx) xs cs, cs = (x :: xs).map (·.cls) → (xs.foldl Lx.add x).cls =
    (if Cls.nan ∈ cs ∨ (Cls.posInf ∈ cs ∧ Cls.negInf ∈ cs) then Cls.nan else if Cls.posInf ∈ cs then Cls.posInf
      else if Cls.negInf ∈ cs then Cls.negInf else Cls.finite)) ∧
  (∀ a b c : Lx, (a.add b).add c = a.add (b.add c)) ∧ (∀ a b : Lx, a.add b = b.add a) ∧
  (∀ (x : Lx) (xs ys : List Lx), xs.Perm ys → xs.foldl Lx.add x = ys.foldl Lx.add x)

/-- R40, R41: where no N leaves 96 bits, the I terms of two chains sum, mod p, to the I term of their sum, element by element;
and a change of one element by a d that is not 0 mod p changes the I term. -/
def Obligations.ClosureFollowsTheSums : Prop :=
  (∀ first (xs ys : List Lx), xs.length = ys.length →
    (∀ e ∈ xs.zip ys, -(2 ^ 95 : Int) ≤ e.1.n.toInt + e.2.n.toInt ∧ e.1.n.toInt + e.2.n.toInt < (2 ^ 95 : Int)) →
    iTerm first ((xs.zip ys).map fun e => e.1.add e.2) = (iTerm first xs + iTerm first ys) % closureP) ∧
  (∀ first (xs zs : List Lx) (x y : Lx), ¬ (y.n.toInt - x.n.toInt) % (closureP : Int) = 0 →
    iTerm first (xs ++ x :: zs) ≠ iTerm first (xs ++ y :: zs))

/-- R48: SR-10 is ten rounds of the network of the rule, with its constants and keys, and a permutation of the counter space for
every seed: distinct counters never give the same four words, and every four words come from a counter. -/
def Obligations.Sr10FollowsR48 : Prop :=
  (∀ (seed : BitVec 64) (gen tensor : BitVec 32) (idx : BitVec 64), ∃ x : Nat → BitVec 32 × BitVec 32 × BitVec 32 × BitVec 32,
    x 0 = (idx.setWidth 32, (idx >>> 32).setWidth 32, tensor, gen) ∧ x 10 = sr10 seed gen tensor idx ∧
    ∀ (r : Nat) (c : BitVec 32), (r, c) ∈ ([(0, 0x6A1D3C85), (1, 0x2F94B71E), (2, 0xC3E05A29), (3, 0x8B57E064), (4, 0x1DC294F3),
        (5, 0x74A80B6D), (6, 0xE619CF42), (7, 0x59F32DB8), (8, 0xA03E76C1), (9, 0x3B85E91A)] : List (Nat × BitVec 32)) →
      ∀ k0 k1 ka kb f0 f1 : BitVec 32, k0 = seed.setWidth 32 → k1 = (seed >>> 32).setWidth 32 →
        ka = (if r % 2 = 1 then k1 else k0) → kb = (if r % 2 = 1 then k0 else k1) →
        f0 = (((x r).1 + ka).rotateLeft 7 ^^^ ((x r).1.rotateLeft 23 + c)) →
        f1 = (((x r).2.2.1 + kb).rotateLeft 11 ^^^ ((x r).2.2.1.rotateLeft 17 + ~~~c)) →
        x (r + 1) = ((x r).2.1 ^^^ f0, (x r).2.2.1, (x r).2.2.2 ^^^ f1, (x r).1)) ∧
  (∀ (seed : BitVec 64) g t i g' t' i', sr10 seed g t i = sr10 seed g' t' i' → g = g' ∧ t = t' ∧ i = i') ∧
  (∀ (seed : BitVec 64) w, ∃ g t i, sr10 seed g t i = w)

/-- R50: stochastic rounding to BF16. A NaN gives the canonical one, an infinity stays; a finite value is cut to its upper 16
bits, or to the next magnitude away from zero for as many of the 65,536 values of the word's low half as the discarded bits say;
±0 stays, and a carry into exponent 0xFF gives ±inf. -/
def Obligations.StochasticRoundingFollowsR50 : Prop :=
  ∀ (f rnd : BitVec 32) (m sgn up : Nat), m = f.toNat % 2 ^ 31 → sgn = f.toNat / 2 ^ 31 * 0x8000 → up = m / 65536 →
    (0x7F800000 < m → srBf16 f rnd = 0x7FC0) ∧
    (m = 0x7F800000 → (srBf16 f rnd).toNat = sgn + 0x7F80) ∧
    (m < 0x7F800000 →
      (srBf16 f rnd).toNat = sgn + (m + rnd.toNat % 65536) / 65536 ∧
      ((srBf16 f rnd).toNat = sgn + up ∨ (srBf16 f rnd).toNat = sgn + up + 1) ∧
      ((List.range 65536).filter fun r => (srBf16 f (BitVec.ofNat 32 r)).toNat == sgn + up + 1).length = m % 65536 ∧
      (m % 65536 = 0 → (srBf16 f rnd).toNat = sgn + up) ∧
      (m = 0 → srBf16 f rnd = if sgn = 0 then 0 else 0x8000) ∧
      (up = 0x7F7F → 65536 ≤ m % 65536 + rnd.toNat % 65536 → (srBf16 f rnd).toNat = sgn + 0x7F80))

/-- R42, R43: a block of 32 LX96 values in its canonical form decodes to the same 32 values, residues and classes with them, and
leaves the bytes that follow it. -/
def Obligations.PackedBlocksDecodeBack : Prop :=
  ∀ (xs : List Lx) (rest : Bytes), xs.length = 32 → unpackBlock (packBlock xs ++ rest) = some (xs, rest)

/-! ### Mailbox commands: what an accepted command begins -/

/-- R370, R371, R190, R193 (Tables 15.6, 8.1): PARCEL_CREATE, SET_PLAT and REMOVE write the parcel's plat and grant the pairs of
the mask, PLAT_SET writes the phase plat with its version raised, and MAP_SELECT selects one, creates an action or deletes it. -/
def Obligations.ParcelCommandsComplete : Prop :=
  (∀ c s a, Accepts (fun d => d.opcode = 3 ∧ (d.arg 0 2 = 0 ∨ d.arg 0 2 = 3)) parcelVerdict c s a →
    exec (.parcelCreate c) s = .next (grantPairs (s.loaded c).target (s.loaded c).pairMask
      { s.begun c a with parcels := tset (s.loaded c).target { plat := platOf (s.loaded c).buffer } s.parcels })) ∧
  (∀ c s a, Accepts (fun d => d.opcode = 3 ∧ d.arg 0 2 = 1) parcelVerdict c s a →
    exec (.setPlat c) s = .next (settleDebug (grantPairs (s.loaded c).target (s.loaded c).pairMask
      ((s.begun c a).setParcel (s.loaded c).target fun p => { p with plat := platOf (s.loaded c).buffer, version := p.version + 1 })))) ∧
  (∀ c s a, Accepts (fun d => d.opcode = 3 ∧ d.arg 0 2 = 2) parcelVerdict c s a →
    ∃ t, t = grantPairs (s.loaded c).target 0 (s.begun c a) ∧
      exec (.parcelRemove c) s = .next (settleDebug { t with parcels := tdel (s.loaded c).target t.parcels })) ∧
  (∀ c s a, Accepts (fun d => d.opcode = 4) phaseVerdict c s a →
    ∃ x : PhasePlat, x = (((s.parcel (s.loaded c).parcel).getD {}).phases).getD ((s.loaded c).arg 0 2) {} ∧
      exec (.platSet c) s = .next ((s.begun c a).setParcel (s.loaded c).parcel fun p => { p with
          phases := p.phases.set ((s.loaded c).arg 0 2) { bearings := bearingsOf (s.loaded c).buffer, version := x.version + 1, selects := x.selects } })) ∧
  (∀ c s a, Accepts (fun d => d.opcode = 0x10 ∧ (d.arg 0 2 = 0 ∨ d.arg 0 2 = 3)) selectVerdict c s a →
    exec (.mapSelectImmediate c) s = .next (selectPlat (s.loaded c).parcel ((s.loaded c).arg 4 2) (s.begun c a))) ∧
  (∀ c s a, Accepts (fun d => d.opcode = 0x10 ∧ d.arg 0 2 = 1) selectVerdict c s a →
    exec (.mapSelectAction c) s = .next (addAction (s.loaded c).parcel (s.loaded c).trigger
      (.plat (s.loaded c).parcel ((s.loaded c).arg 4 2)) (s.begun c a))) ∧
  (∀ c s a, Accepts (fun d => d.opcode = 0x10 ∧ d.arg 0 2 = 2) selectVerdict c s a →
    ∃ x, s.action ((s.loaded c).word 32) = some x ∧ exec (.mapSelectDelete c) s = .next (dropAction x.ordinal (s.begun c a)))

/-- R54, R55, R58, R61, R390, R391 (Table 15.4): TRAVERSE_OPEN creates the traverse or changes its context from FIRST_GEN on,
TRAVERSE_CLOSE closes it, with FORCE aborting what is open, GEN_OPEN opens the next generation, and MEMBER_REMAP and WARM_ADMIT
create the action that changes the member, raising the version; RESTART_ONLY changes nothing. R81 (Table 15.4): TALLY_SET
creates a tally or changes one that no member has arrived at, and with FREE frees it. -/
def Obligations.TraverseAndTallyCommandsComplete : Prop :=
  ((∀ c s a, Accepts (fun d => d.opcode = 5) openVerdict c s a → s.traverse (ctxIndex (s.loaded c).buffer) = none →
      exec (.traverseOpen c) s = .next { s.begun c a with
        traverses := tset (ctxIndex (s.loaded c).buffer) { ctx := ctxOf (s.loaded c).buffer, nextGen := ctxNextGen (s.loaded c).buffer,
                                                           oldestGen := ctxNextGen (s.loaded c).buffer } s.traverses }) ∧
    (∀ c s a v, Accepts (fun d => d.opcode = 5) openVerdict c s a → s.traverse (ctxIndex (s.loaded c).buffer) = some v →
      exec (.traverseOpen c) s = .next ((s.begun c a).setTraverse (ctxIndex (s.loaded c).buffer) fun v =>
        { v.change (ctxOf (s.loaded c).buffer) ((s.loaded c).word 0) with version := v.version + 1 })) ∧
    (∀ c s a, Accepts (fun d => d.opcode = 6 ∧ !d.flag 12) closeVerdict c s a →
      exec (.traverseClose c) s = .next (closeTraverse ((s.loaded c).arg 0 12) false (s.begun c a))) ∧
    (∀ c s a, Accepts (fun d => d.opcode = 6 ∧ d.flag 12) closeVerdict c s a →
      exec (.traverseCloseForce c) s = .next (closeTraverse ((s.loaded c).arg 0 12) true (s.begun c a))) ∧
    (∀ c s a, Accepts (fun d => d.opcode = 7) genOpenVerdict c s a →
      exec (.genOpen c) s = .next (openOne ((s.loaded c).arg 0 12) .explicit
        (if (s.loaded c).flag 12 then some (signedOf 9 ((s.loaded c).arg 16 9)) else none) none (s.begun c a))) ∧
    (∀ c s a, Accepts (fun d => d.opcode = 0x16) memberVerdict c s a →
      exec (.memberRemap c) s = .next (addAction (s.loaded c).parcel (s.loaded c).trigger
        (.remap ((s.loaded c).arg 0 12) ((s.loaded c).arg 16 8) ((s.loaded c).arg 24 8) ((s.loaded c).word 64))
        ((s.begun c a).setTraverse ((s.loaded c).arg 0 12) fun v => { v with version := v.version + 1 }))) ∧
    (∀ c s a, Accepts (fun d => d.opcode = 0x17 ∧ !d.flag 32) memberVerdict c s a →
      exec (.admitRestartOnly c) s = .next (s.begun c a)) ∧
    (∀ c s a, Accepts (fun d => d.opcode = 0x17 ∧ d.flag 32) memberVerdict c s a →
      exec (.admitWarm c) s = .next (addAction (s.loaded c).parcel (s.loaded c).trigger
        (.warmAdmit ((s.loaded c).arg 0 12) ((s.loaded c).arg 16 8) ((s.loaded c).arg 24 8) ((s.loaded c).word 64))
        ((s.begun c a).setTraverse ((s.loaded c).arg 0 12) fun v => { v with version := v.version + 1 })))) ∧
  ((∀ c s a, Accepts (fun d => d.opcode = 8 ∧ !d.flag 12) tallyVerdict c s a → s.tally ((s.loaded c).arg 0 12) = none →
      exec (.tallySet c) s = .next { s.begun c a with tallies := tset ((s.loaded c).arg 0 12) (tallyOf (s.loaded c).buffer) s.tallies }) ∧
    (∀ c s a y, Accepts (fun d => d.opcode = 8 ∧ !d.flag 12) tallyVerdict c s a → s.tally ((s.loaded c).arg 0 12) = some y →
      exec (.tallySet c) s = .next (changeTally ((s.loaded c).arg 0 12) (tallyOf (s.loaded c).buffer) (s.begun c a))) ∧
    (∀ c s a, Accepts (fun d => d.opcode = 8 ∧ d.flag 12) tallyVerdict c s a →
      exec (.tallySetFree c) s = .next { s.begun c a with tallies := tdel ((s.loaded c).arg 0 12) s.tallies }))

/-- R129-R140, R148, R160, R161 (Table 15.5): LEDGER_ALLOC creates, changes or frees a region; LEDGER_LOAD, LEDGER_SAVE, APPLY
and EASEMENT_GRANT take the region of the handle until their effect ends; APPLY with DISCARD drops the pending slot of the
generation. The lines a LEDGER_SAVE that passes its checks will read are decoded first (R268). -/
def Obligations.LedgerCommandsComplete : Prop :=
  (∀ c s a xs, Accepts (fun d => d.opcode = 9 ∧ !d.flag 32 ∧ d.arg 0 32 = 0) allocVerdict c s a →
    allocExtents s ((regionOf (s.loaded c).buffer).needs s) = .inl xs →
    exec (.ledgerAllocCreate c) s = .next (State.draw 1 { s.begun c a with
      regions := tset s.freshSlot { regionOf (s.loaded c).buffer with serial := s.nextSerial s.freshSlot, extents := xs } s.regions
      serials := tset s.freshSlot (s.nextSerial s.freshSlot) s.serials })) ∧
  (∀ c s a, Accepts (fun d => d.opcode = 9 ∧ !d.flag 32 ∧ d.arg 0 32 ≠ 0) allocVerdict c s a →
    ∃ x, s.regionAt ((s.loaded c).arg 0 32) = some x ∧
      exec (.ledgerAllocChange c) s = .next (takeRegion x.1 s.book.next
        ((s.begun c a).setRegion x.1 fun r => r.tuned (regionOf (s.loaded c).buffer)))) ∧
  (∀ c s a, Accepts (fun d => d.opcode = 9 ∧ d.flag 32) allocVerdict c s a →
    ∃ x, s.regionAt ((s.loaded c).arg 0 32) = some x ∧
      exec (.ledgerAllocFree c) s = .next (freeExtents x.2.extents { s.begun c a with regions := tdel x.1 s.regions })) ∧
  (∀ c s a x xs, Accepts (fun d => d.opcode = 0x0A ∧ !d.flag 34) loadVerdict c s a → s.regionAt ((s.loaded c).arg 0 32) = some x →
    allocExtents s (s.reloadNeeds x.2 ((s.loaded c).arg 32 2) ((s.loaded c).arg 64 28) ((s.loaded c).arg 96 28)) = .inl xs →
      exec (.ledgerLoad c) s = .next (takeRegion x.1 s.book.next
        ((s.begun c a).setRegion x.1 fun r => { r with extents := r.extents ++ xs }))) ∧
  (∀ c s a x xs, Accepts (fun d => d.opcode = 0x0A ∧ d.flag 34) loadVerdict c s a → s.regionAt ((s.loaded c).arg 0 32) = some x →
    allocExtents s (s.reloadNeeds x.2 ((s.loaded c).arg 32 2) ((s.loaded c).arg 64 28) ((s.loaded c).arg 96 28)) = .inl xs →
      exec (.ledgerLoadZero c) s = .next (takeRegion x.1 s.book.next
        ((s.begun c a).setRegion x.1 fun r => { r with extents := r.extents ++ xs }))) ∧
  (∀ c s a u, u = decodeSave c s → Accepts (fun d => d.opcode = 0x0B) saveVerdict c u a →
    ∃ x, u.regionAt ((u.loaded c).arg 0 32) = some x ∧
      exec (.ledgerSave c) s = .next (takeRegion x.1 u.book.next
        (if (u.loaded c).arg 32 2 = 3 ∧ x.2.accType = 1 ∧ x.2.addedSinceSave then
          bumpNondet x.2.parcel ((u.begun c a).setRegion x.1 fun r => { r with addedSinceSave := false })
        else u.begun c a))) ∧
  (∀ c s a, Accepts (fun d => d.opcode = 0x0C ∧ !d.flag 32) applyVerdict c s a →
    ∃ x, s.regionAt ((s.loaded c).arg 0 32) = some x ∧ exec (.apply c) s = .next (takeRegion x.1 s.book.next (s.begun c a))) ∧
  (∀ c s a x k, Accepts (fun d => d.opcode = 0x0C ∧ d.flag 32) applyVerdict c s a → s.regionAt ((s.loaded c).arg 0 32) = some x →
    x.2.slotOf ((s.loaded c).word 64) = some k →
      exec (.applyDiscard c) s = .next ((takeRegion x.1 s.book.next (s.begun c a)).setRegion x.1 fun r => r.putSlot k.1 none)) ∧
  (∀ c s a, Accepts (fun d => d.opcode = 0x18 ∧ !d.flag 48) easementVerdict c s a →
    ∃ x, s.regionAt ((s.loaded c).arg 0 32) = some x ∧
      exec (.easementGrant c) s = .next (takeRegion x.1 s.book.next ((s.begun c a).setRegion x.1 fun r =>
        { r with grantees := if r.grantees.contains ((s.loaded c).arg 32 16) then r.grantees else r.grantees ++ [(s.loaded c).arg 32 16] }))) ∧
  (∀ c s a, Accepts (fun d => d.opcode = 0x18 ∧ d.flag 48) easementVerdict c s a →
    ∃ x, s.regionAt ((s.loaded c).arg 0 32) = some x ∧
      exec (.easementRevoke c) s = .next (takeRegion x.1 s.book.next ((s.begun c a).setRegion x.1 fun r =>
        { r with grantees := r.grantees.filter (· ≠ (s.loaded c).arg 32 16) })))

/-- R153, R154, R159, R165, R180, R181 (Tables 15.4, 15.5): NORM_READ contributes the local sum or frees the accumulator it
reads, SERVE_ARM creates the PREFETCH action or deletes it, and BASIS_LOAD makes the slot LOADING or binds it to a traverse. -/
def Obligations.NormServeBasisCommandsComplete : Prop :=
  (∀ c s a, Accepts (fun d => d.opcode = 0x0D ∧ !d.flag 0) normVerdict c s a →
    ∃ rs, rs = s.normSet (s.loaded c).parcel ((s.loaded c).arg 4 4) ∧
      exec (.normReadLocal c) s = .next (contributeNorm ((s.loaded c).arg 16 12) ((s.loaded c).word 32) (localNorm rs)
        ((oldestSlots rs).any (·.lostNorm)) (s.begun c a))) ∧
  (∀ c s a, Accepts (fun d => d.opcode = 0x0D ∧ d.flag 0) normVerdict c s a →
    ∃ v k, s.traverse ((s.loaded c).arg 16 12) = some v ∧ v.kept.find? (fun e => e.1 = (s.loaded c).word 32 ∧ e.2.2.chain = 0 ∧ !s.fillFails e.2.2) = some k ∧
      exec (.normReadRead c) s = .next (dropKept ((s.loaded c).arg 16 12) ((s.loaded c).word 32) k.2.2 (s.begun c a))) ∧
  (∀ c s a, Accepts (fun d => d.opcode = 0x0E ∧ !d.flag 12) serveVerdict c s a →
    exec (.serveArm c) s = .next (addAction (s.loaded c).parcel (s.loaded c).trigger
      (.prefetch ((s.loaded c).arg 0 12) ((s.loaded c).arg 16 4) ((s.loaded c).flag 13) ((s.loaded c).arg 32 16)) (s.begun c a))) ∧
  (∀ c s a, Accepts (fun d => d.opcode = 0x0E ∧ d.flag 12) serveVerdict c s a →
    exec (.serveDisarm c) s = .next (dropAction ((s.loaded c).word 64) (s.begun c a))) ∧
  (∀ c s a, Accepts (fun d => d.opcode = 0x0F ∧ !d.flag 0) basisVerdict c s a →
    exec (.basisLoad c) s = .next (startBasis (s.loaded c).parcel ((s.loaded c).arg 1 3) (s.begun c a))) ∧
  (∀ c s a, Accepts (fun d => d.opcode = 0x0F ∧ d.flag 0) basisVerdict c s a →
    exec (.basisBind c) s = .next (bind ((s.loaded c).arg 16 12) ((s.loaded c).arg 1 3) ((s.loaded c).flag 28) ((s.loaded c).flag 29)
      ((s.loaded c).word 32) (s.begun c a)))

/-- R118, R214, R223, R225, R233, R245, R349-R351, R396 (Table 15.6): ROUTE_STAGE and ROUTE_COMMIT stage and commit destination
entries, MIRROR_SET writes a session or the part settings, BUDGET_SET writes the budgets, and STATION_SOURCE writes the stream
on both timebase dies; a stream that enters UNSET or OFF numbers its marks anew. -/
def Obligations.RouteMirrorBudgetStationCommandsComplete : Prop :=
  (∀ c s a, Accepts (fun d => d.opcode = 0x11) stageVerdict c s a →
    exec (.routeStage c) s = .next ((s.begun c a).setRoutes fun r => { r with
      version := r.version + 1
      staged := (stagedWords ((s.loaded c).arg 16 11) (s.loaded c).buffer).zipIdx.foldl
        (fun l e => tset ((s.loaded c).arg 0 16 + e.2) (destOf e.1) l) (if (s.loaded c).flag 27 then [] else r.staged) })) ∧
  (∀ c s a, Accepts (fun d => d.opcode = 0x12) commitVerdict c s a →
    exec (.routeCommit c) s = .next (joinNew (s.begun c a) ((s.begun c a).setRoutes Routes.commit))) ∧
  (∀ c s a, Accepts (fun d => d.opcode = 0x13 ∧ d.arg 0 4 ≠ 15) mirrorVerdict c s a →
    exec (.mirrorSet c) s = .next { s.begun c a with monitor := { s.monitor with
      sessions := s.monitor.sessions.modify ((s.loaded c).arg 0 4) fun o =>
        { mirrorOf (leNat ((s.loaded c).buffer.take 16)) with copies := o.copies, drops := o.drops, version := o.version + 1 } } }) ∧
  (∀ c s a, Accepts (fun d => d.opcode = 0x13 ∧ d.arg 0 4 = 15) mirrorVerdict c s a →
    exec (.mirrorSetPart c) s = .next { s.begun c a with monitor := { s.monitor with
      analysisPort := (s.loaded c).arg 8 8, limit := (s.loaded c).arg 32 32, collectorPart := (s.loaded c).arg 64 16
      collectorPort := (s.loaded c).arg 80 8, periodUs := (s.loaded c).arg 96 32, version := s.monitor.version + 1, lastAt := s.clock } }) ∧
  (∀ c s a, Accepts (fun d => d.opcode = 0x14) budgetVerdict c s a →
    ∃ d gs t u, d = s.loaded c ∧ gs = (List.range 20).filter (fun g => d.flag g) ∧
      t = (s.begun c a).setParcel d.parcel (fun p => { p with
        version := p.version + 1
        budgets := gs.foldl (fun l g => if d.arg 32 32 == 0xFFFFFFFF then tdel g l
          else tset g { ns := d.arg 32 32, stream := if d.flag 70 then some (d.arg 64 6) else none } l) p.budgets }) ∧
      u = (if d.flag 70 ∧ d.arg 32 32 ≠ 0xFFFFFFFF ∧ !s.hasWake d.parcel (d.arg 64 6) then
        addAction d.parcel (wakeTrigger (d.arg 64 6)) (.wake d.parcel (d.arg 64 6)) t else t) ∧
      exec (.budgetSet c) s = .next (settleDebug (forEach gs exitIfDeep (dropWakes d.parcel u)))) ∧
  (∀ c s a, Accepts (fun d => d.opcode = 0x15 ∧ !d.flag 7) sourceVerdict c s a →
    ∃ n t u v, n = (s.loaded c).arg 0 6 ∧ t = setStream n (sourceStream (s.loaded c)) (s.begun c a) ∧
      u = (if (t.stream n).state = .unset ∨ (t.stream n).state = .off then renewStream n t else t) ∧
      v = (if (s.stream n).state = .hold then stationEvent n (u.stream n) u else u) ∧
      exec (.stationSource c) s = .next (if (s.loaded c).flag 6 then forEach (v.boundGroups n) exitIfDeep v else u)) ∧
  (∀ c s a, Accepts (fun d => d.opcode = 0x15 ∧ d.flag 7) sourceVerdict c s a →
    ∃ n, n = (s.loaded c).arg 0 6 ∧ exec (.stationSourceOff c) s = .next (renewStream n
      (setStream n (fun x => { x with state := .off, version := x.version + 1 }) (s.begun c a))))

/-- R294, R364, R365, R374, R384 (Table 15.6): FW_STAGE raises the slot's version and stages, FW_HANDOVER creates the HANDOVER
action or deletes it, DEBUG_OPEN sets the level (and, at PARCEL level, the subject), and AUDIT_READ starts an audit or creates
the action that will. -/
def Obligations.FirmwareDebugAuditCommandsComplete : Prop :=
  (∀ c s a, Accepts (fun d => d.opcode = 0x19) fwStageVerdict c s a →
    exec (.fwStage c) s = .next { s.begun c a with boot := s.boot.raiseSlot ((s.loaded c).flag 0) }) ∧
  (∀ c s a, Accepts (fun d => d.opcode = 0x1A ∧ !d.flag 0) handoverVerdict c s a →
    exec (.fwHandover c) s = .next (addAction (s.loaded c).parcel (s.loaded c).trigger (.handover (bit (!s.boot.slotB)) s.book.next)
      { s.begun c a with boot := s.boot.raiseSlot (!s.boot.slotB) })) ∧
  (∀ c s a, Accepts (fun d => d.opcode = 0x1A ∧ d.flag 0) handoverVerdict c s a →
    exec (.fwHandoverCancel c) s = .next (dropAction ((s.loaded c).word 32) { s.begun c a with boot := s.boot.raiseSlot (!s.boot.slotB) })) ∧
  (∀ c s a, Accepts (fun d => d.opcode = 0x1B) debugVerdict c s a → (s.loaded c).arg 0 2 ≠ 2 →
    exec (.debugOpen c) s = .next { closeDebug (s.begun c a) with dbg := { (closeDebug (s.begun c a)).dbg with
      level := levelOf ((s.loaded c).arg 0 2) } }) ∧
  (∀ c s a, Accepts (fun d => d.opcode = 0x1B) debugVerdict c s a → (s.loaded c).arg 0 2 = 2 →
    exec (.debugOpen c) s = .next { s.begun c a with dbg := { s.dbg with
      level := .parcel, subject := (s.loaded c).arg 16 16, notAfter := bitsAt (leNat ((s.loaded c).buffer.take 128)) 192 64
      subjectVersion := ((s.parcel ((s.loaded c).arg 16 16)).map (·.version)).getD 0 } }) ∧
  (∀ c s a, Accepts (fun d => d.opcode = 0x1C ∧ !d.flag 0 ∧ !d.flag 2) auditVerdict c s a →
    exec (.auditReadPool c) s = .next ((s.begun c a).setXbar fun x => { x with
      walk := some { startedAt := s.clock, before := s.xbar.allocCount, reclaim := (s.loaded c).flag 1, seq := some s.book.next, pair := (s.loaded c).pair,
                     addr := (s.loaded c).addr, ring := (s.loaded c).ring, busOk := (s.loaded c).dataOk } })) ∧
  (∀ c s a, Accepts (fun d => d.opcode = 0x1C ∧ d.flag 0 ∧ !d.flag 2) auditVerdict c s a →
    ∃ t, startLedgerAudit ((s.loaded c).arg 32 32) (some s.book.next) (s.loaded c).pair (s.loaded c).addr (s.loaded c).ring
        (s.loaded c).dataOk (s.begun c a) = some t ∧ exec (.auditReadLedger c) s = .next t) ∧
  (∀ c s a, Accepts (fun d => d.opcode = 0x1C ∧ d.flag 2) auditVerdict c s a →
    exec (.auditReadScheduled c) s = .next (addAction (s.loaded c).parcel (s.loaded c).trigger
      (.audit (!(s.loaded c).flag 0) ((s.loaded c).flag 1) ((s.loaded c).arg 32 32) (s.loaded c).pair (s.loaded c).addr (s.loaded c).ring
        (s.loaded c).len) (s.begun c a)))

/-! ### Registers, rings and MANAGEMENT frames -/

/-- R299, R309, R310, R300 (Tables 14.1, 14.2): who may write a pair's registers writes them. An ENABLE of a pair that is not
active and whose rings R299 takes makes it active; an ENABLE of 0 stops an active pair; a doorbell moves CMD_TAIL or CMP_HEAD;
CMD_RING and every other register are written while ENABLE is 0. -/
def Obligations.RegisterWritesComplete : Prop :=
  (∀ a n v s u w, accessOk a → n < 64 → v.getLsbD 0 → s.reachable a → !s.seventeenth (whoOf a) → !(s.pair n).active → !(s.pair n).enable →
    u = touchZero (whoOf a) s → w = (if 48 ≤ n ∧ v.getLsbD 1 ≠ (s.pair n).inBand then u.setPair n (fun p => { p with inBand := v.getLsbD 1 }) else u) →
    w.enableOk n →
    exec (.pairEnable a n v) s = .next (activatePair n (whoOf a) w)) ∧
  (∀ a n v s, accessOk a → 0 < n → n < 64 → v = 0 → s.reachable a → !s.seventeenth (whoOf a) → s.owns (whoOf a) n → (s.pair n).enable →
    (s.pair n).inBand = false → s.owns (whoOf a) 0 = false →
    exec (.pairDisable a n v) s = .next (stopPair n s)) ∧
  (∀ a n v s, accessOk a → n < 64 → s.reachable a → !s.seventeenth (whoOf a) → s.owns (whoOf a) n → s.mailbox.failed = false →
    ((v.setWidth 16 : BitVec 16) - (s.pair n).cmdHead).toNat ≤ (s.pair n).cmdSlots →
    exec (.cmdDoorbell a n v) s = .next ((touchZero (whoOf a) s).setPair n fun p => { p with cmdTail := v.setWidth 16 })) ∧
  (∀ a n v s, accessOk a → n < 64 → s.reachable a → !s.seventeenth (whoOf a) → s.owns (whoOf a) n → s.mailbox.failed = false →
    exec (.cmpDoorbell a n v) s = .next ((touchZero (whoOf a) s).setPair n fun p => { p with cmpHead := v.setWidth 16 })) ∧
  (∀ a n (v : BitVec 32) s, accessOk a → n < 64 → s.reachable a → !s.seventeenth (whoOf a) → !(s.pair n).active → !(s.pair n).enable →
    exec (.registerWrite a (0x1000 + 32 * n + 8) v) s = .next ((touchZero (whoOf a) s).setPair n fun p =>
      { p with cmdBase := bitsAt v.toNat 0 13, cmdSizeLog2 := bitsAt v.toNat 16 4 }) ∧
    exec (.registerWrite a (0x1000 + 32 * n + 12) v) s = .next ((touchZero (whoOf a) s).setPair n fun p =>
      { p with cmpBase := bitsAt v.toNat 0 13, cmpSizeLog2 := bitsAt v.toNat 16 4 }) ∧
    exec (.registerWrite a (0x1000 + 32 * n + 20) v) s = .next ((touchZero (whoOf a) s).setPair n fun p =>
      { p with ibPart := bitsAt v.toNat 0 16, ibPort := bitsAt v.toNat 16 8 }))

/-- R300, R309: a write the part discards changes nothing but the counter FOREIGN_WRITES: a pair's register while another
requester owns the pair, a ring register while ENABLE is 1, ring memory under another's ring. R297, R300: a write to ring memory
writes its bytes and no others: every address of the write reads the byte written there, every other address of ring memory
reads as before, and beside ring memory only an access of pair 0's owner is noted. -/
def Obligations.RingAndForeignWrites : Prop :=
  ((∀ a n v s, accessOk a → n < 64 → s.reachable a → (s.pair n).active → s.owns (whoOf a) n = false → s.owns (whoOf a) 0 = false →
      n ≠ 0 →
      exec (.cmdDoorbell a n v) s = .next (s.bump 0x96 partWide) ∧ exec (.cmpDoorbell a n v) s = .next (s.bump 0x96 partWide) ∧
      (v.getLsbD 0 → exec (.pairEnable a n v) s = .next (s.bump 0x96 partWide)) ∧
      (!v.getLsbD 0 → exec (.pairDisable a n v) s = .next (s.bump 0x96 partWide)) ∧
      ∀ r, r < 8 → exec (.registerWrite a (0x1000 + 32 * n + 4 * r) v) s = .next (s.bump 0x96 partWide)) ∧
    (∀ a n v s, accessOk a → n < 64 → s.reachable a → !s.seventeenth (whoOf a) → s.owns (whoOf a) n → (s.pair n).enable →
      exec (.registerWrite a (0x1000 + 32 * n + 8) v) s = .next ((touchZero (whoOf a) s).bump 0x96 partWide) ∧
      exec (.registerWrite a (0x1000 + 32 * n + 12) v) s = .next ((touchZero (whoOf a) s).bump 0x96 partWide)) ∧
    (∀ a off bs s, accessOk a → off + bs.length ≤ ringMemory → s.reachable a → s.ringForeign (whoOf a) off bs.length →
      exec (.ringMemoryWrite a off bs) s = .next ((touchZero (whoOf a) s).bump 0x96 partWide))) ∧
  (∀ a off bs s, accessOk a → off + bs.length ≤ ringMemory → s.reachable a → !s.seventeenth (whoOf a) → !s.ringForeign (whoOf a) off bs.length →
      ∃ t, exec (.ringMemoryWrite a off bs) s = .next t ∧
        (∀ i, i < bs.length → Memory.read t.mailbox.ring (off + i) = bs.getD i 0) ∧
        (∀ b, b < off ∨ off + bs.length ≤ b → Memory.read t.mailbox.ring b = Memory.read s.mailbox.ring b) ∧
        t = (touchZero (whoOf a) s).setMailbox (fun m => { m with ring := t.mailbox.ring }))

/-- R301: when the owner of pair 0 has made no access for 10 s the pair is abandoned, and the requester that next writes ENABLE
= 0 there stops it, whoever it is. -/
def Obligations.PairZeroAbandonment : Prop :=
  (∀ s, (s.pair 0).active → s.mailbox.pair0Abandoned = false →
    exec .pairAbandoned s = .next ((s.reach (s.mailbox.pair0At + 10000000000)).setMailbox fun m => { m with pair0Abandoned := true })) ∧
  (∀ a v s, accessOk a → s.reachable a → v.getLsbD 0 = false → s.owns (whoOf a) 0 = false → s.mailbox.pair0Abandoned →
    exec (.pairDisable a 0 v) s = .next ((stopPair 0 s).setMailbox fun m => { m with pair0Abandoned := false }))

/-- R312, R313 (Table 14.7): MD takes the MANAGEMENT frame delivered first. A COMMAND frame of the pair's in-band source puts
the entry at CMD_TAIL and keeps the buffer; a REG_READ of the in-band source is answered with REG_DATA; a REG_WRITE writes its
words. -/
def Obligations.ManagementFramesComplete : Prop :=
  (∀ s rx u n p, s.mdReseq.inbox.head? = some rx → u = oweEcho rx.frame rx.port { s with mdReseq := { s.mdReseq with inbox := s.mdReseq.inbox.drop 1 } } →
    u.mailbox.failed = false → !rx.frame.taint → Frame.crcOk rx.frame → reservedOk rx.frame → rx.frame.type = 9 → rx.frame.sub8 = 1 →
    256 ≤ rx.frame.payload.length → n = rx.frame.field 104 6 → p = u.pair n → p.active → p.inBand → rx.frame.srcPart = p.ibPart →
    rx.frame.srcPort = p.ibPort → (p.cmdTail - p.cmdHead).toNat < p.cmdSlots →
    exec .mgmtCommandFrame s = .next (((noteInBandPort rx u).setMailbox fun m => { m with
      ring := Memory.write (ringAt p.cmdBase + 256 * (p.cmdTail.toNat % p.cmdSlots)) (rx.frame.payload.take 256) m.ring
      inBuffers := m.inBuffers.filter (fun e => e.1 != (n, p.cmdTail.toNat)) ++ [((n, p.cmdTail.toNat), rx.frame.payload.drop 256)] }).setPair n
        fun p => { p with cmdTail := p.cmdTail + 1 })) ∧
  (∀ s rx u v, s.mdReseq.inbox.head? = some rx → isReg 3 rx.frame →
    u = oweEcho rx.frame rx.port { s with mdReseq := { s.mdReseq with inbox := s.mdReseq.inbox.drop 1 } } →
    u.mailbox.failed = false → !rx.frame.taint → Frame.crcOk rx.frame → reservedOk rx.frame → u.regOk rx.frame →
    v = noteInBandPort rx (touchZero (regWriter rx.frame) u) →
    exec .mgmtRegRead s = .next (mdSend 5 rx.frame.srcPart rx.frame.srcPort (rx.frame.field 104 6) (rx.frame.field 112 8)
      (rx.frame.field 128 32) (rx.frame.field 120 1) (regWords rx.frame v) v)) ∧
  (∀ s rx u, s.mdReseq.inbox.head? = some rx → isReg 4 rx.frame →
    u = oweEcho rx.frame rx.port { s with mdReseq := { s.mdReseq with inbox := s.mdReseq.inbox.drop 1 } } →
    u.mailbox.failed = false → !rx.frame.taint → Frame.crcOk rx.frame → reservedOk rx.frame → u.regOk rx.frame →
    rx.frame.payload.length = 4 * rx.frame.field 112 8 →
    exec .mgmtRegWrite s = .next (regWrite rx.frame (noteInBandPort rx u)))

/-! ### Test access port -/

/-- R335, R358, R361, R373 (Tables 16.2, 17.12, 17.13): with VDD_AON up each reading instruction gives its register at TDO and
changes nothing else: IDCODE, SUPPLY_REC, TD_STATE, BOOT_LOG, MONUMENT_READ and ATTEST; TAP reset selects IDCODE, and an
unlisted code is BYPASS. -/
def Obligations.TapReadingsComplete : Prop :=
  ∀ s, (s.rail 0).above10 →
    exec .idcode s = .next (s.tapGives .idcode 32
      (packFields [(0, 1, 1), (1, 11, s.trust.jep106.toNat), (12, 16, 0x0128), (28, 4, s.trust.stepping.toNat)])) ∧
    exec .supplyRec s = .next (s.tapGives .supplyRec 128 (packFields [(0, 4, s.supply.record.kind.code), (4, 6, s.supply.record.rail),
      (10, 3, s.supply.record.stage), (13, 1, bit s.supply.record.runtime), (16, 48, s.supply.record.aonTicks),
      (64, 16, s.supply.record.faults)])) ∧
    exec .tdState s = .next (s.tapGives .tdState 128 (packFields [(0, 2, s.trust.lifecycle.code), (2, 1, bit s.trust.wipeDone),
      (3, 1, bit s.trust.identityKey.isSome), (4, 2, s.dbg.level.code), (6, 16, s.dbg.subject), (22, 1, bit s.trust.deadman),
      (23, 1, bit s.trust.refclkLost), (24, 8, s.boot.failCode), (32, 8, s.trust.wdogMgmt), (40, 8, s.trust.wdogSeq),
      (48, 8, s.trust.wdogLane), (56, 8, s.trust.wdogTb), (64, 7, s.trust.svCount), (71, 4, s.trust.vendorRevoke.toNat),
      (75, 1, bit s.trust.ownerDigest.isSome), (76, 4, s.trust.lcErr)])) ∧
    exec .bootLog s = .next (s.tapGives .bootLog 64 (packFields [(0, 8, s.boot.codeA), (8, 8, s.boot.codeB), (16, 1, bit s.boot.preferredB),
      (17, 1, bit s.boot.slotB), (32, 32, s.boot.bootMs)])) ∧
    exec .monumentRead s = .next (s.tapGives .monumentRead (8 * s.trust.monumentBytes.length) (leNat s.trust.monumentBytes)) ∧
    (∀ nonce, exec (.attest nonce) s = .next (s.tapGives .attest 1664 (leNat (s.report nonce ++ s.attestation nonce)))) ∧
    exec .tapReset s = .next (s.tapGives .idcode 0 0) ∧
    (∀ (code : BitVec 8) b, code.toNat ∉ [0x00, 0x01, 0x02, 0x03, 0x04, 0x10, 0x11, 0x12, 0x13, 0x14, 0x15, 0x20, 0x21, 0x22] →
      exec (.bypass code b) s = .next (s.tapGives .bypass 2 (2 * bit b)))

/-- R342, R373: EXTEST drives the pins with what is shifted in (what it captures is a free value, log 6), SAMPLE/PRELOAD gives
the pin levels and preloads the latch, CLAMP drives the pins from the latch and HIGHZ floats them, both with bypass selected. -/
def Obligations.BoundaryScanCompletes : Prop :=
  ∀ s, (s.rail 0).above10 →
    (∀ l, exec (.extest l) s = .next { s with
      freeCount := s.freeCount + 1
      trust := { s.trust with ir := .extest, tdo := s.drawn % 2 ^ l.length, tdoBits := l.length }
      scan := { s.scan with latch := l, driven := true, floating := false } }) ∧
    (∀ pins l, exec (.samplePreload pins l) s = .next { s with
      trust := { s.trust with ir := .samplePreload, tdo := bitsNat pins % 2 ^ pins.length, tdoBits := pins.length }
      scan := { latch := l, captured := pins, driven := false, floating := false } }) ∧
    exec .clamp s = .next { s with
      trust := { s.trust with ir := .clamp, tdo := 0, tdoBits := 1 }, scan := { s.scan with driven := true, floating := false } } ∧
    exec .highz s = .next { s with
      trust := { s.trust with ir := .highz, tdo := 0, tdoBits := 1 }, scan := { s.scan with driven := false, floating := true } }

/-- R356 (Tables 17.2, 17.13): LC_TRANSITION works while RESET_N is low. An accepted record makes its transition; a rejected one
changes nothing and is counted in LC_ERR, which saturates. R356 (Table 17.2): a transition goes forward from BLANK to
PROVISIONED, to DEPLOYED, to RETURNED, or from PROVISIONED to RETURNED; its record names the part's SERIAL and is signed by an
unrevoked vendor key or, for a return with OWNER_DIGEST fused, by the owner's. -/
def Obligations.LifecycleTransitionsComplete : Prop :=
  (∀ s u record, (s.rail 0).above10 → u = s.tapGives .lcTransition 0 0 →
      (s.supply.resetN → exec (.lcTransition record) s = .next u) ∧
      (!s.supply.resetN → ∀ r t, transitionOf record = some r → transit r u = some t → exec (.lcTransition record) s = .next t) ∧
      (!s.supply.resetN → ((transitionOf record).bind fun r => transit r u) = none →
        exec (.lcTransition record) s = .next { u with trust := { u.trust with lcErr := min 15 (s.trust.lcErr + 1) } })) ∧
  (∀ s r t, transit r s = some t →
      ((s.trust.fusedLifecycle = .blank ∧ t.trust.fusedLifecycle = .provisioned ∧ r.target = 1) ∨
       (s.trust.fusedLifecycle = .provisioned ∧ t.trust.fusedLifecycle = .deployed ∧ r.target = 2) ∨
       ((s.trust.fusedLifecycle = .provisioned ∨ s.trust.fusedLifecycle = .deployed) ∧ t.trust.fusedLifecycle = .returned ∧ r.target = 3)) ∧
      r.serial = s.trust.serial.toNat ∧ verifies r.key r.signature r.signed ∧
      (r.target < 3 ∨ s.trust.ownerDigest = none → s.trust.vendorKey r.key) ∧
      (∀ d, r.target = 3 → s.trust.ownerDigest = some d → beNat (sha384 r.key) = d) ∧
      t.trust.lifecycle = s.trust.lifecycle)

/-- R376, R377 (Table 17.15): a debug access its level and the part's state allow is done: DBG_TRACE gives the window of a die
that is not in L3, whose contents are a free value (log 6); DBG_MEM reads or, under FULL, writes a byte; DBG_CTRL acts on a
processor under FULL, never on the trust-die core. R376, R377: without a level that reaches it no debug access changes the part:
DBG_TRACE without a level gives nothing, DBG_MEM without FULL or PARCEL neither reads nor writes, a PARCEL session writes
nothing, DBG_CTRL without FULL or on the trust-die core does nothing. Only the port, the scan cells and the session itself may
change. -/
def Obligations.DebugAccessesFollowTheirLevel : Prop :=
  ((∀ s u d, (s.rail 0).above10 → dieExists d → !(0x60 ≤ d && d < 0x7E) → u = enterDebug ({ s with
        trust := { s.trust with ir := .dbgTrace }, scan := { s.scan with driven := false, floating := false } }) →
      u.dbg.level ≠ .none → !u.isHeld → u.dieState d ≠ .l3 →
      exec (.dbgTrace d) s = .next { u with
        freeCount := u.freeCount + 1, trust := { u.trust with tdo := 2 * Config.debugWord d u.freeCount, tdoBits := 0 } }) ∧
    (∀ s u sp a v, (s.rail 0).above10 → spaceHas a sp → u = shiftOut 0 0 (enterDebug (letGo { s with trust := { s.trust with ir := .dbgMem } })) →
      (u.dbg.level = .full ∨ u.dbg.level = .parcel) → !u.isHeld →
      (∀ g, groupOfDieId (spaceDie sp) = some g → u.running g) → (u.reached (spaceDie sp)).debugRead sp a = some v →
      exec (.dbgMem sp a none) s = .next (State.draw 1 (shiftOut 8 v (u.reached (spaceDie sp))))) ∧
    (∀ s u sp a b, (s.rail 0).above10 → spaceHas a sp → u = shiftOut 0 0 (enterDebug (letGo { s with trust := { s.trust with ir := .dbgMem } })) →
      u.dbg.level = .full → !u.isHeld → (∀ g, groupOfDieId (spaceDie sp) = some g → u.running g) →
      exec (.dbgMem sp a (some b)) s = .next (debugWrite sp a b (u.reached (spaceDie sp)))) ∧
    (∀ s u d n act, (s.rail 0).above10 → processorExists d n → d ≠ 0x81 →
      u = shiftOut 0 0 (enterDebug (letGo { s with trust := { s.trust with ir := .dbgCtrl } })) →
      u.dbg.level = .full → !u.isHeld → (∀ g, groupOfDieId d = some g → u.running g) →
      exec (.dbgCtrl d n act) s = .next (debugControl d n act (u.reached d)))) ∧
  (∀ s t, (s.rail 0).above10 →
      (∃ d, (enterDebug s).dbg.level = .none ∧ exec (.dbgTrace d) s = .next t) ∨
      (∃ sp a w, ((enterDebug s).dbg.level = .none ∨ (enterDebug s).dbg.level = .telemetry ∨ ((enterDebug s).dbg.level = .parcel ∧ w ≠ none)) ∧
        exec (.dbgMem sp a w) s = .next t) ∨
      (∃ d n act, ((enterDebug s).dbg.level ≠ .full ∨ d = 0x81) ∧ exec (.dbgCtrl d n act) s = .next t) →
      t = { s with trust := t.trust, scan := t.scan, dbg := (enterDebug s).dbg } ∧
      t.trust = { s.trust with ir := t.trust.ir, tdo := 0, tdoBits := 0 })

/-! ### Reference clock, failures and watchdogs -/

/-- R20, R21: the loss of the input in use moves the tree to the other one and counts a switch (under a number of the model's
own, log 92); the loss of both stops forwarding, holds every port in electrical idle and records the loss; a returned input is
present again, and taken up when none was in use. R200, R201, R292, R317 (Table 9.2): the first crossbar die that fails,
whichever sign shows it, ends what it was sending with TAINT, empties the cell buffer, leaves the pool of the surviving dies,
settles the generations whose chains were in it (log 79, the model's reading), has every UP port initialise its credits again
and is journaled; a second one ends forwarding. -/
def Obligations.ReferenceAndCrossbarFailures : Prop :=
  ((∀ s i, i < 2 → s.refclk.present.getD i false → (s.refclk.present.set i false).getD (1 - i) false →
      ∃ u, u = { s with refclk := { s.refclk with
          present := s.refclk.present.set i false, inUse := if s.refclk.inUse = i then 1 - i else s.refclk.inUse } } ∧
        exec (.refclkInputLost i) s = .next (if s.refclk.inUse = i then u.bump Counter.refclkSwitch partWide else u)) ∧
    (∀ s i, i < 2 → s.refclk.present.getD i false → (s.refclk.present.set i false).getD (1 - i) false = false →
      ∃ u, u = { s with refclk := { s.refclk with present := s.refclk.present.set i false }, trust := { s.trust with refclkLost := true }
                        xbar := { s.xbar with stopped := true } } ∧
        exec (.refclkInputLost i) s = .next (forEach (List.range 128) idlePort u)) ∧
    (∀ s i, i < 2 → s.refclk.present.getD i false = false →
      exec (.refclkInputReturn i) s = .next { s with refclk := { s.refclk with
        present := s.refclk.present.set i true, validSince := s.refclk.validSince.set i s.clock
        inUse := if s.refclk.present.getD s.refclk.inUse false then s.refclk.inUse else i } })) ∧
  ((∀ s x k, x < 4 → XdCause.ok k → !s.supply.inReset → s.boot.stage.started → s.xbar.failed = [] →
      ∃ u v, u = emptyBuffer (cutSending x s) ∧ u.xbar.records = [] ∧ u.xbar.queues = [] ∧
        v = settleBroadcasts (u.setXbar fun b => { b with
          failed := b.failed ++ [x], free := [[(0, 675840)], [(675840, 675840)], [(1351680, 675840)]], ptrs := [], fallbackUsed := []
          freeing := [], lastAudit := none }) ∧
        exec (.xdHeartbeatMiss { xd := x, cause := k }) s = .next (journalEvent 0x04 0xFFFF [(64, 1, 0x20 + x)]
          (forEach ((List.range 128).filter v.portUp) startCinit v))) ∧
    (∀ s x k, x < 4 → XdCause.ok k → !s.supply.inReset → s.boot.stage.started → s.xbar.failed ≠ [] → x ∉ s.xbar.failed →
      exec (.xdHeartbeatMiss { xd := x, cause := k }) s = .next (forEach (List.range 128) idlePort
        (s.setXbar fun b => { b with failed := b.failed ++ [x], stopped := true }))) ∧
    (∀ s x k, x < 4 → XdCause.ok k → x ∈ s.xbar.failed → exec (.xdHeartbeatMiss { xd := x, cause := k }) s = .next s))

/-- R386, R389, R319, R362 (Table 17.7): a silent ledger pair in use fails, with cause 4 when its stack is silent and 1 when the
die is; MD that misses its heartbeats is failed until reset; an MD firmware fault, like a management watchdog, restarts MD under
a new firmware number, its book mended and missing completions written, and a second restart within 1 s fails MD. -/
def Obligations.LedgerAndManagementFailures : Prop :=
  (∀ s p b, p < 30 → !s.supply.inReset → s.placement.usable.contains p →
    exec (.ledgerHeartbeatMiss p b) s = .next (failPair p (if b then 4 else 1) s)) ∧
  (∀ s, s.mdRuns → exec .mdHeartbeatMiss s = .next { s with
    mailbox := { s.mailbox with failed := true }, boot := { s.boot with stage := .mdRestart } }) ∧
  (∀ s, s.mdRuns → (s.mailbox.restarts.filter fun t => s.clock < t + 1000000000) = [] →
    ∃ u v, u = spoilHandover 0x80 s ∧ v = rewriteCompletions (mendBook (u.setMailbox fun m => { m with restarts := [s.clock] })) ∧
      exec .mdFirmwareFault s = .next (postFirmware 2 (journalEvent 0x03 0xFFFF
        [(64, 4, (v.boot.fwInstance + 1).toNat), (68, 4, v.mailbox.running.length), (72, 4, 0)]
        { v with boot := { v.boot with fwInstance := v.boot.fwInstance + 1 } }))) ∧
  (∀ s, s.mdRuns → (s.mailbox.restarts.filter fun t => s.clock < t + 1000000000) ≠ [] →
    ∃ u, u = spoilHandover 0x80 s ∧ exec .mdFirmwareFault s = .next { u with
      mailbox := { s.mailbox with failed := true }, boot := { u.boot with stage := .mdRestart } }) ∧
  (∀ s c, c < 4 → s.mdRuns → !s.isHalted 0x80 c →
    exec (.mgmtWatchdogExpiry c) s = exec .mdFirmwareFault { s with trust := { s.trust with wdogMgmt := min 0xFF (s.trust.wdogMgmt + 1) } })

/-- R362, R386, R122 (Table 17.7): a watchdog that expires is counted for its class, saturating, and its processor restarts. The
third expiry of a ledger sequencer within 1 s fails the pair; the eighth of a lane microcontroller holds its four ports in
electrical idle; a timebase core leaves the active role, and at its third expiry stays stopped. -/
def Obligations.WatchdogExpiriesComplete : Prop :=
  (∀ s d l u, d < 30 → !s.supply.inReset → s.boot.stage.started → !s.pairFailed d → s.placement.usable.contains d → s.watched (groupOfDie d) →
    !s.isHalted (0x40 + d) 0 → l = ((s.die d).expiries.filter fun t => s.clock < t + 1000000000) ++ [s.clock] →
    u = spoilHandover (0x40 + d) { s with trust := { s.trust with wdogSeq := min 0xFF (s.trust.wdogSeq + 1) }
                                          dies := s.dies.modify d fun x => { x with expiries := l } } →
    exec (.seqWatchdogExpiry d) s = .next (if 3 ≤ l.length then failPair d 2 u else u)) ∧
  (∀ s c l u ps, c < 32 → !s.supply.inReset → s.boot.stage.started → s.watched (c / 4) → !s.isHalted c 0 →
    l = ((s.chiplets.getD c {}).expiries.filter fun t => s.clock < t + 1000000000) ++ [s.clock] → ps = [4 * c, 4 * c + 1, 4 * c + 2, 4 * c + 3] →
    u = spoilHandover c { s with trust := { s.trust with wdogLane := min 0xFF (s.trust.wdogLane + 1) }
                                 chiplets := s.chiplets.modify c fun x => { x with expiries := l } } →
    exec (.laneWatchdogExpiry c) s = .next (if 8 ≤ l.length then forEach ps (fun p s => (idlePort p s).setPort p fun x => { x with heldIdle := true }) u
      else forEach ps (fun p s => if (s.port p).state = .training then enterIdle p s else s) u)) ∧
  (∀ s t l u, t < 2 → !s.supply.inReset → s.boot.stage.started → !(s.timebases.getD t {}).stopped → !s.isHalted (0x82 + t) 0 →
    l = ((s.timebases.getD t {}).expiries.filter fun x => s.clock < x + 1000000000) ++ [s.clock] →
    u = passActive t (spoilHandover (0x82 + t) { s with trust := { s.trust with wdogTb := min 0xFF (s.trust.wdogTb + 1) }
                                                        timebases := s.timebases.modify t fun b => { b with expiries := l } }) →
    exec (.timebaseWatchdogExpiry t) s = .next (if 3 ≤ l.length then
      { u with timebases := u.timebases.modify t fun b => { b with stopped := true, marks := [] } } else u)) ∧
  (∀ s t, t < 2 → !s.supply.inReset → !(s.timebases.getD t {}).stopped →
    exec (.timebaseHeartbeatMiss t) s = .next { passActive t s with
      timebases := (passActive t s).timebases.modify t fun b => { b with stopped := true, marks := [] } })

/-- R363, R338 (Table 17.6): when the deadman expires the part fails closed with FAIL_CODE DEADMAN and asserts FAULT_N: every
object, ring and entry is gone, nothing runs, and no counter, fuse or flash content is touched by it. -/
def Obligations.DeadmanFailsClosed : Prop :=
  ∀ s, (s.rail 0).above10 → !s.trust.deadman → ∃ t, exec .deadmanExpiry s = .next t ∧
    t.trust.deadman ∧ t.supply.faultN ∧ t.supply.inReset ∧ t.boot.stage = .failed ∧ t.boot.failCode = 0x0B ∧
    t.traverses = [] ∧ t.tallies = [] ∧ t.regions = [] ∧ t.actions = [] ∧ t.mailbox.running = [] ∧ t.mailbox.ring = [] ∧
    t.mailbox.pairs.all (fun p => !p.active) ∧ t.book.entries = [] ∧ t.counters = [] ∧
    t.boot.slotA_image = s.boot.slotA_image ∧ t.boot.slotB_image = s.boot.slotB_image ∧ t.boot.state0 = s.boot.state0 ∧
    t.boot.state1 = s.boot.state1 ∧ t.trust.svCount = s.trust.svCount ∧ t.trust.fusedLifecycle = s.trust.fusedLifecycle ∧
    t.trust.identityKey = s.trust.identityKey ∧ t.supply.record = s.supply.record ∧ t.supply.resetCount = s.supply.resetCount

/-! ### Power states and temperature -/

/-- R345, R346, R347, R351, R352 (Table 16.6): an idle group whose idle time has passed enters the deepest state open to it, or
the next one when its time comes; the state is reached after the entry time and takes effect on the group's dies; an exit ends
in L0 after the exit time; at the wake point a group deeper than its budget permits starts its exit. R24, R353, R354 (Tables
1.9, 16.9): every 100 µs the loops read each load's power and each die's temperature, step the power loop and the thermal loop
of every group, a group being throttled while the average over 1 ms is above a ceiling of its own or of the package, and end the
hardware throttles of dies that have cooled; at its hardware threshold a die, or a stack's controller, is throttled whatever
runs. -/
def Obligations.PowerAndThermalLoopsComplete : Prop :=
  ((∀ s g st, g < 20 → !s.groupBusy g → (s.group g).entering = none → (s.group g).exiting = none →
      ((s.enterable g s.clock).filter fun st => decide ((s.group g).workAt + st.idleNs ≤ s.clock)).getLast? = some st →
      exec (.powerStateEntry g) s = .next (s.setGroup g fun x => { x with entering := some (st, s.clock) })) ∧
    (∀ s g st u, g < 20 → !s.groupBusy g → (s.group g).entering = none → (s.group g).exiting = none →
      ((s.enterable g s.clock).filter fun st => decide ((s.group g).workAt + st.idleNs ≤ s.clock)) = [] →
      ((allowedStates g).find? fun st => (s.enterable g ((s.group g).workAt + st.idleNs)).contains st) = some st →
      u = s.reach ((s.group g).workAt + st.idleNs) →
      exec (.powerStateEntry g) s = .next (u.setGroup g fun x => { x with entering := some (st, u.clock) })) ∧
    (∀ s g st at_, g < 20 → (s.group g).entering = some (st, at_) →
      exec (.powerStateEntryDone g) s = .next (applyState g st ((s.reach (at_ + st.entryNs)).setGroup g fun x => { x with state := st, entering := none }))) ∧
    (∀ s g st at_ u, g < 20 → (s.group g).exiting = some (st, at_) → u = s.reach (at_ + st.exitNs) →
      exec (.powerExitDone g) s = .next (emitAll (applyState g .l0 (u.setGroup g fun x => { x with state := .l0, exiting := none, workAt := u.clock })))) ∧
    (∀ s g w, g < 20 → (s.group g).state ≠ .l0 → !s.budgetAllows g (s.group g).state → s.wakePoint g (s.group g).state = some w →
      exec (.wakePoint g) s = .next (wakeGroup g (s.reach w)))) ∧
  ((∀ s ws cs new log u, ws.length = 31 → !s.mailbox.failed → s.boot.stage = .ready → !s.isHalted 0x80 3 → new = mergeTemps s.supply.celsius cs →
      log = (ws :: s.supply.powerLog).take 10 →
      u = { s with clock := max s.clock (s.supply.loopAt + 100000)
                   supply := { s.supply with celsius := new, loopAt := max s.clock (s.supply.loopAt + 100000), powerLog := log } } →
      exec (.powerLoopTick ws cs) s = .next (coolThrottles cs (forEach (List.range 20) (fun g => thermalStep g s.supply.celsius new)
        (forEach (List.range 20) (powerStep log) u)))) ∧
    (∀ s ws cs, ws.length = 31 → (s.mailbox.failed ∨ s.boot.stage ≠ .ready ∨ s.isHalted 0x80 3) →
      exec (.powerLoopTick ws cs) s = .next (coolThrottles cs { s with supply := { s.supply with celsius := mergeTemps s.supply.celsius cs } })) ∧
    (∀ log g s, g < 20 → s.groups.length = 20 → ((powerStep log g s).group g).throttled =
      (packageOver log || ((List.range 31).any fun l => groupOfLoad l == some g && loadOver s log l) ||
        ((s.group g).issueThrottled && (s.group g).throttled))) ∧
    (∀ s d, (throttleAtC d).isSome → !s.supply.hotDies.contains d →
      exec (.hwThrottle d) s = .next { s with
        supply := { s.supply with hotDies := s.supply.hotDies ++ [d] }
        hbmStacks := if 0x60 ≤ d ∧ d < 0x7E then s.hbmStacks.modify (d - 0x60) fun h => { h with throttled := true } else s.hbmStacks }))

/-! ### Supplies, reset and start -/

/-- R332, R333, R336 (Tables 16.1, 16.3): a rail that rises or falls in order, or moves out of tolerance before start-up is
over, changes its own level alone; the trust die then settles whether all rails are in tolerance. R334 (Table 16.2): a rail that
crosses 10% before the stages under it are complete, or less than 100 µs after them, a rise of more than 20 ms, a power-down out
of order and, after start-up, a rail outside nominal ±8% put the part into SUPPLY_FAULT with that KIND and rail: FAULT_N is
asserted, the part is held in reset, the record is updated, and ledger and field-book contents are lost. R335, R339 (Table
16.2): the rise of VDD_AON writes the supply record and RESET_COUNT zero, and RESET_N tied high is held as an early release. -/
def Obligations.SuppliesComplete : Prop :=
  (∀ s r, r < 47 → (s.rail 0).above10 →
      (0 < r → !(s.rail r).above10 → ((List.range (railStage r - 1)).all fun j => s.stageUp (j + 1)) → (s.rail 0).inTol →
        ((stageRails (railStage r - 1)).foldl (fun m q => max m (s.rail q).at90) 0) + 100000 ≤ s.clock →
        exec (.supplyRailEvent r .rise10) s = .next (settleRails (s.setRail r fun x => { x with above10 := true, at10 := s.clock }))) ∧
      ((s.rail r).above10 → !(s.rail r).above90 → s.clock ≤ (s.rail r).at10 + 20000000 →
        exec (.supplyRailEvent r .rise90) s = .next (settleRails (s.setRail r fun x => { x with above90 := true, at90 := s.clock }))) ∧
      ((s.rail r).above90 → (∀ q, q < 47 → railStage r < railStage q → !(s.rail q).above10) →
        exec (.supplyRailEvent r .fall90) s = .next (settleRails (s.setRail r fun x => { x with above90 := false, inTol := false }))) ∧
      (∀ q, 0 < r → 0 < q → q < 47 → q ≠ r → (s.rail r).above10 → (s.rail q).above10 →
        exec (.supplyRailEvent r .fall10) s = .next (settleRails (s.setRail r fun x => { x with above10 := false, above90 := false, inTol := false }))) ∧
      ((s.rail r).above90 → exec (.supplyRailEvent r .back) s = .next (settleRails (s.setRail r fun x => { x with inTol := true }))) ∧
      (!s.supply.started → exec (.supplyRailEvent r .below8) s = .next (settleRails (s.setRail r fun x => { x with inTol := false })) ∧
        exec (.supplyRailEvent r .above8) s = .next (settleRails (s.setRail r fun x => { x with inTol := false })))) ∧
  (∀ s r e k, r < 47 → (s.rail 0).above10 → s.supply.fault = .none →
      ((e = .rise10 ∧ k = .order ∧ 0 < r ∧ !(s.rail r).above10 ∧ ((List.range (railStage r - 1)).any fun j => !s.stageUp (j + 1))) ∨
       (e = .rise10 ∧ k = .separation ∧ 0 < r ∧ !(s.rail r).above10 ∧ ((List.range (railStage r - 1)).all fun j => s.stageUp (j + 1)) ∧
         (s.rail 0).inTol ∧ s.clock < ((stageRails (railStage r - 1)).foldl (fun m q => max m (s.rail q).at90) 0) + 100000) ∨
       (e = .rise90 ∧ k = .rampSlow ∧ (s.rail r).above10 ∧ !(s.rail r).above90 ∧ (s.rail r).at10 + 20000000 < s.clock) ∨
       (e = .fall90 ∧ k = .downOrder ∧ (s.rail r).above90 ∧ ∃ q, q < 47 ∧ railStage r < railStage q ∧ (s.rail q).above10) ∨
       (e = .below8 ∧ k = .undervolt ∧ s.supply.started) ∨ (e = .above8 ∧ k = .overvolt ∧ s.supply.started)) →
      ∃ t, exec (.supplyRailEvent r e) s = .next t ∧ (!t.railsGood → t.supply.fault = k) ∧ t.supply.record.kind = k ∧ t.supply.record.rail = r ∧
        t.supply.record.faults = min 0xFFFF (s.supply.record.faults + 1) ∧ t.supply.inReset ∧ (!t.railsGood → t.supply.faultN) ∧ t.book.entries = [] ∧
        t.regions = [] ∧ t.traverses = [] ∧ t.mailbox.ring = [] ∧ t.boot.stage = .reset ∧ t.sent = s.sent ∧ t.hostOut = s.hostOut) ∧
  (∀ s, !(s.rail 0).above10 → ∃ t, exec .vddAonRise s = .next t ∧ t.supply.resetCount = 0 ∧ t.supply.inReset ∧ t.boot.stage = .reset ∧
      t.supply.aonAt = s.clock ∧ t.trust.fusedLifecycle = s.trust.fusedLifecycle ∧ t.trust.ir = .idcode ∧
      ((∀ r, 0 < r → r < 47 → !(s.rail r).above10) → t.supply.record = {} ∧ t.supply.fault = .none ∧ t.supply.held = s.supply.resetN))

/-- R337: a low of RESET_N of 1 µs or more resets the part. Every object, ring, field-book entry, counter and power state is
cleared, and the pairs and the parcels are those of reset; RESET_COUNT, the supply record, the lifecycle state, the fuses and
the flash stay, and a port that was UP announces electrical idle in 64 rows. A low of less than 0.5 µs does nothing but pass.
R339, R336, R340 (Table 16.3): a release of RESET_N is held until rails and a REFCLK input have been valid for 1 ms; then the
fused lifecycle takes effect, RESET_COUNT rises, the telemetry counter starts anew and ROM runs. A release leaves SUPPLY_FAULT
only as Table 16.3 has it. -/
def Obligations.ResetsComplete : Prop :=
  ((∀ s n, s.supply.resetN → (s.rail 0).above10 → 1000 ≤ n → ∃ t, exec (.resetNAssert n) s = .next t ∧ t.clock = s.clock + n ∧ !t.supply.resetN ∧
      t.supply.inReset ∧ t.boot.stage = .reset ∧ t.traverses = [] ∧ t.tallies = [] ∧ t.regions = [] ∧ t.actions = [] ∧ t.fired = [] ∧ t.bindings = [] ∧
      t.bases = State.reset.bases ∧ t.parcels = State.reset.parcels ∧ t.routes = State.reset.routes ∧ t.timebases = State.reset.timebases ∧
      t.mailbox.pairs = State.reset.mailbox.pairs ∧ t.mailbox.ring = [] ∧ t.mailbox.running = [] ∧ t.book = State.reset.book ∧ t.counters = [] ∧
      t.groups = State.reset.groups ∧ t.ports = State.reset.ports ∧ (∀ p, !s.portUp p ∨ 128 ≤ p → t.link p = State.reset.link p) ∧
      (∀ p, p < 128 → s.portUp p → t.link p = { State.reset.link p with goingIdleRows := 64, rowCnt := (s.link p).rowCnt, txScr := (s.link p).txScr }) ∧
      t.xbar = State.reset.xbar ∧
      t.hbmStacks = State.reset.hbmStacks ∧ t.dies = State.reset.dies ∧
      t.supply.resetCount = s.supply.resetCount ∧ t.supply.record = s.supply.record ∧ t.trust.lifecycle = s.trust.lifecycle ∧
      t.trust.fusedLifecycle = s.trust.fusedLifecycle ∧ t.trust.svCount = s.trust.svCount ∧ t.trust.identityKey = s.trust.identityKey ∧
      t.boot.slotA_image = s.boot.slotA_image ∧ t.boot.slotB_image = s.boot.slotB_image ∧ t.boot.state0 = s.boot.state0 ∧
      t.boot.state1 = s.boot.state1 ∧ t.scan = s.scan) ∧
    (∀ s n, s.supply.resetN → (s.rail 0).above10 → n < 500 →
      exec (.resetNAssert n) s = .next { s with clock := s.clock + n, freeCount := s.freeCount + 1 })) ∧
  ((∀ s, !s.supply.resetN → !s.refclk.present.all (!·) → s.leaves →
      exec .resetNRelease s = .next { s with supply := { s.supply with
        resetN := true, fault := .none, thermtrip := false, faultN := false, held := true } }) ∧
    (∀ s, !s.supply.resetN → !s.refclk.present.all (!·) → !s.leaves →
      exec .resetNRelease s = .next { s with supply := { s.supply with resetN := true } }) ∧
    (∀ s g v r, s.supply.goodSince = some g → s.refclkSince = some v → s.supply.held → s.supply.resetN → s.supply.inReset →
      s.supply.fault = .none → !s.supply.thermtrip → !s.trust.wiping →
      ∃ t, exec (.resetReleaseEffective r) s = .next t ∧ t.clock = max s.clock (max (g + 1000000) (v + 1000000)) ∧ t.boot.stage = .rom ∧
        !t.supply.inReset ∧ !t.supply.held ∧ t.supply.resetCount = s.supply.resetCount + 1 ∧ t.supply.releasedAt = t.clock ∧
        t.trust.lifecycle = s.trust.fusedLifecycle ∧ t.trust.fusedLifecycle = s.trust.fusedLifecycle ∧
        t.placement.usable = usablePairs t.trust r ∧ t.dbg.level = releaseLevel t.trust))

/-- R340, R341, R361 (Table 17.6): ROM boots the preferred slot if it passes, else the other one, and firmware starts from it
under the next firmware number, every port in step 1 and every endpoint whose PERST_N is released linked; with neither slot good
STAGE is FAILED with the code of the last slot tried. R302, R310, R317, R340, R360, R361 (Tables 14.9, 17.3): when the
self-tests pass, STAGE is READY, the booted image commits its security version and revocations, the book begins with FW_START,
and the active pairs get the FIRMWARE event. Without an in-band source and without declared pseudo-channels that is all. -/
def Obligations.BootCompletes : Prop :=
  (∀ s p, s.boot.stage = .rom → p = s.boot.slotState.2.1 →
      (slotCode { s with boot := { s.boot with preferredB := p } } p = 0 → ∃ u, u = noteCode p 0 { s with boot := { s.boot with preferredB := p } } ∧
        exec (.bootVerifyDone true true) s = .next (startFirmware p u)) ∧
      (∀ c d v, v = { s with boot := { s.boot with preferredB := p } } → c = slotCode v p → c ≠ 0 → d = slotCode (noteCode p c v) (!p) → d = 0 →
        exec (.bootVerifyDone true true) s = .next (startFirmware (!p) (noteCode (!p) 0 (noteCode p c v)))) ∧
      (∀ c d v, v = { s with boot := { s.boot with preferredB := p } } → c = slotCode v p → c ≠ 0 → d = slotCode (noteCode p c v) (!p) → d ≠ 0 →
        ∃ t, exec (.bootVerifyDone true true) s = .next t ∧ t.boot.stage = .failed ∧ t.boot.failCode = d ∧ t.mailbox = s.mailbox) ∧
      ∃ t, exec (.bootVerifyDone false true) s = .next t ∧ t.boot.stage = .failed ∧ t.boot.failCode = 0x01) ∧
  (∀ s u, s.boot.stage = .fwStart → s.placement.usable.all (fun i => (s.stack i).declared == []) →
      imageField s.boot.runningImage 28 1 ≠ 1 →
      u = forEach s.placement.usable zeroSoon { s with
        boot := { s.boot with stage := .ready, bootMs := s.sinceRelease }
        book := { s.book with copy0 := decide (1 ≤ s.placement.usable.length), copy1 := decide (2 ≤ s.placement.usable.length) }
        trust := commitImage s.boot.runningImage s.trust } →
      exec .bootReady s = .next (postFirmware 1 (journalEvent 0x01 0xFFFF [(64, 1, bit s.boot.slotB), (68, 4, s.boot.fwInstance.toNat)] u)))

/-- R341, R338: PERST_N resets only its endpoint's PCIe logic, and its release lets the endpoint train once firmware has
started; the pairs stay. R354 (Table 16.9): a die at its trip temperature holds the part: THERMTRIP and FAULT_N are asserted,
every object is gone. -/
def Obligations.PerstAndThermtripComplete : Prop :=
  (∀ s e, e < 2 →
      exec (.mpPerstAssert e) s = .next { s with mailbox := { s.mailbox with
        perst := s.mailbox.perst.set e true, linked := s.mailbox.linked.set e false } } ∧
      exec (.mpPerstRelease e) s = .next { s with mailbox := { s.mailbox with
        perst := s.mailbox.perst.set e false, linked := s.mailbox.linked.set e (s.boot.stage.started && !s.supply.inReset) } }) ∧
  (∀ s d, dieExists d → ∃ t, exec (.thermtrip d) s = .next t ∧ t.supply.thermtrip ∧ t.supply.faultN ∧ t.supply.inReset ∧ t.boot.stage = .reset ∧
      t.traverses = [] ∧ t.regions = [] ∧ t.book.entries = [] ∧ t.mailbox.ring = [] ∧ t.trust.fusedLifecycle = s.trust.fusedLifecycle ∧
      tripAtC d ≤ (tget d t.supply.celsius).getD 0)

/-! ### Ports and links -/

/-- R254, R261 (Tables 11.3, 11.5): bring-up goes from step to step: after 1 ms of idle a port that nothing holds searches CK,
moving the window every 2 ms; CK lock ends step 2, 100 µs without LOS step 3, and a step that reaches its limit fails with its
reason and returns the port to step 1. -/
def Obligations.BringupStepsComplete : Prop :=
  (∀ s p, p < 128 → (s.port p).state = .idle → !s.portHeld p →
    exec (.bringupIdleEnd p) s = .next (nextStep p 2 ((s.reach ((s.port p).stepAt + 1000000)).setPort p fun x =>
      { x with state := .training, ckAtZero := false }))) ∧
  (∀ s p, p < 128 → (s.port p).state = .training → (s.port p).step = 2 →
    exec (.ckWindowSwitch p) s = .next ((s.reach ((s.port p).stepAt + ((s.clock - (s.port p).stepAt) / 2000000 + 1) * 2000000)).setPort p
      fun x => { x with ckAtZero := !x.ckAtZero }) ∧
    exec (.ckLock p) s = .next (nextStep p 3 (s.setPort p fun x => { x with
      ckReversed := x.ckAtZero, lol := x.lol &&& ~~~(BitVec.ofNat 9 (2 ^ (if x.ckAtZero then 0 else 8))), losAt := s.clock }))) ∧
  (∀ s p, p < 128 → (s.port p).state = .training → (s.port p).step = 3 → (∀ k, k < 9 → k ≠ (if (s.port p).ckReversed then 0 else 8) →
      !(s.port p).los.getLsbD k) →
    exec (.losCheckPass p) s = .next (nextStep p 4 (s.reach (max (s.port p).stepAt (s.port p).losAt + 100000)))) ∧
  (∀ s p n limit reason, p < 128 → (s.port p).state = .training → (s.port p).step = n →
    (n, limit, reason) ∈ [(2, 20000000, 1), (3, 5000000, 2), (4, 2000000, 3), (5, 1000000, 4), (6, 1000000, 5), (7, 50000000, 6)] →
    ∃ u, u = bumpPort 0x0C p (s.reach ((s.port p).stepAt + limit)) ∧
      exec (.bringupStepTimeout p) s = .next (enterIdle p (u.setPort p fun x => { x with lastFail := reason, failStep := x.step })))

/-- R249, R254 (Table 11.3): a training row in step 4 counts the markers, true or complemented, at each data position and ends
the step after 64 equal ones at every one; in step 5 it counts the LANEs of training blocks and ends the step after 64 equal
ones that are all different; in step 6 it ends the step once its TRCs lie within 15 rows of one another; in step 7 a record that
is not that of the row before on every lane is only remembered. R255, R256 (Table 11.4): a record that two rows in a row carry
on every lane is the neighbour's where it is of protocol 1, of a part or an endpoint and not this port's own, and FINAL is sent
once it echoes this port's NONCE; otherwise the attempt fails. -/
def Obligations.TrainingRowsAndIdentity : Prop :=
  (∀ s p (row up : List (BitVec 272)) x, p < 128 → row.length = 8 → x = s.port p → up = row.zipIdx.map (fun e => x.upright e.2 e.1) → x.state = .training →
      (x.step = 4 → ∃ runs u, runs = (x.markRuns.zip row).map (fun e => match markerSeen e.2 with
          | none => (none, 0)
          | some b => if e.1.1 == some b then (some b, e.1.2 + 1) else (some b, 1)) ∧
        u = s.setPort p (fun x => { x with markRuns := runs }) ∧
        (¬(∀ r ∈ runs, 64 ≤ r.2) → exec (.trainingRow p row) s = .next u) ∧
        ((∀ r ∈ runs, 64 ≤ r.2) → exec (.trainingRow p row) s = .next (nextStep p 5 (u.setPort p fun x => { x with
          polarity := BitVec.ofNat 8 ((runs.zipIdx.filter fun r => r.1.1 == some false).foldl (fun a r => a + 2 ^ r.2) 0) })))) ∧
      (x.step = 5 → ∃ runs u, runs = (x.laneRuns.zip up).map (fun e => if blockSync e.2 = syncTraining then
          (if e.1.1 == blockLane e.2 then (blockLane e.2, e.1.2 + 1) else (blockLane e.2, 1)) else (e.1.1, 0)) ∧
        u = s.setPort p (fun x => { x with laneRuns := runs }) ∧
        (¬((∀ r ∈ runs, 64 ≤ r.2) ∧ (runs.map (·.1)).eraseDups.length = 8) → exec (.trainingRow p row) s = .next u) ∧
        ((∀ r ∈ runs, 64 ≤ r.2) ∧ (runs.map (·.1)).eraseDups.length = 8 →
          exec (.trainingRow p row) s = .next (nextStep p 6 (u.setPort p fun x => { x with
            laneMap := BitVec.ofNat 24 (runs.zipIdx.foldl (fun a r => a + (r.1.1 % 8) <<< (3 * r.2)) 0) })))) ∧
      (x.step = 6 → exec (.trainingRow p row) s = .next (if (∀ b ∈ up, blockSync b = syncTraining) ∧
          (∀ a ∈ up, ∀ b ∈ up, trcAhead (blockTrc a) (blockTrc b) ≤ 15) then nextStep p 7 s else s)) ∧
      (x.step = 7 → ∃ u, u = countBlocks p syncTraining (up.map fun b => b.truncate 16) s ∧
        (rowIdent up = none ∨ (u.port p).lastIdent ≠ rowIdent up →
          exec (.trainingRow p row) s = .next (u.setPort p fun x => { x with lastIdent := rowIdent up })))) ∧
  (∀ s p (row up : List (BitVec 272)) x r u, p < 128 → row.length = 8 → x = s.port p → up = row.zipIdx.map (fun e => x.upright e.2 e.1) →
      x.state = .training → x.step = 7 → u = countBlocks p syncTraining (up.map fun b => b.truncate 16) s → rowIdent up = some r →
      (u.port p).lastIdent = some r →
      (identProto r = 1 → (identKind r = 1 ∨ identKind r = 2) →
        ¬(identSerial r = u.trust.serial.toNat ∧ identPort r = p ∧ identNonce r = (u.port p).nonce) →
        exec (.trainingRow p row) s = .next ((u.setPort p fun x => { x with lastIdent := some r }).setPort p fun x => { x with
          neighbour := r, peerNonce := identNonce r, gotRow := true, finalSent := x.finalSent || identPeerNonce r = x.nonce })) ∧
      (¬(identProto r = 1 ∧ (identKind r = 1 ∨ identKind r = 2)) →
        exec (.trainingRow p row) s = .next (failBringup p 7 (u.setPort p fun x => { x with lastIdent := some r }))) ∧
      (identProto r = 1 → (identKind r = 1 ∨ identKind r = 2) → identSerial r = u.trust.serial.toNat → identPort r = p →
        identNonce r = (u.port p).nonce → exec (.trainingRow p row) s = .next (failBringup p 8 (u.setPort p fun x => { x with lastIdent := some r }))))

/-- R249, R252, R256, R257, R259 (Tables 11.1, 11.2): the overheads of a data row count against the locks of its lanes and carry
its link control word. A port that is UP takes the credits of a valid word and its identity slice; in step 7 a word with CACK
ends bring-up once 16 FINAL rows have gone; an invalid word is counted in LCW_ERR and discarded, and the 16th in a row takes the
port down. -/
def Obligations.LinkControlWordsComplete : Prop :=
  (∀ s p (o bits : List (BitVec 16)) w u, p < 128 → o.length = 8 → bits = o.zipIdx.map (fun e => (s.port p).upright e.2 e.1) →
    w = (s.port p).wordOf bits → u = countBlocks p syncData bits s → (u.port p).state ≠ .idle → (s.portUp p ∨ ((s.port p).state = .training ∧ (s.port p).step = 7)) →
    (u.portUp p → lcwOk w → ∃ l, l = takeSlice w.toNat ((u.setLink p (takeCredits u.clock w.toNat)).link p) ∧
      (l.2 = none → exec (.linkControlWord p o) s = .next ((u.setLink p (takeCredits u.clock w.toNat)).setLink p fun _ => l.1)) ∧
      (∀ r, l.2 = some r → exec (.linkControlWord p o) s =
        .next (adoptIdent p r ((u.setLink p (takeCredits u.clock w.toNat)).setLink p fun _ => l.1)))) ∧
    (!u.portUp p → lcwOk w → ∃ v, v = (u.setLink p (takeCredits u.clock w.toNat)).setLink p (fun _ =>
        (takeSlice w.toNat ((u.setLink p (takeCredits u.clock w.toNat)).link p)).1) ∧
      exec (.linkControlWord p o) s = .next (if bitAt w.toNat 42 ∧ 16 ≤ (v.port p).finalRows then enterUp p v else v)) ∧
    (!lcwOk w → ∃ v, v = ((bumpPort 0x0E p u).setPort p fun x => { x with cleanSince := u.clock }).setLink p
        (fun l => { l with badWords := l.badWords + 1, sliceRun := 0 }) ∧
      exec (.linkControlWord p o) s = .next (if 16 ≤ (v.link p).badWords then portDown p false v else v))) ∧
  (∀ s p o u, p < 128 → o.length = 8 → s.portUp p → u = countBlocks p syncData (o.zipIdx.map fun e => (s.port p).upright e.2 e.1) s →
    (u.port p).state = .idle → exec (.linkControlWord p o) s = .next u) ∧
  (∀ s p o, p < 128 → o.length = 8 → (s.port p).state = .idle ∨ (s.port p).state = .off → exec (.linkControlWord p o) s = .next s)

/-- R238, R258, R259: without an echo for 8 µs a transmitter's rate rises by 2 to at most 64; 64 rows after GOING_IDLE an UP
port goes down; a detector's new LOS or loss of lock is counted once and takes an UP port down, and its end clears the mark.
R259, R260, R65 (Table 11.5): a port that leaves UP is counted in LINK_DOWN and starts again at step 1; its credits restart from
zero at the next CINIT, its staged and queued frames are flushed, the frame it was receiving is ended with TAINT, and every
generation that waits for a verdict through it is broken. A port that is not UP stays as it is. -/
def Obligations.LinkEventsAndPortDown : Prop :=
  ((∀ s p u, p < 128 → s.portUp p → u = s.reach ((s.link p).echoAt + 8000) →
      exec (.rateRecovery p) s = .next (u.setLink p fun l => { settleBucket u.clock l with rate := min 64 (l.rate + 2), echoAt := u.clock })) ∧
    (∀ s p t, p < 128 → s.portUp p → (s.link p).goingIdleAt = some t → exec (.goingIdleExpiry p) s = .next (portDown p false (s.reach (t + 82)))) ∧
    (∀ s p k u, p < 128 → k < 9 → !(s.port p).los.getLsbD k →
      u = (bumpPort 0x20 (9 * p + k) s).setPort p (fun x => { x with
        los := x.los ||| BitVec.ofNat 9 (2 ^ k), cleanSince := s.clock, losAt := if k = x.ckPosition then x.losAt else s.clock }) →
      exec (.losAssert p k) s = .next (if s.portUp p then portDown p false u else u)) ∧
    (∀ s p k, p < 128 → k < 9 → (s.port p).los.getLsbD k →
      exec (.losAssert p k) s = .next s ∧
      exec (.losClear p k) s = .next (s.setPort p fun x => { x with
        los := x.los &&& ~~~(BitVec.ofNat 9 (2 ^ k)), losAt := if k = x.ckPosition then x.losAt else s.clock })) ∧
    (∀ s p k u, p < 128 → k < 9 → !(s.port p).lol.getLsbD k →
      u = (bumpPort 0x21 (9 * p + k) s).setPort p (fun x => { x with lol := x.lol ||| BitVec.ofNat 9 (2 ^ k), cleanSince := s.clock }) →
      exec (.lossOfLock p k) s = .next (if s.portUp p then portDown p false u else u)) ∧
    (∀ s p, p < 128 → exec (.lockRegained p) s = .next (s.setPort p fun x =>
      { x with lol := x.lol &&& ~~~(BitVec.ofNat 9 (2 ^ (if x.ckReversed then 0 else 8))) }))) ∧
  (∀ s p, p < 128 → s.ports.length = 128 → s.links.length = 128 →
      (!s.portUp p → portDown p false s = s) ∧
      (s.portUp p → ∃ u, portDown p false s = settleBroadcasts (breakTrees p u) ∧
        ∃ v, u = (match truncatedFrame (s.link p) with
            | some f => admitFrame p true f (bumpPort 0x10 p (flushPort p v))
            | none => flushPort p v).setXbar (fun x => { x with joining := tdel p x.joining }) ∧
          v.counter 0x0D p = min 65535 (s.counter 0x0D p + 1) ∧ (v.port p).state = .idle ∧ (v.port p).neighbour = (s.port p).neighbour ∧
          (v.link p).creditIn = List.replicate 8 0 ∧ (v.link p).creditOut = List.replicate 8 0 ∧ (v.link p).sentCells = List.replicate 8 0 ∧
          v.traverses = s.traverses ∧ v.mailbox = s.mailbox ∧ v.trust = s.trust))

/-! ### Reads, the end of a command, and the resequencers -/

/-- R304, R305, R318, R327 (Tables 15.4, 15.8): a QUERY whose checks pass answers at once: the object's bytes go to the host's
buffer, and the completion gives OK, their length and the object's version; with the bus failed it gives CLOSURE and nothing is
written. FIELDBOOK_READ answers with the readable entries from FIRST on, each as the parcel sees it, LOST where the run stops
short of what the book holds. -/
def Obligations.ReadCommandsComplete : Prop :=
  (∀ c s d a, c.pair < 64 → s.takes c → d = s.loaded c → d.opcode = 1 → (∀ x ∈ commonChecks d s ++ firstChecks d 0 s, x.1 = false) →
    answer s d.parcel (d.arg 0 8) (d.arg 32 32) (d.arg 64 32) = some a → a.bytes.length ≤ d.len → a.allowed →
    (a.version.map d.staleUse).getD false = false →
    exec (.query c) s = .next (completeAtOnce d (s.pair c.pair).cmdHead (if d.dataOk then Status.ok else Status.closure)
      (packFields [(0, 32, if d.dataOk then a.bytes.length else 0), (32, 32, (a.version.getD 0).toNat)]) (a.version.getD 0)
      (putHost d a.bytes (takeCommand c.pair s)))) ∧
  (∀ c s d es, c.pair < 64 → s.takes c → d = s.loaded c → d.opcode = 2 → (∀ x ∈ commonChecks d s ++ firstChecks d 0 s, x.1 = false) →
    0 < d.arg 64 13 → d.arg 64 13 ≤ 4096 → 1024 * d.arg 64 13 ≤ d.len → s.book.kept → s.book.oldest ≤ d.arg 0 64 →
    es = s.bookRun (d.arg 0 64) (d.arg 64 13) →
    exec (.fieldbookRead c) s = .next (completeAtOnce d (s.pair c.pair).cmdHead
      (if !d.dataOk then Status.closure else if es.length < d.arg 64 13 ∧ d.arg 0 64 + es.length < s.book.next then Status.lost else Status.ok)
      (packFields [(0, 32, if d.dataOk then es.length else 0), (64, 64, s.book.oldest)]) 0
      (putHost d (es.flatMap (shownEntry d.parcel)) (forEach ((s.book.entries.filter fun e => d.arg 0 64 ≤ e.seq).take (d.arg 64 13)) (fun e u =>
        match u.bookCopies with
        | x :: _ => decodeCount x.2 (bookAt e.seq / 2048) false u
        | [] => u) (takeCommand c.pair s)))))

/-- R304, R316, R137, R138, R148, R150, R358: at the end of the effect of a command that is ready, what it still does is done,
the region it held is free, its entry in the field book is final and its completion is written; an APPLY ends after those
accepted before it and after the reads that precede it, and the reads that waited for it then go on. -/
def Obligations.CommandEffectEndCompletes : Prop :=
  ∀ s seq r u, s.mailbox.running.find? (fun r => r.seq = seq ∧ r.ready ∧ s.mayEnd r) = some r → u = performEnding r s →
    (!r.ending.isApply →
      exec (.commandEffectEnd seq) s = .next (completeRunning r u.2 (releaseRegion seq u.1))) ∧
    (r.ending.isApply →
      exec (.commandEffectEnd seq) s = .next (emitAll (completeRunning r u.2 (releaseRegion seq u.1)))) ∧
    (r.ending = .plain → u = (s, r.status)) ∧
    (∀ h a first n pair addr data ok, r.ending = .ledgerSave h a first n pair addr data ok →
      u = if ok then (writeHost pair addr false data s, r.status) else (s, Status.closure)) ∧
    (∀ h a first n crc zero data ok, r.ending = .ledgerLoad h a first n crc zero data ok → u = finishLoad h a first n crc zero data ok s) ∧
    (∀ h g sr a b c d e, r.ending = .apply h g sr a b c d e →
      u = applyRegion h g sr { clip := a.toNat, lr := b.toNat, c1 := c.toNat, c2 := d.toNat } s ∧
      (∀ o ∈ s.mailbox.running, o.seq < r.seq → !o.ending.isApply) ∧
      (∀ x ∈ s.traverses, ∀ y ∈ x.2.gens, e.contains (x.1, y.gen) → !s.readsOwed (h % 65536) x.2 y)) ∧
    (∀ slot crc data ok, r.ending = .fwStage slot crc data ok → u = stageImage (slot == 1) crc data ok s)

/-- R106, R107, R220 (Table 9.5): a frame that its resequencer does not sequence is delivered; one that has the number its flow
awaits is delivered with the held frames that follow it in order; one up to 4,095 ahead is held. R106, R107 (Table 9.5): 32 µs
after the oldest held frame arrived, the awaited hole of a flow is skipped, its held frames go on in order and the skip is
counted; 10 ms after its last frame and its last hole a flow that holds none is forgotten. -/
def Obligations.ResequencersDeliverAndRetire : Prop :=
  ((∀ s die rx rest, die ≤ 30 → (s.reseqAt die).arrivals = rx :: rest → (rx.handed ∨ !sequencedAt die rx.frame) →
      exec (.reseqFrameArrival die) s =
        .next (onPlace die (fun s => deliverRx die rx (s.setReseq die fun r => { r with arrivals := rest })) s)) ∧
    (∀ s die rx rest u f r, die < 30 → s.running (groupOfDie die) → (s.reseqAt die).arrivals = rx :: rest → !rx.handed → sequencedAt die rx.frame →
      u = (s.setGroup (groupOfDie die) fun x => { x with workAt := s.clock }).setReseq die (fun r => { r with arrivals := rest }) →
      (u.reseqAt die).flow? (rx.frame.srcPart, rx.frame.srcPort, rx.frame.flow) = some f →
      (u.reseqAt die).flows.foldl (fun a f => a + f.held.length) 0 < 65536 → r = f.take s.clock rx →
      exec (.reseqFrameArrival die) s = .next (forEach r.2.2 (fun d s => countSeq die d.1 (dropRx d.2 s)) (settleFlow die r.1 r.2.1 u))) ∧
    (∀ s chiplet rx rest, chiplet < 32 → (s.reseqAt (31 + chiplet)).arrivals = rx :: rest → (rx.handed ∨ !sequencedAt (31 + chiplet) rx.frame) →
      s.running (groupOfPort (4 * chiplet)) →
      ∃ u, u = ((s.setGroup (groupOfPort (4 * chiplet)) fun x => { x with workAt := s.clock }).setReseq (31 + chiplet)
          fun r => { r with arrivals := rest }) ∧
        exec (.egReseqFrameArrival chiplet) s = .next (dropRx rx (if u.portUp rx.port then sendOut rx.port rx.frame u else u))) ∧
    (∀ (f : Flow) rx now x, f.x = some x → !rx.frame.resync → BitVec.ofNat 24 rx.frame.seq = x →
      ∃ g out, f.take now rx = (g, rx :: out, []) ∧
        (g, out) = Flow.drain f.held.length { f with x := some (x + 1), lastAt := now }) ∧
    (∀ (f : Flow) rx now x d, f.x = some x → !rx.frame.resync → d = (BitVec.ofNat 24 rx.frame.seq - x).toNat → d ≠ 0 →
      (d ≤ 4095 → (∀ h ∈ f.held, h.seq ≠ BitVec.ofNat 24 rx.frame.seq) →
        f.take now rx = ({ f with held := f.held ++ [{ seq := BitVec.ofNat 24 rx.frame.seq, at_ := now, rx := rx }], lastAt := now }, [], [])) ∧
      (4095 < d → d < 2 ^ 23 → f.take now rx = ({ f with lastAt := now }, [], [(1, rx)])) ∧
      (2 ^ 23 ≤ d → f.take now rx = ({ f with lastAt := now }, [], [(0, rx)])))) ∧
  ((∀ s die a b c f t, die ≤ 30 → die < 30 → s.running (groupOfDie die) →
      ((s.setGroup (groupOfDie die) fun x => { x with workAt := s.clock }).reseqAt die).flow? (a, b, c) = some f → f.holeSince = some t →
      ∃ u, u = settleFlow die f.skip.1 f.skip.2.1 ((s.setGroup (groupOfDie die) fun x => { x with workAt := s.clock }).reach (t + 32000)) ∧
        exec (.holeSkip die a b c) s = .next (if f.skip.2.2 then u.bump 0x53 die else u)) ∧
    (∀ s chiplet a b c f t g, chiplet < 32 → g = groupOfPort (4 * chiplet) → s.running g →
      ((s.setGroup g fun x => { x with workAt := s.clock }).reseqAt (31 + chiplet)).flow? (a, b, c) = some f → f.holeSince = some t →
      ∃ u, u = settleFlow (31 + chiplet) f.skip.1 f.skip.2.1 ((s.setGroup g fun x => { x with workAt := s.clock }).reach (t + 32000)) ∧
        exec (.egHoleSkip chiplet a b c) s = .next (if f.skip.2.2 then u.bump 0x32 chiplet else u)) ∧
    (∀ s die a b c f, die ≤ 62 → (s.reseqAt die).flow? (a, b, c) = some f → f.held = [] →
      exec (.seqFlowRetire die a b c) s = .next ((s.reach (max f.lastAt f.busyAt + 10000000)).setReseq die (Reseq.dropFlow f))))

/-! ### Chainage and tallies -/

/-- R119, R120, R122, R123, R124 (Tables 5.1, 5.3): a timebase die meets its oldest good mark by the case of R119. A mark it
does not accept is counted, on the active die with a NACK in case 7; one it accepts becomes the stream's coordinate, and on the
active die its replica is copied to the standby and the matching and late actions fire in their order. R122, R125: the standby
holds the actions of a mark it accepts. An ordinal that its dies have received for the mark is not fired again. A tainted mark
is discarded. R119: the case of a mark. A stream that is OFF or another source's takes none; the same number repeats or
conflicts; a number or a STEP behind is BACK; the next number with at most the next STEP is accepted; anything further is SKIP. -/
def Obligations.StationMarksFollowTheirCases : Prop :=
  ((∀ s tb rx rest v n c m k u, tb < 2 → (s.timebases.getD tb {}).marks = rx :: rest → !rx.frame.taint → Frame.crcOk rx.frame → reservedOk rx.frame →
      rx.frame.payload = [] → v = s.setTimebase tb (fun b => { b with marks := rest }) → n = rx.frame.stream → c = markCoord rx.frame →
      m = BitVec.ofNat 32 (rx.frame.field 160 32) →
      k = markCase (v.streamAt tb n) (rx.port == (v.streamAt tb n).ingressPort && rx.frame.srcPart == (v.streamAt tb n).originPart &&
        rx.frame.srcPort == (v.streamAt tb n).originPort) c m → u = setStreamAt tb n (Stream.mark v.clock k c m) v →
      (k = 1 ∨ k = 4 ∨ k = 5 ∨ (tb ≠ s.refclk.active ∧ (k = 3 ∨ k = 7)) → exec (.stationMark { tb := tb }) s = .next u) ∧
      (tb ≠ s.refclk.active → k = 2 ∨ k = 6 → exec (.stationMark { tb := tb }) s = .next (holdActions n m c u)) ∧
      (tb = s.refclk.active → k = 7 → exec (.stationMark { tb := tb }) s = .next (sendNack tb n rx.frame.flow u)) ∧
      (tb = s.refclk.active → k = 3 ∨ k = 2 ∨ k = 6 → ∃ y w,
        y = RingSync.mk n (u.streamAt tb n) ∧ w = { u with ringSync := u.ringSync ++ [y] } ∧
        (k = 3 → exec (.stationMark { tb := tb }) s = .next w) ∧
        (k ≠ 3 → ∃ z, z = (if (v.streamAt tb n).state = .hold then stationEvent n (u.streamAt tb n) w else w) ∧
          exec (.stationMark { tb := tb }) s = .next (forEach (z.firedBy n c) (fireAction m c) z)))) ∧
    (∀ m c (a : Action) s, (∃ l, a.last = some l ∧ (m - l).toInt ≤ 0) → fireAction m c a s = s) ∧
    (∀ s tb rx rest, tb < 2 → (s.timebases.getD tb {}).marks = rx :: rest → rx.frame.taint ∨ !Frame.crcOk rx.frame →
      exec (.stationMark { tb := tb }) s = .next (s.setTimebase tb fun b => { b with marks := rest })) ∧
    (∀ (x : Stream) now c m, (x.mark now 2 c m).coord = c ∧ (x.mark now 2 c m).markNo = m ∧ (x.mark now 2 c m).state = .running ∧
      x.mark now 6 c m = x.mark now 2 c m ∧ (∀ k ∈ [1, 3, 4, 5, 7], (x.mark now k c m).coord = x.coord ∧ (x.mark now k c m).markNo = x.markNo ∧
        (x.mark now k c m).state = x.state))) ∧
  (∀ (x : Stream) src c n k, k = markCase x src c n →
      ((x.state = .off ∨ src = false) → k = 1) ∧
      (src = true → x.state = .unset → k = 2) ∧
      (src = true → x.state ≠ .off → x.state ≠ .unset →
        (n = x.markNo → c = x.coord → k = 3) ∧ (n = x.markNo → c ≠ x.coord → k = 4) ∧
        (n ≠ x.markNo → ((n - x.markNo).toInt < 0 ∨ c.step < x.coord.step) → k = 5) ∧
        (n = x.markNo + 1 → x.coord.step ≤ c.step → c.step ≤ x.coord.step + 1 → k = 6) ∧
        (n = x.markNo + 1 → x.coord.step + 1 < c.step → k = 7) ∧
        (n ≠ x.markNo → n ≠ x.markNo + 1 → 0 ≤ (n - x.markNo).toInt → x.coord.step ≤ c.step → k = 7)))

/-- R121, R122, R125, R126 (Table 5.2; which stream a bad word counts against is the model's choice, log 38, and so is how lost
records reach the machine, log 104): each timebase die that runs and has a stream with PIN set takes the pin's word, as a mark
of the stream it names when the word is good; a confirmed ordinal leaves the fired actions; the standby takes the whole replica
of a copy that differs from its own mark and counts it; a die whose record is lost copies the other's, and with both lost a
RUNNING or held stream returns to UNSET; a RUNNING stream that has had no mark for its TIMEOUT enters HOLD, and on the active
die the part reports it. -/
def Obligations.PinReplicaAndTimeoutComplete : Prop :=
  (∀ s (w : BitVec 128), exec (.stationInWord w) s =
    .next (forEach ((List.range 2).filter fun tb => !(s.timebases.getD tb {}).stopped && (s.timebases.getD tb {}).streams.any (·.pin))
      (fun tb => pinWord tb w.toNat) s)) ∧
  (∀ s tb w n x c, n = bitsAt w 88 6 → x = s.streamAt tb n → bitsAt w 0 16 = 0xB38F → bitsAt w 94 26 = 0 →
    bitsAt w 120 8 = crc8 0x07 0 (leBytes 15 w) →
    c = { step := bitsAt w 16 40, layer := bitsAt w 56 16, phase := bitsAt w 72 4, sub := bitsAt w 76 12 } →
    pinWord tb w s = meetMark tb n 0 x.pin c (if c = x.coord then x.markNo else x.markNo + 1) s) ∧
  (∀ s o, exec (.actionConfirm o) s = .next { s with fired := s.fired.eraseP fun f => f.issued && f.action.ordinal == o }) ∧
  (∀ s y rest tb z, s.ringSync = y :: rest → tb = 1 - s.refclk.active → !(s.timebases.getD tb {}).stopped → !(s.timebases.getD tb {}).awaits y →
    z = { s with ringSync := rest, fired := s.fired.filter fun f =>
      f.issued || f.action.trigger.stream != y.stream || decide (0 < (f.markNo - y.replica.markNo).toInt) } →
    exec .replicaSync s = .next (if (z.streamAt tb y.stream).agrees y.replica then z
      else (setStreamAt tb y.stream y.replica.follow z).bump 0x93 partWide)) ∧
  (∀ (x y : Stream), (y.follow x).coord = y.coord ∧ (y.follow x).markNo = y.markNo ∧ (y.follow x).state = y.state ∧
    (y.follow x).backRej = y.backRej ∧ (y.follow x).skipRej = y.skipRej ∧ (y.follow x).srcRej = y.srcRej ∧ (y.follow x).conflict = y.conflict ∧
    (y.follow x).repeats = y.repeats ∧ (y.follow x).timeouts = y.timeouts ∧ (y.follow x).markAt = y.markAt ∧ (y.follow x).nackAt = y.nackAt ∧
    (y.follow x).parcel = x.parcel ∧ (y.follow x).ingressPort = x.ingressPort ∧ (y.follow x).relay = x.relay) ∧
  (∀ s tb lost, tb < 2 → lost.all (fun e => e.1 < 2 && e.2 < 64) → exec (.stationMark { tb := tb, lost := lost }) s =
    exec (.stationMark { tb := tb }) (forEach (lost.map (·.2)).eraseDups
      (fun n => loseReplica n ((lost.filter fun e => e.2 = n).map (·.1))) s)) ∧
  (∀ s n tb, n < 64 → tb < 2 → (∀ j, j < 2 → !(s.timebases.getD j {}).stopped) →
    loseReplica n [tb] s = (if 1 - tb = s.refclk.active then (setStreamAt tb n (fun _ => s.streamAt (1 - tb) n) s).bump 0x93 partWide
      else setStreamAt tb n (fun _ => s.streamAt (1 - tb) n) s) ∧
    loseReplica n [0, 1] s = unsetStream n s) ∧
  (∀ s n, (s.stream n).state = .running ∨ (s.stream n).state = .hold → ∃ u,
    u = renewStream n (setStream n (fun x => { x with state := .unset, coord := {}, markNo := 0, intervals := [], marked := false }) s) ∧
    unsetStream n s = forEach (u.boundGroups n) exitIfDeep (stationEvent n (u.stream n) u)) ∧
  (∀ s tb n x u, tb < 2 → n < 64 → x = s.streamAt tb n → !(s.timebases.getD tb {}).stopped → x.state = .running →
    u = setStreamAt tb n (fun x => { x with state := .hold, timeouts := sat16 x.timeouts }) (s.reach (x.markAt + 1000 * x.timeoutUs)) →
    (tb ≠ s.refclk.active → exec (.stationTimeout tb n) s = .next u) ∧
    (tb = s.refclk.active → ∃ w, w = yieldEvent x.parcel 5 3 4 n 0 0xFFFF (stationEvent n (u.streamAt tb n) u) ∧
      exec (.stationTimeout tb n) s = .next (forEach (w.boundGroups n) exitIfDeep w)))

/-- R360, R366, R368 (Table 14.9): a hand-over that ends raises FW_INSTANCE; where it is done the standby timebase die has
become active, the staged slot runs and its image commits, where it is rolled back the running one stays; event 0x02 is
journaled, the FIRMWARE completion written and the events queued meanwhile are posted. -/
def Obligations.HandoverEndCompletes : Prop :=
  ∀ s since seq c slot outcome die, s.boot.handover = some (since, seq, c, slot) →
    (outcome = .done ∧ die = s.boot.rollbackDie ∨ ∃ d, outcome = .rolledBack d ∧ handoverDie d ∧ die = some (s.boot.rollbackDie.getD d)) →
    ∃ v u, v = (if die = none then switchSlot (slot == 1) (passActive s.refclk.active s) else s) ∧
      u = { v with boot := { v.boot with fwInstance := v.boot.fwInstance + 1, handover := none, rollbackDie := none, queuedEvents := [] } } ∧
      exec (.handoverEnd outcome) s = .next (forEach v.boot.queuedEvents (fun q => postEvent q.1 q.2.1 q.2.2.1 q.2.2.2)
        (postFirmware 3 (journalEvent 0x02 0xFFFF [(64, 1, if die = none then 1 else 2), (65, 1, bit u.boot.slotB), (68, 4, u.boot.fwInstance.toNat),
          (72, 8, seq), (80, 4, (v.clock - since) / 1000), (84, 1, die.getD 0xFF)] u)))

/-- R81, R82, R83 (Tables 3.10, 4.4): an ARRIVAL of the current round from a member that has not arrived is recorded; the last
one releases the round at the root and is passed to the parent elsewhere; any other is discarded and counted. A RELEASE of the
current round from the parent releases it here. T_h after the first arrival, the root releases the round with TIMEOUT and the
lowest late port, and any other part asks its parent, once; a TIMEOUT_REQ goes on toward the root, which releases the round with
its record. Where several causes reach the root together, R67's order picks the record (log 59). -/
def Obligations.TallyRoundsComplete : Prop :=
  (∀ s die rx u y, Delivers die 7 rx s → u = s.received die rx → u.tally rx.frame.traverse = some y →
    (y.genMode ∨ rx.frame.gen ≠ y.round ∨ !y.ports.contains rx.port ∨ y.arrived.contains rx.port →
      exec (.tallyArrival die) s = .next (u.bump 0x80 rx.frame.traverse)) ∧
    (¬(y.genMode ∨ rx.frame.gen ≠ y.round ∨ !y.ports.contains rx.port ∨ y.arrived.contains rx.port) → ∃ w,
      w = u.setTally rx.frame.traverse (fun y => { y with arrived := y.arrived ++ [rx.port], firstAt := if y.arrived.isEmpty then u.clock else y.firstAt }) ∧
      (y.arrived.length + 1 < y.expect → exec (.tallyArrival die) s = .next w) ∧
      (y.expect ≤ y.arrived.length + 1 → y.uptree = 0xFF → exec (.tallyArrival die) s = .next (releaseBarrier rx.frame.traverse 0 {} w)) ∧
      (y.expect ≤ y.arrived.length + 1 → y.uptree ≠ 0xFF → exec (.tallyArrival die) s =
        .next (sendControl 0 7 rx.frame.traverse y.round 0 0 [] [y.uptree] (w.setTally rx.frame.traverse fun y => { y with waitAt := some w.clock }))))) ∧
  (∀ s die rx u y st, Delivers die 8 rx s → u = s.received die rx → u.tally rx.frame.traverse = some y → !y.genMode → rx.frame.gen = y.round →
    y.uptree ≠ 0xFF → rx.port = y.uptree → st = (rx.frame.payload.headD 0).toNat → (st = 0 ∨ st = 6) →
    exec (.tallyRelease die) s = .next (releaseBarrier rx.frame.traverse st (abortRecOf (rx.frame.payload.drop 1)) u)) ∧
  (∀ s t y p ps u r, t < 4096 → s.tally t = some y → (y.ports.filter fun p => !y.arrived.contains p) = p :: ps → !y.genMode → y.arrived ≠ [] →
    !y.requested → u = s.reach (y.firstAt + (y.height + 1) * y.timeoutUs * 1000) →
    r = { gen := y.round, traverse := t, cause := 1, port := ps.foldl min p, part := s.routes.number } →
    exec (.tallyMemberLate t) s = .next (if y.uptree = 0xFF then releaseBarrier t 6 (u.settledTimeout t y ownRank r) u
      else sendControl 0 9 t y.round 0 0 r.bytes [y.uptree] (u.setTally t fun y => { y with requested := true }))) ∧
  (∀ s die rx u y, Delivers die 9 rx s → u = s.received die rx → u.tally rx.frame.traverse = some y → !y.genMode → y.ports.contains rx.port →
    exec (.timeoutReqFrame die) s = .next (if y.uptree ≠ 0xFF then sendToward (u.homePort rx.frame.traverse) rx.frame y.uptree u
      else if rx.frame.gen ≠ y.round then u.bump 0x80 rx.frame.traverse
      else releaseBarrier rx.frame.traverse 6 (u.settledTimeout rx.frame.traverse y rx.port (abortRecOf rx.frame.payload)) u)) ∧
  (∀ (s : State) t y port r, (∀ d ∈ s.dies, ∀ rx ∈ d.reseq.inbox, !(isControl 9 rx.frame && rx.frame.traverse == t)) →
    s.settledTimeout t y port r = r) ∧
  (∀ s t y st r, s.tally t = some y → ∃ u v,
    u = sendControl 0 8 t y.round 0 0 (releasePayload st (if st = 0 then none else some r)) y.ports s ∧
    v = (if st = 0 then settleSuspects t (u.setTally t Tally.recordLast) else u) ∧
    releaseBarrier t st r s = v.setTally t fun y => { y with
      round := y.round + 1, arrived := [], requested := false, waitAt := none, released := some (y.round, st, r), failedRound := st == 6
      timeouts := if st = 6 then y.timeouts + 1 else y.timeouts })

/-! ### The memories -/

/-- R268, R283, R284, R285: past 90% of its banks a die spills the chain R283 names into zeroed lines of its stack, or aborts
that generation for want of them (where it is complete, the first in R283's order that can abort: the model's choice, log 98);
the acknowledge makes the copy in HBM the accumulator; a fill decodes the lines, brings the chain back, frees them and lets the
chain go on its way; where a line does not decode the chain is lost, with cause POISON. -/
def Obligations.SpillAndFillComplete : Prop :=
  (∀ s die u t g a, die < 30 → s.running (groupOfDie die) → u = (s.setGroup (groupOfDie die) fun x => { x with workAt := s.clock }) →
    u.spillChoice die = some (t, g, a) →
    (∀ ls, takeLines u die (u.accLines t g) [] = some ls → exec (.spillStart die) s =
      .next (setAcc t g a.chain (fun a => { a with residency := .spilling, spilled := ls })
        (u.setStack die fun h => { h with spillLines := h.spillLines ++ ls }))) ∧
    (takeLines u die (u.accLines t g) [] = none → exec (.spillStart die) s =
      .next ((u.spillVictim die).elim u fun w => abortGen w.1 w.2.1 9 0xFF w.2.2.chain u)) ∧
    ((u.genOf t g).any Gen.isOpen → u.spillVictim die = some (t, g, a))) ∧
  (∀ s die t g ch, die < 30 → exec (.spillAck die t g ch) s =
    .next (setAcc t g ch (fun a => if a.die = die ∧ a.residency = .spilling then { a with residency := .hbm } else a) s)) ∧
  (∀ s die t g ch a u, die < 30 → s.accOf t g ch = some a → a.die = die → a.residency = .filling →
    u = forEach a.spilled (fun l u => decodeCount die l false u) s →
    ((∀ l ∈ a.spilled, s.decoded die l ≠ .lost) → exec (.fillDone die t g ch) s =
      .next (declareDue die (settleGen t g (setAcc t g ch (fun a => { a with residency := .sram, spilled := [] })
        (forEach a.spilled (fun l u => freeRange a.die (2048 * l) 2048
          (u.setStack a.die fun h => { h with spillLines := h.spillLines.filter (· ≠ l) })) u))))) ∧
    ((∃ l ∈ a.spilled, s.decoded die l = .lost) → exec (.fillDone die t g ch) s =
      .next (declareDue die (abortGen t g 3 0xFF ch (forgetKept t g ch u)))))

/-- R266, R268, R269, R272, R273, R274, R372 (Table 14.9): scrubbing decodes the next line of a stack that is not in
self-refresh, and a clean line changes nothing but the check cache; a map-out that is due starts when no region stands in its
block, spilled lines having moved, and ends, the faults its row reports (log 10) noted first, with the new map, the lines that
move decoded, those of a silent pseudo-channel lost, and event 0x07; zeroing makes the 2,048 bytes of the lowest line not yet zeroed read 0 and changes no other byte of HBM. -/
def Obligations.HbmMaintenanceCompletes : Prop :=
  (∀ s i w u line, i < 30 → faultsExist w → !s.pairFailed i → u = s.setStack i (noteFaults w) → line = (u.stack i).scrub →
    (2 ≤ (s.group (groupOfDie i)).state.depth → exec (.patrolScrubLine i w) s = .next u) ∧
    ((s.group (groupOfDie i)).state.depth < 2 → exec (.patrolScrubLine i w) s =
      .next (decodeLine i line (u.setStack i fun h => { h with scrub := (line + 1) % stackLines })))) ∧
  (∀ (s : State) i line, s.decoded i line = .clean → (s.stack i).failing = [] →
    decodeLine i line s = s.setStack i (touchChecks line 1 false)) ∧
  (∀ s i, i < 30 → s.mapoutDue i → s.blockReserved i = 0 →
    exec (.mapoutStart i) s = .next ((forEach ((s.stack i).spillLines.filter fun l => s.allocEnd i ≤ 2048 * l ∧ 2048 * l < s.allocTop i)
      (moveSpilled i) s).setStack i fun h => { h with mapout := .copying h.declared s.clock })) ∧
  (∀ r i w s set since top moves u v, i < 30 → faultsExist w → s = r.setStack i (noteFaults w) → (s.stack i).mapout = .copying set since →
    top = s.allocTop i / 2048 → moves = (fun l : Nat => homeLine top set l != homeLine top (s.stack i).mapped l) →
    u = forEach ((((s.stack i).errors.map (·.1.1)).eraseDups).filter fun l =>
      moves l && !(s.stack i).deaf.contains (homeLine top (s.stack i).mapped l % 64)) (decodeLine i) s →
    v = (loseMutedRest i set (forEach (u.regions.map (·.1)) (loseMuted i set) u)).setStack i (fun h =>
      { h with mapout := .idle, mapped := set, errors := h.errors.filter fun e => !moves e.1.1, badSectors := h.badSectors.filter fun k => !moves (k / 64) }) →
    exec (.mapoutDone i w) r = .next (if v.pairFailed i then v
      else journalEvent 0x07 0xFFFF [(64, 1, 0x60 + i), (72, 8, v.allocEnd i)] v)) ∧
  (∀ s i first n rest, i < 30 → s.hbmStacks.length = 30 → (s.stack i).unzeroed = (first, n) :: rest → !s.pairFailed i →
    ∃ t, exec (.zeroingLine i) s = .next t ∧
      (∀ x, Memory.read (t.stack i).mem x = if 2048 * first ≤ x ∧ x < 2048 * first + 2048 then 0 else Memory.read (s.stack i).mem x) ∧
      (t.stack i).unzeroed = runsTake (first, 1) (s.stack i).unzeroed ∧ (∀ j, j ≠ i → t.stack j = s.stack j) ∧
      t.traverses = s.traverses ∧ t.regions = s.regions ∧ t.mailbox = s.mailbox ∧ t.book = s.book ∧ t.trust = s.trust)

/-- R162, R268, R275, R276, R277, R278, R381 (Tables 12.5, 12.6): a good SCATTER frame that passes the checks is added entry by
entry, in order, to the elements of its stripe, each element read whole and written whole, and no other byte of any stack
changes; one that fails them is discarded and counted, one that meets an uncorrectable sector has no add applied, a tainted one
is discarded, and one whose stripe is being saved or loaded waits. R131, R133: where no line is in error, a store to a stripe
writes its bytes at their place in each copy the stripe has, and changes no other byte of any stack. -/
def Obligations.ScatterAddsComplete : Prop :=
  (∀ s die rx u, die < 30 → s.running (groupOfDie die) → headOf die (fun f => f.type == 11) s = some rx → !s.addWaits rx.frame →
      u = s.received die rx →
      (rx.frame.taint ∨ !Frame.crcOk rx.frame → exec (.scatterAdd die) s = .next u) ∧
      (!rx.frame.taint → Frame.crcOk rx.frame → scatterCheck u rx.frame = none → exec (.scatterAdd die) s = .next (u.bump 0x59 die)) ∧
      (∀ slot r es, !rx.frame.taint → Frame.crcOk rx.frame → scatterCheck u rx.frame = some (slot, r, es) →
        (∃ e ∈ es, u.sectorLost r rx.frame.stripe e.1 (r.bits 3 / 8)) →
        exec (.scatterAdd die) s = .next (loseSectors die slot rx.frame.stripe r es u)) ∧
      (∀ slot r es v, !rx.frame.taint → Frame.crcOk rx.frame → scatterCheck u rx.frame = some (slot, r, es) →
        (∀ e ∈ es, !u.sectorLost r rx.frame.stripe e.1 (r.bits 3 / 8)) → v = forEach es (addOne rx.frame.stripe rx.frame.vfmt r) u →
        exec (.scatterAdd die) s = .next (if r.accType = 1 then v.setRegion slot fun r => { r with addedSinceSave := true } else v))) ∧
  (∀ s die rx, die < 30 → headOf die (fun f => f.type == 11) s = some rx → s.addWaits rx.frame → exec (.scatterAdd die) s = .next s) ∧
  (∀ (s : State) stripe vfmt (r : Region) e i x size p, s.locate r 3 stripe 0 = some p → size = r.bits 3 / 8 → p.1 < s.hbmStacks.length →
    (p.1 ≠ i ∨ x < p.2 + e.1 * size ∨ p.2 + e.1 * size + size ≤ x →
      Memory.read ((addOne stripe vfmt r e s).stack i).mem x = Memory.read (s.stack i).mem x) ∧
    leNat (Memory.readBytes ((addOne stripe vfmt r e s).stack p.1).mem (p.2 + e.1 * size) size) =
      scatterAdd r vfmt e.2 (leNat (Memory.readBytes (s.stack p.1).mem (p.2 + e.1 * size) size)) % 2 ^ (8 * size)) ∧
  (∀ (s : State) slot r a st lo bs i x, (∀ j, (s.stack j).errors = [] ∧ (s.stack j).deaf = []) →
      (∀ c ∈ s.copiesOf r a st, ∀ p, s.locate r a st c = some p → p.1 ≠ i ∨ x < p.2 + lo ∨ p.2 + lo + bs.length ≤ x) →
      Memory.read ((writeStripe slot r a st lo bs s).stack i).mem x = Memory.read (s.stack i).mem x)

/-- R294, R295, R296, R323, R384 (Tables 13.3, 13.4, 18.4): a pool audit that ends writes its 3,600 bytes and makes its command
ready with the number of audits; the ledger audit that began first ends likewise, with the faults its row reports (log 10) noted
first; where the bus failed nothing is written. -/
def Obligations.AuditsComplete : Prop :=
  (∀ s w u, s.xbar.walk = some w → u = poolAudit w s → exec .poolAuditDone s =
    .next (auditReady w.seq w.busOk (if w.busOk then writeHost w.pair w.addr w.ring u.2 u.1 else u.1).xbar.audits.toNat
      (if w.busOk then writeHost w.pair w.addr w.ring u.2 u.1 else u.1))) ∧
  (∀ s w, (poolAudit w s).2.length = 3600) ∧
  (∀ a fs s w rest, fs.all (fun e => e.1 < 30 && faultsExist e.2) → s = forEach fs (fun e s => s.setStack e.1 (noteFaults e.2)) a →
    s.ledgerWalks = w :: rest → s.pairsRun (((s.regionAt w.handle).map fun r => s.regionPairs r.2).getD []) →
    exec (.ledgerAuditDone fs) a = .next (ledgerAudit w (workPairs (((s.regionAt w.handle).map fun r => s.regionPairs r.2).getD [])
      { s with ledgerWalks := rest }))) ∧
  (∀ s w, s.regionAt w.handle = none → ledgerAudit w s = auditReady w.seq w.busOk 0 s)

/-! ### Projection and contexts -/

/-- R58, R165, R180, R181, R186 (Tables 7.1, 7.2): a basis slot whose dies have their copies becomes READY with the constants of
R172, or EMPTY with CLOSURE, and its command is ready, each die's stationary tile of the slot being loaded anew (R182); a
self-test uses spare columns, an array with more than two failing ones is failed, and the die's projected chains go on; a
binding's previous slot and a traverse's previous context go once the oldest generation has reached the newer one's FIRST_GEN. -/
def Obligations.ProjectionRowsComplete : Prop :=
  (∀ s slot r n w k crc data ok b, slot < 8 → (s.bases.getD slot {}).state = .loading → s.projDies.all (fun i => !(s.die i).selfTestOwed) →
    s.mailbox.running.find? (fun r => r.loads slot) = some r → r.ending = .basisLoad n w k crc data ok →
    b = finishBasis w k crc data ok (s.bases.getD slot {}) →
    ∃ c u, c = (if s.mailbox.running.any (fun x => x.seq != r.seq && x.loads slot) then { b.1 with state := .loading } else b.1) ∧
      u = writeStores slot { s with bases := s.bases.set slot c } ∧ exec (.basisReady slot) s = .next (u.setMailbox fun m =>
      { m with running := m.running.map fun x => if x.seq = r.seq then { x with ready := true, status := b.2, ending := .plain } else x })) ∧
  (∀ w k crc data (b : Basis), finishBasis w k crc data false b = ({ b with state := .empty, sc := [], q := [], z := [], y := [] }, 7)) ∧
  (∀ w k crc data (b : Basis), crc32c (data.take (32 * 2 ^ w * k + k)) ≠ crc →
    finishBasis w k crc data true b = ({ b with state := .empty, sc := [], q := [], z := [], y := [] }, 7)) ∧
  (∀ w k crc data (b c : Basis) q sc, crc32c (data.take (32 * 2 ^ w * k + k)) = crc → basisOf w k data = some (q, sc) →
    c = { b with state := .ready, widthCode := w, rank := k, crc := BitVec.ofNat 32 crc, sc := sc, q := q } →
    finishBasis w k crc data true b = ({ c with z := c.zs, y := c.ys }, 0)) ∧
  (∀ (s : State) slot i, i < s.dies.length → ((writeStores slot s).die i).activeBasis ≠ some slot ∧
    (((s.die i).activeBasis ≠ some slot) → ((writeStores slot s).die i).activeBasis = (s.die i).activeBasis ∧
      ((writeStores slot s).die i).cells = (s.die i).cells)) ∧
  (∀ s die cs u, die < 30 → (s.die die).selfTestOwed → u = s.setDie die (softRepair cs) →
    exec (.arraySelftestDone die cs) s = .next (forEach u.traverses (fun e s => forEach e.2.gens (fun x s =>
      if (s.projection e.1 x.gen).isSome ∧ x.phase = .open_ then settleGen e.1 x.gen s else s) s) u)) ∧
  (∀ s t v, t < 4096 → s.traverse t = some v → exec (.bindingPrevClear t) s = .next { s with bindings := tmap t (fun b =>
    if b.prevValid ∧ ¬ before32 v.oldestGen b.firstGen then { b with prevValid := false } else b) s.bindings }) ∧
  (∀ s t v c first, t < 4096 → s.traverse t = some v → v.prev = some (c, first) → ¬ before32 v.oldestGen first →
    ∃ u, exec (.contextDrop t) s = .next u ∧ u.traverse t = some { v with prev := none } ∧ (∀ j, j ≠ t → u.traverse j = s.traverse j))

/-! ### The switch core -/

/-- R95, R97, R109, R110, R230, R237, R238, R250, R313, R343, R371, R399 (Tables 4.3, 9.8): the data rows of a port in UP or
step 7 join its stream by polarity, lane and scrambler. In the stream a filler word is passed over, a word that begins no header
passing HCRC is skipped, each run of them counting once, and a whole frame is cut where it ends. An echo in CE is taken. A frame
of a reserved type or subtype is counted and its credits returned; one that passes every check goes to the lookup, tainted and
counted where its CRC fails; before the routes are committed only a frame for MD passes. -/
def Obligations.LaneIngressCompletes : Prop :=
  (∀ s p rows, p < 128 → (∀ r ∈ rows, r.length = 8) →
    (s.portUp p ∨ ((s.port p).state = .training ∧ (s.port p).step = 7) →
      exec (.laneFrameIngress p rows) s = .next (forEach rows (takeRow p) (onGroup (groupOfPort p) id s))) ∧
    (!s.portUp p → ¬((s.port p).state = .training ∧ (s.port p).step = 7) → exec (.laneFrameIngress p rows) s = .next s)) ∧
  (∀ s p row r u, r = scrambleRow (s.link p).rxScr ((s.port p).byLane row) →
    u = s.setLink p (fun l => { l with rx := l.rx ++ bytesOfLanes 32 r.1, rxScr := r.2 }) →
    takeRow p row s = takeFrames ((u.link p).rx.length / 8 + 1) p u) ∧
  (∀ (l : Link) b rest n, l.rx = b :: rest →
    (b.toNat % 16 = 0 → frameStep l = some (8, none, false)) ∧
    (b.toNat % 16 ≠ 0 → 32 ≤ l.rx.length → !Frame.hcrcOk (cutFrame l.rx 0) → frameStep l = some (8, none, true)) ∧
    (b.toNat % 16 ≠ 0 → 32 ≤ l.rx.length → Frame.hcrcOk (cutFrame l.rx 0) → frontLen l.rx = some n →
      (l.rx.length < wireBytes n → frameStep l = none) ∧
      (wireBytes n ≤ l.rx.length → !stubInFront l.rx n → frameStep l = some (wireBytes n, some (cutFrame l.rx n), false)))) ∧
  (∀ s p fuel n, s.portUp p → !(s.link p).awaitAck →
    (frameStep (s.link p) = some (n, none, true) → ∃ u, u = s.setLink p (fun l => { l with rx := l.rx.drop n, skipping := true }) ∧
      takeFrames (fuel + 1) p s = takeFrames fuel p (if (s.link p).skipping then u else u.bump Counter.hdrErr p)) ∧
    (∀ f, frameStep (s.link p) = some (n, some f, false) → !(s.link p).rxVoid → takeFrames (fuel + 1) p s =
      takeFrames fuel p (ingressFrame p f (s.setLink p fun l => { l with rx := l.rx.drop n, skipping := false })))) ∧
  (∀ (s : State) p (f : Frame), f.ce → ingressFrame p f s =
    ingressFrame p { f with header := withHcrc (withBits f.header 8 1 0) } (s.setLink p (takeEchoIn s.clock))) ∧
  (∀ (s : State) p (f : Frame), !f.ce →
    (!typeOk f ∨ !subtypeOk f → ingressFrame p f s = returnCredits p f.vc (creditsOf f.payload.length) (s.bump Counter.portTypeErr p)) ∧
    (typeOk f → subtypeOk f →
      (f.taint → ingressFrame p f s = admitFrame p false f (s.bump Counter.taintSeen p)) ∧
      (!f.taint → Frame.crcOk f → ingressFrame p f s = admitFrame p false f s) ∧
      (!f.taint → !Frame.crcOk f → ingressFrame p f s = admitFrame p true (setTaint f) (s.bump Counter.crcErr p)))) ∧
  (∀ (s : State) p bad (f : Frame),
    (!mayStart (s.occupied p) f.vc (creditsOf f.payload.length) → admitFrame p bad f s = ingressCredits p f s (s.bump Counter.creditViol p)) ∧
    (mayStart (s.occupied p) f.vc (creditsOf f.payload.length) →
      (forMd s f → admitFrame p bad f s = ingressCredits p f s (stageFrame p p false f [Config.mdPort] s)) ∧
      (!forMd s f → !s.routes.committed → admitFrame p bad f s = ingressCredits p f s (s.bump Counter.noRoute partWide)) ∧
      (!forMd s f → s.routes.committed → foreignPort s p f → admitFrame p bad f s = ingressCredits p f s (s.bump Counter.platMiss p)) ∧
      (!forMd s f → s.routes.committed → !foreignPort s p f → admitFrame p bad f s = ingressCredits p f s (lookupFrame p bad f s))))

/-- R203, R204, R205, R206, R209, R212, R230, R239, R240, R289, R291 (Table 9.1): a waiting head frame gets its cells or counts
a stall, once a slot; a cell slot serves the standing matches, two rounds of grant and accept, the allocations and the credits
held back, frees at its end what was freed in it, and every port sends a row; a credit goes back at once where no limit holds
it, else at its turn, which injection throttling sets by the cells charged to the head frame's outputs; an idle output begins
the frame its arbiter chooses; a copy whose frame is whole leaves its output, its error handled first where a cell quarter did
not read. -/
def Obligations.CellsAndOutputsComplete : Prop :=
  (∀ s i vc, i < 159 → vc < 8 → !s.xbar.stopped → exec (.allocRetry i vc) s =
    .next (if (tryAlloc i vc s).2 then (tryAlloc i vc s).1 else countStall i (tryAlloc i vc s).1)) ∧
  (∀ s u v a b c, !s.xbar.stopped → s.running groupX → u = (s.setGroup groupX fun x => { x with workAt := s.clock }) →
    v = forEach (u.busyInputs.map groupOfXport).eraseDups wakeGroup u → a = standing u.xbar.threeSlice u.xbar.slots {} v →
    b = matchOnce u.xbar.threeSlice u.xbar.slots true (a.2.requests, a.1, a.2) → c = matchOnce u.xbar.threeSlice u.xbar.slots false b →
    exec .cellSlot s =
      .next (sendRows ((returnSlot u.xbar.slots (allocSlot c.2.2)).setXbar fun x => settleFreed { x with slots := u.xbar.slots + 1 }))) ∧
  (∀ s, s.xbar.stopped → exec .cellSlot s = .next (sendRows s)) ∧
  (∀ (s : State) p vc n, p < 128 → p < s.links.length → vc < (s.link p).owed.length → (s.link p).owed.getD vc 0 = 0 → !s.xbar.threeSlice →
    (s.returnGap p vc = 0 →
      (returnCredits p vc n s).link p = { s.link p with creditOut := (s.link p).creditOut.modify vc (· + n) }) ∧
    (s.returnGap p vc ≠ 0 → (returnCredits p vc n s).link p = { s.link p with owed := (s.link p).owed.modify vc (· + n) })) ∧
  (∀ (s : State) n p vc, (s.link p).owed.getD vc 0 ≠ 0 → s.returnGap p vc ≠ 0 →
    (n < (s.link p).returnAt.getD vc 0 → returnTurn n p vc s = s) ∧
    ((s.link p).returnAt.getD vc 0 ≤ n → returnTurn n p vc s =
      s.setLink p fun l => { l.release vc 1 with returnAt := (s.link p).returnAt.set vc (n + s.returnGap p vc) })) ∧
  (∀ (s : State) p vc m th, markAt vc = some (m, th) → s.endpointPort p →
    s.injectionGap p vc = if 2 * th ≤ s.headCharge p vc then 8 else if th ≤ s.headCharge p vc then 2 else 0) ∧
  (∀ s o q x d r u, o < 159 → (s.xbar.output o).sending = none → !s.xbar.stopped → chooseQueue s o = some (q, x) →
    (s.xbar.queue q).descs.head? = some d → s.xbar.record d.record = some r → s.running (groupOfXport o) →
    u = (s.setGroup (groupOfXport o) fun x => { x with workAt := s.clock }) →
    exec (.outputFrameStart o) s = .next (beginCopy o q d r { u with xbar := x })) ∧
  (∀ s o sd r, o < 159 → (s.xbar.output o).sending = some sd → s.xbar.record sd.desc.record = some r → r.cells ≤ r.written →
    exec (.outputFrameEnd o none) s = .next (settleBroadcasts (finishCopy o sd r s)) ∧
    (∀ k, k < 4 → exec (.outputFrameEnd o (some k)) s =
      .next (settleBroadcasts (finishCopy o ((((cellError o k sd s).xbar.output o).sending).getD sd) r (cellError o k sd s)))))

/-- R223, R225, R234, R235, R244, R330 (Tables 9.7, 9.8; the content of telemetry is the model's, log 31, and T(o) with no
active weight, log 30): when no frame of the previous epoch is left its routes go; a port joins its sets when nothing it waited
for is left; a head descriptor is dropped and counted after 10 ms; the thresholds are set every microsecond from the free cells;
each telemetry period the counters and events go out in frames of up to 256 records. -/
def Obligations.SwitchTimersComplete : Prop :=
  (∀ s, s.routes.prevOrdered = 0 → s.routes.prevOther = 0 → exec .epochDrained s = .next { s with routes := { s.routes with previous := [] } }) ∧
  (∀ s p ahead, p < 128 → tget p s.xbar.joining = some ahead → (∀ e ∈ ahead, !s.descWaits e) →
    exec (.sprayJoin p) s = .next { s with xbar := { s.xbar with joining := tdel p s.xbar.joining } }) ∧
  (∀ s q d rest u, q < 262144 → (s.xbar.queue q).descs = d :: rest →
    u = (s.reach (d.at_ + 10000000)).setXbar (fun x => x.setQueue q { descs := rest, deficit := if rest = [] then 0 else (x.queue q).deficit }) →
    exec (.descriptorAgeDrop q) s = .next (settleBroadcasts (releaseRef d.record (u.bump Counter.ageDrop (queuePort q))))) ∧
  (∀ s u, u = s.reach (s.xbar.thresholdsAt + 1000) →
    exec .bufferThresholdUpdate s = .next { u with xbar := { u.xbar with thresholds := newThresholds u, thresholdsAt := u.clock } } ∧
    (∀ all, all = ((((u.xbar.queues.map fun e => queuePort e.1).eraseDups.mergeSort).map fun o => outputWeight u o).foldl (· + ·) 0) → all ≠ 0 →
      ∀ o t, (o, t) ∈ newThresholds u → t = 4096 + u.xbar.freeCells * outputWeight u o / (2 * all))) ∧
  (∀ s u, s.monitor.periodUs ≠ 0 → s.routes.committed → !s.mailbox.failed → !s.isHalted 0x80 3 → u = s.reach (s.monitor.lastAt + 1000 * s.monitor.periodUs) → ∃ v,
    v = forEach (chunks 256 ((eventRecords u).length / 256 + 1) (eventRecords u)) (fun r s => if r.isEmpty then s else sendTelemetry 2 r s)
      (forEach (chunks 256 ((counterRecords u).length / 256 + 1) (counterRecords u)) (fun r s => if r.isEmpty then s else sendTelemetry 1 r s) u) ∧
    exec .telemetryPeriod s = .next { v with monitor := { v.monitor with lastAt := v.clock } })

/-- R227, R236 (Table 10.2): a frame staged toward outputs of which one has at least the mark threshold of its VC in cells
charged to it has CM set; every staged frame carries the current EPOCH and a valid HCRC, and keeps its payload. No mirror
session takes a copy here. -/
def Obligations.StagedFramesAreMarked : Prop :=
  ∀ s i a handed (f : Frame) ts h, ts ≠ [] → (∀ o ∈ ts, s.portUp o ∨ 128 ≤ o) →
    (∀ o ∈ ts, ∀ p, frameParcel s f = some p → s.granted p o (classOf f) ∨ 128 ≤ o) → (s.xbar.input i).staging = [] → (∀ m ∈ s.monitor.sessions, !m.valid) →
    h = (if (match markAt f.vc with | some (m, _) => ts.any fun o => m ≤ s.charged o (some f.vc) | none => false) then
      withBits (withBits f.header 9 2 s.routes.epoch) 7 1 1 else withBits f.header 9 2 s.routes.epoch) →
    ∃ u st, st.frame = { f with header := withHcrc h } ∧ st.targets = ts ∧ st.port = a ∧ st.mirror = none ∧
      (u.xbar.input i).staging = [st] ∧ stageFrame i a handed f ts s = askCells i f.vc u

/-! ### Collectives -/

/-- R112 (and R61-R63, R73, R80, R91, R103, R134, R218, R285, R400): a ledger die takes a chain frame that no earlier chain of
its member is still on the way before; it hands one of another die's chain on, lets one wait behind a fill, and checks the rest
in the order of R112, each frame raising one cause at most: membership, the generation's state, taint or CRC (MALFORMED), DATUM
and FMT (PROTOCOL), POISON, DUPLICATE, structure (MALFORMED), closure (CLOSURE); a frame that passes is added. -/
def Obligations.ChainFramesComplete : Prop :=
  (∀ s die rx u, die < 30 → headOf die (fun f => 1 ≤ f.type && f.type ≤ 4) s = some rx → !s.earlierInside die rx → s.running (groupOfDie die) →
    u = (s.setGroup (groupOfDie die) fun x => { x with workAt := s.clock }) →
    ((u.accDie rx.frame).getD die ≠ die → !rx.handed → exec (.ledgerFrameReceive die) s =
      .next (stageFrame (Config.diePort die) rx.port true rx.frame [Config.diePort ((u.accDie rx.frame).getD die)] (passHead die u))) ∧
    (((u.accDie rx.frame).getD die = die ∨ rx.handed) →
      (waitFor u die rx.frame = .yes → exec (.ledgerFrameReceive die) s = .next u) ∧
      (waitFor u die rx.frame = .fill → exec (.ledgerFrameReceive die) s = .next (u.setGen rx.frame.traverse rx.frame.gen fun x =>
        { x with accs := x.accs.map fun a => if a.chain = rx.frame.chain then { a with residency := .filling } else a })) ∧
      (waitFor u die rx.frame = .no → exec (.ledgerFrameReceive die) s = .next (receiveChain rx (takeHead die rx u))))) ∧
  (∀ (s : State) rx t g, t = rx.frame.traverse → g = rx.frame.gen →
    (s.traverse t = none → receiveChain rx s = s.bump Counter.discardClosed t) ∧
    (∀ v, s.traverse t = some v → (v.ctxAt g).entryFor rx.port rx.frame.type = none → receiveChain rx s = s.bump Counter.misdirected t) ∧
    (∀ v i w, s.traverse t = some v → (v.ctxAt g).entryFor rx.port rx.frame.type = some i → admitGen t g false .implicit none rx.port s = (w, false) →
      receiveChain rx s = w) ∧
    (∀ v i w v' x c e p, s.traverse t = some v → (v.ctxAt g).entryFor rx.port rx.frame.type = some i →
      admitGen t g false .implicit none rx.port s = (w, true) → w.traverse t = some v' → w.genOf t g = some x → c = v'.ctxAt g →
      e = c.entries.getD i {} → p = x.progress.getD i {} →
      ∃ bad : List (Prop × Nat), bad = [
          (rx.frame.taint ∨ !Frame.crcOk rx.frame, 4),
          (x.phase = .surveying ∨ rx.frame.fmt ≠ c.fmtFor rx.frame.type ∨ (rx.frame.type ≠ 4 ∧ rx.frame.datum ≠ x.datum), 6),
          (rx.frame.poison, 3),
          (p.sent.contains rx.frame.chain, 5),
          (rx.frame.type ≠ c.typeFrom e.role ∨ rx.frame.ckind ≠ c.ckindFor rx.frame.type ∨ !reservedOk rx.frame ∨ rx.frame.gap ∨
            (rx.frame.isEnd ∧ !rx.frame.last) ∨ rx.frame.payloadLen ≠ rx.frame.payload.length ∨ !p.allows rx.frame ∨
            parseChain w t g c x.datum e rx.frame = none, 4),
          (∃ q, parseChain w t g c x.datum e rx.frame = some q ∧ q.closure ≠ rx.frame.closure, 2)] ∧
        (∀ (k : Nat) (b : Prop × Nat), bad[k]? = some b → b.1 → (∀ (j : Nat), j < k → ∀ (a : Prop × Nat), bad[j]? = some a → ¬ a.1) →
          receiveChain rx s = abortGen t g b.2 rx.port rx.frame.chain w) ∧
        (∀ q y, (∀ b ∈ bad, ¬ b.1) → parseChain w t g c x.datum e rx.frame = some q → y = addInput t g c rx.frame.chain q.input w →
          receiveChain rx s = settleGen t g (y.setGen t g fun x =>
            { x with progress := x.progress.set i (p.after c e y.clock rx.frame q)
                     survey := if c.dmode = .carried ∧ rx.frame.type ≠ 4 then max x.survey rx.frame.survey else x.survey }))))

/-- R61, R71, R400: a survey is recorded for the surveying member it comes from, a second one aborts with DUPLICATE and one of a
generation not under SURVEY with PROTOCOL; an OPEN frame opens the generation where it may, one of a generation that is open is
passed on in its direction, and one with another D aborts it with PROTOCOL; a datum frame from the parent opens the generation
with its D, which goes on down. -/
def Obligations.SurveyOpenDatumComplete : Prop :=
  (∀ s die rx u v t g c m i w x, Delivers die 2 rx s → u = s.received die rx → t = rx.frame.traverse → g = rx.frame.gen → u.traverse t = some v →
    c = v.ctxAt g → c.entries.zipIdx.find? (fun e => e.1.port == rx.port && c.kind == .reduce &&
      ((e.1.role == .endpoint && e.1.rankCount > 0) || e.1.role == .child)) = some (m, i) →
    admitGen t g false .implicit none rx.port u = (w, true) → w.genOf t g = some x →
    exec (.surveyFrame die) s = .next (if !c.surveys then abortGen t g 6 rx.port noChain w
      else if x.phase ≠ .surveying ∨ (x.progress.getD i {}).surveyed then abortGen t g 5 rx.port noChain w
      else settleSurvey t g (w.setGen t g fun x => { x with survey := max x.survey rx.frame.survey
                                                            progress := lmap i (fun p => { p with surveyed := true, lastAt := w.clock }) x.progress }))) ∧
  (∀ s die rx u v t g c w x, Delivers die 1 rx s → u = s.received die rx → t = rx.frame.traverse → g = rx.frame.gen → u.traverse t = some v →
    c = v.ctxAt g → (c.fromParent rx.port ∨ (c.entryAt rx.port).isSome) →
    admitGen t g (c.fromParent rx.port) (if c.fromParent rx.port then .explicit else .implicit) (if c.dmode = .fixed then some rx.frame.datum else none)
      rx.port u = (w, true) → w.genOf t g = some x →
    ∃ how z, how = (if c.fromParent rx.port then .explicit else .implicit : How) ∧
      z = (if (v.gen? g).isSome then sendOpen t how g c x.datum w else w) ∧
      exec (.openFrame die) s = .next (if c.dmode ≠ .survey ∧ rx.frame.datum ≠ x.datum then abortGen t g 6 rx.port noChain w
        else if c.fromParent rx.port then z else touchMember t g rx.port z)) ∧
  (∀ s die rx u v t g c w x, Delivers die 3 rx s → u = s.received die rx → t = rx.frame.traverse → g = rx.frame.gen → u.traverse t = some v →
    c = v.ctxAt g → c.fromParent rx.port → admitGen t g true .explicit (some rx.frame.datum) rx.port u = (w, true) → w.genOf t g = some x →
    exec (.datumFrame die) s = .next (if x.phase = .surveying then
        sendControl 0 3 t g rx.frame.datum 0 [] c.downPorts (w.setGen t g fun x => { x with phase := .open_, datum := rx.frame.datum })
      else if (v.gen? g).isNone then sendControl 0 3 t g rx.frame.datum 0 [] c.downPorts w else w)) ∧
  (∀ s die rx u, Delivers die 2 rx s → u = s.received die rx → u.traverse rx.frame.traverse = none →
    exec (.surveyFrame die) s = .next (u.bump Counter.discardClosed rx.frame.traverse))

/-- R59, R62, R65, R66, R67, R68, R80, R113: DONE and ABORT_COMMON from the parent complete or abort the generation here; an
ABORT_REQ of a generation open here goes on toward the root, which aborts the generation with its record, or that of a cause of
higher priority that reached it with that one, unless it is complete; the verdict of a BROADCAST waits behind its chains; a
verdict or release query is answered from the outcome kept. -/
def Obligations.VerdictFramesComplete : Prop :=
  (∀ s die rx u w, Delivers die 4 rx s → !s.chainsInside rx.frame.traverse rx.frame.gen → u = s.received die rx →
    admitVerdict rx.frame.traverse rx.frame.gen rx.port u = (w, true) →
    exec (.doneFrame die) s = .next (completeHere rx.frame.traverse rx.frame.gen rx.frame.survey w)) ∧
  (∀ s die rx u w, Delivers die 5 rx s → u = s.received die rx → admitVerdict rx.frame.traverse rx.frame.gen rx.port u = (w, true) →
    exec (.abortCommonFrame die) s = .next (abortedHere rx.frame.traverse rx.frame.gen (abortRecOf rx.frame.payload) w)) ∧
  (∀ s die rx u w, Delivers die 5 rx s → u = s.received die rx → admitVerdict rx.frame.traverse rx.frame.gen rx.port u = (w, false) →
    exec (.abortCommonFrame die) s = .next w) ∧
  (∀ s die rx u v t g c, Delivers die 6 rx s → u = s.received die rx → t = rx.frame.traverse → g = rx.frame.gen → u.traverse t = some v →
    c = v.ctxAt g → (c.entryAt rx.port).isSome →
    (c.isRoot → ((v.gen? g).any (·.phase == .complete) || v.completed? g) → exec (.abortReqFrame die) s = .next (u.bump Counter.abortReqLate t)) ∧
    (∀ w, ¬(c.isRoot ∧ ((v.gen? g).any (·.phase == .complete) || v.completed? g)) →
      (admitGen t g false .implicit none rx.port u = (w, false) → exec (.abortReqFrame die) s = .next w) ∧
      (admitGen t g false .implicit none rx.port u = (w, true) →
        (!c.isRoot → exec (.abortReqFrame die) s = .next (sendToward (w.homePort t) rx.frame c.uptree w)) ∧
        (c.isRoot → exec (.abortReqFrame die) s = .next (finishAborted t g rx.port (abortRecOf rx.frame.payload) w))))) ∧
  (∀ a b : Nat × AbortRec, (causePriority a.2.cause < causePriority b.2.cause → firstCause a b = a) ∧
    (causePriority b.2.cause < causePriority a.2.cause → firstCause a b = b) ∧
    (causePriority a.2.cause = causePriority b.2.cause → firstCause a b = if b.1 < a.1 then b else a)) ∧
  (∀ s t g port r v, s.traverse t = some v → s.abortReqs t g (v.ctxAt g) = [] → s.linkedTo t g = [] →
    finishAborted t g port r s = abortedHere t g r s) ∧
  (∀ s t g c r, c.kind = .broadcast → s.chainsInside t g → sendAbort t g c r s =
    { s with owedVerdicts := s.owedVerdicts ++ [{ traverse := t, gen := g, record := r, ports := c.memberPorts }] }) ∧
  (∀ s die rx u v t g w, Delivers die 0xA rx s → u = s.received die rx → t = rx.frame.traverse → g = rx.frame.gen → u.traverse t = some v →
    v.verdicts.find? (fun w => w.gen = g) = some w → ((v.ctxAt g).entryAt rx.port).isSome →
    exec (.verdictQueryFrame die) s = .next (if w.phase = .complete then sendControl (v.ctxAt g).verdictVc 4 t g 0 w.survey [] [rx.port] u
      else sendControl (v.ctxAt g).verdictVc 5 t g 0 0 w.record.bytes [rx.port] u)) ∧
  (∀ s die rx u t y st r, Delivers die 0xB rx s → u = s.received die rx → t = rx.frame.traverse → u.tally t = some y → y.ports.contains rx.port →
    rx.frame.gen ≠ y.round → y.released = some (rx.frame.gen, st, r) →
    exec (.releaseQueryFrame die) s =
      .next (sendControl 0 8 t rx.frame.gen 0 0 (releasePayload st (if st = 0 ∧ !y.genMode then none else some r)) [rx.port] u))

/-- R61, R65, R80, R155, R157, R158, R224, R400: a result from the parent goes on to every receiving entry, and one that goes
nowhere has its credits returned; a serve request goes on toward the root, where a good one for a new layer opens a generation,
or waits while 8 are open; a queued layer opens when there is room. -/
def Obligations.ResultsAndServesComplete : Prop :=
  (∀ s rx rest u v t g c w ts z, s.xbar.lookup = rx :: rest → u = (s.setXbar fun x => { x with lookup := rest }) → t = rx.frame.traverse →
    g = rx.frame.gen → u.traverse t = some v → c = v.ctxAt g → c.kind = .broadcast → c.fromParent rx.port → !rx.handed →
    (v.gen? g).map (·.phase) ≠ some .aborting → admitGen t g true .explicit (some rx.frame.datum) rx.port u = (w, true) →
    ts = (if rx.frame.type = 5 then c.receiversOf rx.frame.chain else c.receivers).map (·.port) →
    z = (forwardDown rx.port rx.frame ts w) → exec .resultFrame s = .next (ingressCredits rx.port rx.frame s
      (settleBroadcast t (z.setGen t g fun x => { x with endSent := x.endSent || rx.frame.isEnd, sourceAt := z.clock })))) ∧
  (∀ s die rx u v t, die < 30 → s.running (groupOfDie die) → headOf die (fun f => f.type == 6) s = some rx → u = s.received die rx →
    !rx.frame.taint → Frame.crcOk rx.frame →
    (!reservedOk rx.frame → exec (.serveRequest die) s = .next (u.bump Counter.dieTypeErr die)) ∧
    (reservedOk rx.frame → t = rx.frame.traverse → u.traverse t = some v → v.ctx.kind = .broadcast →
    (!v.ctx.isRoot → exec (.serveRequest die) s = .next (sendToward (u.homePort t) rx.frame v.ctx.uptree u)) ∧
    (v.ctx.isRoot → v.ctx.receivers.any (fun e => e.port = rx.port) → rx.frame.chain % 2 ^ 24 = 0 → rx.frame.fmt = v.ctx.fmtOut →
      rx.frame.gen = 0 → v.ctx.entries.any (fun e => e.role = .region) →
      exec (.serveRequest die) s = .next (layerRequest t (rx.frame.chain / 2 ^ 24) none u)))) ∧
  (∀ (s : State) t l only v, s.traverse t = some v → s.layerChains v.ctx l ≤ 2 ^ 24 →
    (v.hasLayer l only → layerRequest t l only s = s.bump Counter.serveMerged t) ∧
    (!v.hasLayer l only → (v.state = .closing ∨ (s.sources v.ctx (some l)).any fun e => e.2.stateCode = 0) →
      layerRequest t l only s = s.bump Counter.serveRefused t) ∧
    (!v.hasLayer l only → v.state ≠ .closing → !(s.sources v.ctx (some l)).any (fun e => e.2.stateCode = 0) →
      (v.inWindow v.nextGen → v.queue = [] → layerRequest t l only s = openOne t .explicit none (some { layer := l, only := only }) s) ∧
      ((!v.inWindow v.nextGen ∨ v.queue ≠ []) → v.queue.length < 64 →
        layerRequest t l only s = s.setTraverse t fun v => { v with queue := v.queue ++ [(l, only)] }) ∧
      ((!v.inWindow v.nextGen ∨ v.queue ≠ []) → 64 ≤ v.queue.length → layerRequest t l only s = s.bump Counter.serveDrop t))) ∧
  (∀ s t v l only rest, t < 4096 → s.traverse t = some v → v.queue = (l, only) :: rest → v.inWindow v.nextGen → v.state ≠ .closing →
    exec (.layerGenerationOpen t) s = .next (openOne t .explicit none (some { layer := l, only := only })
      (s.setTraverse t fun v => { v with queue := rest })))

/-- R75, R76, R77, R113: a member that owes a survey or a chain and has been silent for T_h aborts the generation with
MEMBER_LATE and the chain it owes; the same of the source side of a broadcast (of a late parent with no chain: the model's
choice, log 84) and of a receiver that returns no credits; a part that has waited T_h for a verdict or a release asks its parent
and waits on. -/
def Obligations.GenerationTimersComplete : Prop :=
  (∀ s t g i v x c p, t < 4096 → s.traverse t = some v → s.genOf t g = some x → c = v.ctxAt g → p = x.progress.getD i {} → c.kind ≠ .broadcast →
    c.contributors.contains i → (x.phase = .surveying ∨ x.phase = .open_) → !p.ended →
    exec (.genMemberTimeout t g i) s = .next (abortGen t g 1 (c.entries.getD i {}).port (if x.phase = .surveying then noChain else p.owed)
      (s.reach (max x.openedAt p.lastAt + limitNs c.height c.timeoutUs)))) ∧
  (∀ s t g i v x c, t < 4096 → s.traverse t = some v → s.genOf t g = some x → c = v.ctxAt g → c.kind = .broadcast → x.phase = .open_ →
    (i = c.entries.length → !c.isRoot → !c.linkValid → !x.endSent → exec (.broadcastMemberTimeout t g i) s =
      .next (abortGen t g 1 c.uptree noChain (s.reach (max x.openedAt x.sourceAt + limitNs c.height c.timeoutUs)))) ∧
    (i < c.entries.length → c.owes (c.entries.getD i {}) → !(x.progress.getD i {}).ended → exec (.broadcastMemberTimeout t g i) s =
      .next (abortGen t g 1 (c.entries.getD i {}).port (x.progress.getD i {}).owed
        (s.reach (max x.openedAt (x.progress.getD i {}).lastAt + limitNs c.height c.timeoutUs)))) ∧
    (∀ w ws, i < c.entries.length → !c.owes (c.entries.getD i {}) → c.receivers.contains (c.entries.getD i {}) →
      s.waitingFor t g (c.entries.getD i {}).port = w :: ws → exec (.broadcastMemberTimeout t g i) s =
      .next (abortGen t g 1 (c.entries.getD i {}).port (ws.foldl (fun m q => min m q.1) w.1)
        (s.reach (max (max x.openedAt (s.link (c.entries.getD i {}).port).vc2At) (ws.foldl (fun m q => min m q.2) w.2) +
          limitNs c.height c.timeoutUs))))) ∧
  (∀ s t y a u, t < 4096 → s.tally t = some y → y.waitAt = some a → y.uptree ≠ 0xFF → u = s.reach (a + limitNs y.height y.timeoutUs) →
    exec (.verdictWaitTimeout true t y.round) s = .next (sendControl 0 0xB t y.round 0 0 [] [y.uptree]
      (u.setTally t fun y => { y with waitAt := some u.clock }))) ∧
  (∀ s t g v x c u, t < 4096 → s.traverse t = some v → s.genOf t g = some x → c = v.ctxAt g → !c.isRoot → (x.phase = .sent ∨ x.phase = .aborting) →
    u = s.reach (x.waitAt + limitNs c.height c.timeoutUs) →
    exec (.verdictWaitTimeout false t g) s = .next (sendControl 0 0xA t g 0 0 [] [c.uptree] (u.setGen t g fun x => { x with waitAt := u.clock })))
end

