-- ==== Sys2Proof/Laws/State.lean ====
section
/-! SUPPORT. Every update of Ops.lean by every field of State: what it writes, and that it leaves the rest alone. -/
namespace Sys2Proof.Laws
open Sys2Proof.Machine

/-! `State.setPort` -/

@[simp] theorem setPort_pending {s : State} {p f} : (s.setPort p f).pending = s.pending := rfl
@[simp] theorem setPort_clock {s : State} {p f} : (s.setPort p f).clock = s.clock := rfl
@[simp] theorem setPort_freeCount {s : State} {p f} : (s.setPort p f).freeCount = s.freeCount := rfl
@[simp] theorem setPort_sent {s : State} {p f} : (s.setPort p f).sent = s.sent := rfl
@[simp] theorem setPort_hostOut {s : State} {p f} : (s.setPort p f).hostOut = s.hostOut := rfl
@[simp] theorem setPort_trust {s : State} {p f} : (s.setPort p f).trust = s.trust := rfl
@[simp] theorem setPort_scan {s : State} {p f} : (s.setPort p f).scan = s.scan := rfl
@[simp] theorem setPort_dbg {s : State} {p f} : (s.setPort p f).dbg = s.dbg := rfl
@[simp] theorem setPort_pokes {s : State} {p f} : (s.setPort p f).pokes = s.pokes := rfl
@[simp] theorem setPort_boot {s : State} {p f} : (s.setPort p f).boot = s.boot := rfl
@[simp] theorem setPort_supply {s : State} {p f} : (s.setPort p f).supply = s.supply := rfl
@[simp] theorem setPort_refclk {s : State} {p f} : (s.setPort p f).refclk = s.refclk := rfl
@[simp] theorem setPort_groups {s : State} {p f} : (s.setPort p f).groups = s.groups := rfl
@[simp] theorem setPort_placement {s : State} {p f} : (s.setPort p f).placement = s.placement := rfl
@[simp] theorem setPort_mailbox {s : State} {p f} : (s.setPort p f).mailbox = s.mailbox := rfl
@[simp] theorem setPort_book {s : State} {p f} : (s.setPort p f).book = s.book := rfl
@[simp] theorem setPort_parcels {s : State} {p f} : (s.setPort p f).parcels = s.parcels := rfl
@[simp] theorem setPort_traverses {s : State} {p f} : (s.setPort p f).traverses = s.traverses := rfl
@[simp] theorem setPort_owedVerdicts {s : State} {p f} : (s.setPort p f).owedVerdicts = s.owedVerdicts := rfl
@[simp] theorem setPort_tallies {s : State} {p f} : (s.setPort p f).tallies = s.tallies := rfl
@[simp] theorem setPort_regions {s : State} {p f} : (s.setPort p f).regions = s.regions := rfl
@[simp] theorem setPort_ledgerWalks {s : State} {p f} : (s.setPort p f).ledgerWalks = s.ledgerWalks := rfl
@[simp] theorem setPort_serials {s : State} {p f} : (s.setPort p f).serials = s.serials := rfl
@[simp] theorem setPort_bases {s : State} {p f} : (s.setPort p f).bases = s.bases := rfl
@[simp] theorem setPort_bindings {s : State} {p f} : (s.setPort p f).bindings = s.bindings := rfl
@[simp] theorem setPort_actions {s : State} {p f} : (s.setPort p f).actions = s.actions := rfl
@[simp] theorem setPort_fired {s : State} {p f} : (s.setPort p f).fired = s.fired := rfl
@[simp] theorem setPort_ringSync {s : State} {p f} : (s.setPort p f).ringSync = s.ringSync := rfl
@[simp] theorem setPort_timebases {s : State} {p f} : (s.setPort p f).timebases = s.timebases := rfl
@[simp] theorem setPort_routes {s : State} {p f} : (s.setPort p f).routes = s.routes := rfl
@[simp] theorem setPort_monitor {s : State} {p f} : (s.setPort p f).monitor = s.monitor := rfl
@[simp] theorem setPort_ports {s : State} {p f} : (s.setPort p f).ports = lmap p f s.ports := rfl
@[simp] theorem setPort_links {s : State} {p f} : (s.setPort p f).links = s.links := rfl
@[simp] theorem setPort_chiplets {s : State} {p f} : (s.setPort p f).chiplets = s.chiplets := rfl
@[simp] theorem setPort_xbar {s : State} {p f} : (s.setPort p f).xbar = s.xbar := rfl
@[simp] theorem setPort_dies {s : State} {p f} : (s.setPort p f).dies = s.dies := rfl
@[simp] theorem setPort_hbmStacks {s : State} {p f} : (s.setPort p f).hbmStacks = s.hbmStacks := rfl
@[simp] theorem setPort_mdReseq {s : State} {p f} : (s.setPort p f).mdReseq = s.mdReseq := rfl
@[simp] theorem setPort_counters {s : State} {p f} : (s.setPort p f).counters = s.counters := rfl

/-! `State.setLink` -/

@[simp] theorem setLink_pending {s : State} {p f} : (s.setLink p f).pending = s.pending := rfl
@[simp] theorem setLink_clock {s : State} {p f} : (s.setLink p f).clock = s.clock := rfl
@[simp] theorem setLink_freeCount {s : State} {p f} : (s.setLink p f).freeCount = s.freeCount := rfl
@[simp] theorem setLink_sent {s : State} {p f} : (s.setLink p f).sent = s.sent := rfl
@[simp] theorem setLink_hostOut {s : State} {p f} : (s.setLink p f).hostOut = s.hostOut := rfl
@[simp] theorem setLink_trust {s : State} {p f} : (s.setLink p f).trust = s.trust := rfl
@[simp] theorem setLink_scan {s : State} {p f} : (s.setLink p f).scan = s.scan := rfl
@[simp] theorem setLink_dbg {s : State} {p f} : (s.setLink p f).dbg = s.dbg := rfl
@[simp] theorem setLink_pokes {s : State} {p f} : (s.setLink p f).pokes = s.pokes := rfl
@[simp] theorem setLink_boot {s : State} {p f} : (s.setLink p f).boot = s.boot := rfl
@[simp] theorem setLink_supply {s : State} {p f} : (s.setLink p f).supply = s.supply := rfl
@[simp] theorem setLink_refclk {s : State} {p f} : (s.setLink p f).refclk = s.refclk := rfl
@[simp] theorem setLink_groups {s : State} {p f} : (s.setLink p f).groups = s.groups := rfl
@[simp] theorem setLink_placement {s : State} {p f} : (s.setLink p f).placement = s.placement := rfl
@[simp] theorem setLink_mailbox {s : State} {p f} : (s.setLink p f).mailbox = s.mailbox := rfl
@[simp] theorem setLink_book {s : State} {p f} : (s.setLink p f).book = s.book := rfl
@[simp] theorem setLink_parcels {s : State} {p f} : (s.setLink p f).parcels = s.parcels := rfl
@[simp] theorem setLink_traverses {s : State} {p f} : (s.setLink p f).traverses = s.traverses := rfl
@[simp] theorem setLink_owedVerdicts {s : State} {p f} : (s.setLink p f).owedVerdicts = s.owedVerdicts := rfl
@[simp] theorem setLink_tallies {s : State} {p f} : (s.setLink p f).tallies = s.tallies := rfl
@[simp] theorem setLink_regions {s : State} {p f} : (s.setLink p f).regions = s.regions := rfl
@[simp] theorem setLink_ledgerWalks {s : State} {p f} : (s.setLink p f).ledgerWalks = s.ledgerWalks := rfl
@[simp] theorem setLink_serials {s : State} {p f} : (s.setLink p f).serials = s.serials := rfl
@[simp] theorem setLink_bases {s : State} {p f} : (s.setLink p f).bases = s.bases := rfl
@[simp] theorem setLink_bindings {s : State} {p f} : (s.setLink p f).bindings = s.bindings := rfl
@[simp] theorem setLink_actions {s : State} {p f} : (s.setLink p f).actions = s.actions := rfl
@[simp] theorem setLink_fired {s : State} {p f} : (s.setLink p f).fired = s.fired := rfl
@[simp] theorem setLink_ringSync {s : State} {p f} : (s.setLink p f).ringSync = s.ringSync := rfl
@[simp] theorem setLink_timebases {s : State} {p f} : (s.setLink p f).timebases = s.timebases := rfl
@[simp] theorem setLink_routes {s : State} {p f} : (s.setLink p f).routes = s.routes := rfl
@[simp] theorem setLink_monitor {s : State} {p f} : (s.setLink p f).monitor = s.monitor := rfl
@[simp] theorem setLink_ports {s : State} {p f} : (s.setLink p f).ports = s.ports := rfl
@[simp] theorem setLink_links {s : State} {p f} : (s.setLink p f).links = lmap p f s.links := rfl
@[simp] theorem setLink_chiplets {s : State} {p f} : (s.setLink p f).chiplets = s.chiplets := rfl
@[simp] theorem setLink_xbar {s : State} {p f} : (s.setLink p f).xbar = s.xbar := rfl
@[simp] theorem setLink_dies {s : State} {p f} : (s.setLink p f).dies = s.dies := rfl
@[simp] theorem setLink_hbmStacks {s : State} {p f} : (s.setLink p f).hbmStacks = s.hbmStacks := rfl
@[simp] theorem setLink_mdReseq {s : State} {p f} : (s.setLink p f).mdReseq = s.mdReseq := rfl
@[simp] theorem setLink_counters {s : State} {p f} : (s.setLink p f).counters = s.counters := rfl

/-! `State.setDie` -/

@[simp] theorem setDie_pending {s : State} {i f} : (s.setDie i f).pending = s.pending := rfl
@[simp] theorem setDie_clock {s : State} {i f} : (s.setDie i f).clock = s.clock := rfl
@[simp] theorem setDie_freeCount {s : State} {i f} : (s.setDie i f).freeCount = s.freeCount := rfl
@[simp] theorem setDie_sent {s : State} {i f} : (s.setDie i f).sent = s.sent := rfl
@[simp] theorem setDie_hostOut {s : State} {i f} : (s.setDie i f).hostOut = s.hostOut := rfl
@[simp] theorem setDie_trust {s : State} {i f} : (s.setDie i f).trust = s.trust := rfl
@[simp] theorem setDie_scan {s : State} {i f} : (s.setDie i f).scan = s.scan := rfl
@[simp] theorem setDie_dbg {s : State} {i f} : (s.setDie i f).dbg = s.dbg := rfl
@[simp] theorem setDie_pokes {s : State} {i f} : (s.setDie i f).pokes = s.pokes := rfl
@[simp] theorem setDie_boot {s : State} {i f} : (s.setDie i f).boot = s.boot := rfl
@[simp] theorem setDie_supply {s : State} {i f} : (s.setDie i f).supply = s.supply := rfl
@[simp] theorem setDie_refclk {s : State} {i f} : (s.setDie i f).refclk = s.refclk := rfl
@[simp] theorem setDie_groups {s : State} {i f} : (s.setDie i f).groups = s.groups := rfl
@[simp] theorem setDie_placement {s : State} {i f} : (s.setDie i f).placement = s.placement := rfl
@[simp] theorem setDie_mailbox {s : State} {i f} : (s.setDie i f).mailbox = s.mailbox := rfl
@[simp] theorem setDie_book {s : State} {i f} : (s.setDie i f).book = s.book := rfl
@[simp] theorem setDie_parcels {s : State} {i f} : (s.setDie i f).parcels = s.parcels := rfl
@[simp] theorem setDie_traverses {s : State} {i f} : (s.setDie i f).traverses = s.traverses := rfl
@[simp] theorem setDie_owedVerdicts {s : State} {i f} : (s.setDie i f).owedVerdicts = s.owedVerdicts := rfl
@[simp] theorem setDie_tallies {s : State} {i f} : (s.setDie i f).tallies = s.tallies := rfl
@[simp] theorem setDie_regions {s : State} {i f} : (s.setDie i f).regions = s.regions := rfl
@[simp] theorem setDie_ledgerWalks {s : State} {i f} : (s.setDie i f).ledgerWalks = s.ledgerWalks := rfl
@[simp] theorem setDie_serials {s : State} {i f} : (s.setDie i f).serials = s.serials := rfl
@[simp] theorem setDie_bases {s : State} {i f} : (s.setDie i f).bases = s.bases := rfl
@[simp] theorem setDie_bindings {s : State} {i f} : (s.setDie i f).bindings = s.bindings := rfl
@[simp] theorem setDie_actions {s : State} {i f} : (s.setDie i f).actions = s.actions := rfl
@[simp] theorem setDie_fired {s : State} {i f} : (s.setDie i f).fired = s.fired := rfl
@[simp] theorem setDie_ringSync {s : State} {i f} : (s.setDie i f).ringSync = s.ringSync := rfl
@[simp] theorem setDie_timebases {s : State} {i f} : (s.setDie i f).timebases = s.timebases := rfl
@[simp] theorem setDie_routes {s : State} {i f} : (s.setDie i f).routes = s.routes := rfl
@[simp] theorem setDie_monitor {s : State} {i f} : (s.setDie i f).monitor = s.monitor := rfl
@[simp] theorem setDie_ports {s : State} {i f} : (s.setDie i f).ports = s.ports := rfl
@[simp] theorem setDie_links {s : State} {i f} : (s.setDie i f).links = s.links := rfl
@[simp] theorem setDie_chiplets {s : State} {i f} : (s.setDie i f).chiplets = s.chiplets := rfl
@[simp] theorem setDie_xbar {s : State} {i f} : (s.setDie i f).xbar = s.xbar := rfl
@[simp] theorem setDie_dies {s : State} {i f} : (s.setDie i f).dies = lmap i f s.dies := rfl
@[simp] theorem setDie_hbmStacks {s : State} {i f} : (s.setDie i f).hbmStacks = s.hbmStacks := rfl
@[simp] theorem setDie_mdReseq {s : State} {i f} : (s.setDie i f).mdReseq = s.mdReseq := rfl
@[simp] theorem setDie_counters {s : State} {i f} : (s.setDie i f).counters = s.counters := rfl

/-! `State.setStack` -/

@[simp] theorem setStack_pending {s : State} {i f} : (s.setStack i f).pending = s.pending := rfl
@[simp] theorem setStack_clock {s : State} {i f} : (s.setStack i f).clock = s.clock := rfl
@[simp] theorem setStack_freeCount {s : State} {i f} : (s.setStack i f).freeCount = s.freeCount := rfl
@[simp] theorem setStack_sent {s : State} {i f} : (s.setStack i f).sent = s.sent := rfl
@[simp] theorem setStack_hostOut {s : State} {i f} : (s.setStack i f).hostOut = s.hostOut := rfl
@[simp] theorem setStack_trust {s : State} {i f} : (s.setStack i f).trust = s.trust := rfl
@[simp] theorem setStack_scan {s : State} {i f} : (s.setStack i f).scan = s.scan := rfl
@[simp] theorem setStack_dbg {s : State} {i f} : (s.setStack i f).dbg = s.dbg := rfl
@[simp] theorem setStack_pokes {s : State} {i f} : (s.setStack i f).pokes = s.pokes := rfl
@[simp] theorem setStack_boot {s : State} {i f} : (s.setStack i f).boot = s.boot := rfl
@[simp] theorem setStack_supply {s : State} {i f} : (s.setStack i f).supply = s.supply := rfl
@[simp] theorem setStack_refclk {s : State} {i f} : (s.setStack i f).refclk = s.refclk := rfl
@[simp] theorem setStack_groups {s : State} {i f} : (s.setStack i f).groups = s.groups := rfl
@[simp] theorem setStack_placement {s : State} {i f} : (s.setStack i f).placement = s.placement := rfl
@[simp] theorem setStack_mailbox {s : State} {i f} : (s.setStack i f).mailbox = s.mailbox := rfl
@[simp] theorem setStack_book {s : State} {i f} : (s.setStack i f).book = s.book := rfl
@[simp] theorem setStack_parcels {s : State} {i f} : (s.setStack i f).parcels = s.parcels := rfl
@[simp] theorem setStack_traverses {s : State} {i f} : (s.setStack i f).traverses = s.traverses := rfl
@[simp] theorem setStack_owedVerdicts {s : State} {i f} : (s.setStack i f).owedVerdicts = s.owedVerdicts := rfl
@[simp] theorem setStack_tallies {s : State} {i f} : (s.setStack i f).tallies = s.tallies := rfl
@[simp] theorem setStack_regions {s : State} {i f} : (s.setStack i f).regions = s.regions := rfl
@[simp] theorem setStack_ledgerWalks {s : State} {i f} : (s.setStack i f).ledgerWalks = s.ledgerWalks := rfl
@[simp] theorem setStack_serials {s : State} {i f} : (s.setStack i f).serials = s.serials := rfl
@[simp] theorem setStack_bases {s : State} {i f} : (s.setStack i f).bases = s.bases := rfl
@[simp] theorem setStack_bindings {s : State} {i f} : (s.setStack i f).bindings = s.bindings := rfl
@[simp] theorem setStack_actions {s : State} {i f} : (s.setStack i f).actions = s.actions := rfl
@[simp] theorem setStack_fired {s : State} {i f} : (s.setStack i f).fired = s.fired := rfl
@[simp] theorem setStack_ringSync {s : State} {i f} : (s.setStack i f).ringSync = s.ringSync := rfl
@[simp] theorem setStack_timebases {s : State} {i f} : (s.setStack i f).timebases = s.timebases := rfl
@[simp] theorem setStack_routes {s : State} {i f} : (s.setStack i f).routes = s.routes := rfl
@[simp] theorem setStack_monitor {s : State} {i f} : (s.setStack i f).monitor = s.monitor := rfl
@[simp] theorem setStack_ports {s : State} {i f} : (s.setStack i f).ports = s.ports := rfl
@[simp] theorem setStack_links {s : State} {i f} : (s.setStack i f).links = s.links := rfl
@[simp] theorem setStack_chiplets {s : State} {i f} : (s.setStack i f).chiplets = s.chiplets := rfl
@[simp] theorem setStack_xbar {s : State} {i f} : (s.setStack i f).xbar = s.xbar := rfl
@[simp] theorem setStack_dies {s : State} {i f} : (s.setStack i f).dies = s.dies := rfl
@[simp] theorem setStack_hbmStacks {s : State} {i f} : (s.setStack i f).hbmStacks = lmap i f s.hbmStacks := rfl
@[simp] theorem setStack_mdReseq {s : State} {i f} : (s.setStack i f).mdReseq = s.mdReseq := rfl
@[simp] theorem setStack_counters {s : State} {i f} : (s.setStack i f).counters = s.counters := rfl

/-! `State.setMailbox` -/

@[simp] theorem setMailbox_pending {s : State} {f} : (s.setMailbox f).pending = s.pending := rfl
@[simp] theorem setMailbox_clock {s : State} {f} : (s.setMailbox f).clock = s.clock := rfl
@[simp] theorem setMailbox_freeCount {s : State} {f} : (s.setMailbox f).freeCount = s.freeCount := rfl
@[simp] theorem setMailbox_sent {s : State} {f} : (s.setMailbox f).sent = s.sent := rfl
@[simp] theorem setMailbox_hostOut {s : State} {f} : (s.setMailbox f).hostOut = s.hostOut := rfl
@[simp] theorem setMailbox_trust {s : State} {f} : (s.setMailbox f).trust = s.trust := rfl
@[simp] theorem setMailbox_scan {s : State} {f} : (s.setMailbox f).scan = s.scan := rfl
@[simp] theorem setMailbox_dbg {s : State} {f} : (s.setMailbox f).dbg = s.dbg := rfl
@[simp] theorem setMailbox_pokes {s : State} {f} : (s.setMailbox f).pokes = s.pokes := rfl
@[simp] theorem setMailbox_boot {s : State} {f} : (s.setMailbox f).boot = s.boot := rfl
@[simp] theorem setMailbox_supply {s : State} {f} : (s.setMailbox f).supply = s.supply := rfl
@[simp] theorem setMailbox_refclk {s : State} {f} : (s.setMailbox f).refclk = s.refclk := rfl
@[simp] theorem setMailbox_groups {s : State} {f} : (s.setMailbox f).groups = s.groups := rfl
@[simp] theorem setMailbox_placement {s : State} {f} : (s.setMailbox f).placement = s.placement := rfl
@[simp] theorem setMailbox_mailbox {s : State} {f} : (s.setMailbox f).mailbox = f s.mailbox := rfl
@[simp] theorem setMailbox_book {s : State} {f} : (s.setMailbox f).book = s.book := rfl
@[simp] theorem setMailbox_parcels {s : State} {f} : (s.setMailbox f).parcels = s.parcels := rfl
@[simp] theorem setMailbox_traverses {s : State} {f} : (s.setMailbox f).traverses = s.traverses := rfl
@[simp] theorem setMailbox_owedVerdicts {s : State} {f} : (s.setMailbox f).owedVerdicts = s.owedVerdicts := rfl
@[simp] theorem setMailbox_tallies {s : State} {f} : (s.setMailbox f).tallies = s.tallies := rfl
@[simp] theorem setMailbox_regions {s : State} {f} : (s.setMailbox f).regions = s.regions := rfl
@[simp] theorem setMailbox_ledgerWalks {s : State} {f} : (s.setMailbox f).ledgerWalks = s.ledgerWalks := rfl
@[simp] theorem setMailbox_serials {s : State} {f} : (s.setMailbox f).serials = s.serials := rfl
@[simp] theorem setMailbox_bases {s : State} {f} : (s.setMailbox f).bases = s.bases := rfl
@[simp] theorem setMailbox_bindings {s : State} {f} : (s.setMailbox f).bindings = s.bindings := rfl
@[simp] theorem setMailbox_actions {s : State} {f} : (s.setMailbox f).actions = s.actions := rfl
@[simp] theorem setMailbox_fired {s : State} {f} : (s.setMailbox f).fired = s.fired := rfl
@[simp] theorem setMailbox_ringSync {s : State} {f} : (s.setMailbox f).ringSync = s.ringSync := rfl
@[simp] theorem setMailbox_timebases {s : State} {f} : (s.setMailbox f).timebases = s.timebases := rfl
@[simp] theorem setMailbox_routes {s : State} {f} : (s.setMailbox f).routes = s.routes := rfl
@[simp] theorem setMailbox_monitor {s : State} {f} : (s.setMailbox f).monitor = s.monitor := rfl
@[simp] theorem setMailbox_ports {s : State} {f} : (s.setMailbox f).ports = s.ports := rfl
@[simp] theorem setMailbox_links {s : State} {f} : (s.setMailbox f).links = s.links := rfl
@[simp] theorem setMailbox_chiplets {s : State} {f} : (s.setMailbox f).chiplets = s.chiplets := rfl
@[simp] theorem setMailbox_xbar {s : State} {f} : (s.setMailbox f).xbar = s.xbar := rfl
@[simp] theorem setMailbox_dies {s : State} {f} : (s.setMailbox f).dies = s.dies := rfl
@[simp] theorem setMailbox_hbmStacks {s : State} {f} : (s.setMailbox f).hbmStacks = s.hbmStacks := rfl
@[simp] theorem setMailbox_mdReseq {s : State} {f} : (s.setMailbox f).mdReseq = s.mdReseq := rfl
@[simp] theorem setMailbox_counters {s : State} {f} : (s.setMailbox f).counters = s.counters := rfl

/-! `State.setPair` -/

@[simp] theorem setPair_pending {s : State} {n f} : (s.setPair n f).pending = s.pending := rfl
@[simp] theorem setPair_clock {s : State} {n f} : (s.setPair n f).clock = s.clock := rfl
@[simp] theorem setPair_freeCount {s : State} {n f} : (s.setPair n f).freeCount = s.freeCount := rfl
@[simp] theorem setPair_sent {s : State} {n f} : (s.setPair n f).sent = s.sent := rfl
@[simp] theorem setPair_hostOut {s : State} {n f} : (s.setPair n f).hostOut = s.hostOut := rfl
@[simp] theorem setPair_trust {s : State} {n f} : (s.setPair n f).trust = s.trust := rfl
@[simp] theorem setPair_scan {s : State} {n f} : (s.setPair n f).scan = s.scan := rfl
@[simp] theorem setPair_dbg {s : State} {n f} : (s.setPair n f).dbg = s.dbg := rfl
@[simp] theorem setPair_pokes {s : State} {n f} : (s.setPair n f).pokes = s.pokes := rfl
@[simp] theorem setPair_boot {s : State} {n f} : (s.setPair n f).boot = s.boot := rfl
@[simp] theorem setPair_supply {s : State} {n f} : (s.setPair n f).supply = s.supply := rfl
@[simp] theorem setPair_refclk {s : State} {n f} : (s.setPair n f).refclk = s.refclk := rfl
@[simp] theorem setPair_groups {s : State} {n f} : (s.setPair n f).groups = s.groups := rfl
@[simp] theorem setPair_placement {s : State} {n f} : (s.setPair n f).placement = s.placement := rfl
@[simp] theorem setPair_mailbox {s : State} {n f} : (s.setPair n f).mailbox = { s.mailbox with pairs := lmap n f s.mailbox.pairs } := rfl
@[simp] theorem setPair_book {s : State} {n f} : (s.setPair n f).book = s.book := rfl
@[simp] theorem setPair_parcels {s : State} {n f} : (s.setPair n f).parcels = s.parcels := rfl
@[simp] theorem setPair_traverses {s : State} {n f} : (s.setPair n f).traverses = s.traverses := rfl
@[simp] theorem setPair_owedVerdicts {s : State} {n f} : (s.setPair n f).owedVerdicts = s.owedVerdicts := rfl
@[simp] theorem setPair_tallies {s : State} {n f} : (s.setPair n f).tallies = s.tallies := rfl
@[simp] theorem setPair_regions {s : State} {n f} : (s.setPair n f).regions = s.regions := rfl
@[simp] theorem setPair_ledgerWalks {s : State} {n f} : (s.setPair n f).ledgerWalks = s.ledgerWalks := rfl
@[simp] theorem setPair_serials {s : State} {n f} : (s.setPair n f).serials = s.serials := rfl
@[simp] theorem setPair_bases {s : State} {n f} : (s.setPair n f).bases = s.bases := rfl
@[simp] theorem setPair_bindings {s : State} {n f} : (s.setPair n f).bindings = s.bindings := rfl
@[simp] theorem setPair_actions {s : State} {n f} : (s.setPair n f).actions = s.actions := rfl
@[simp] theorem setPair_fired {s : State} {n f} : (s.setPair n f).fired = s.fired := rfl
@[simp] theorem setPair_ringSync {s : State} {n f} : (s.setPair n f).ringSync = s.ringSync := rfl
@[simp] theorem setPair_timebases {s : State} {n f} : (s.setPair n f).timebases = s.timebases := rfl
@[simp] theorem setPair_routes {s : State} {n f} : (s.setPair n f).routes = s.routes := rfl
@[simp] theorem setPair_monitor {s : State} {n f} : (s.setPair n f).monitor = s.monitor := rfl
@[simp] theorem setPair_ports {s : State} {n f} : (s.setPair n f).ports = s.ports := rfl
@[simp] theorem setPair_links {s : State} {n f} : (s.setPair n f).links = s.links := rfl
@[simp] theorem setPair_chiplets {s : State} {n f} : (s.setPair n f).chiplets = s.chiplets := rfl
@[simp] theorem setPair_xbar {s : State} {n f} : (s.setPair n f).xbar = s.xbar := rfl
@[simp] theorem setPair_dies {s : State} {n f} : (s.setPair n f).dies = s.dies := rfl
@[simp] theorem setPair_hbmStacks {s : State} {n f} : (s.setPair n f).hbmStacks = s.hbmStacks := rfl
@[simp] theorem setPair_mdReseq {s : State} {n f} : (s.setPair n f).mdReseq = s.mdReseq := rfl
@[simp] theorem setPair_counters {s : State} {n f} : (s.setPair n f).counters = s.counters := rfl

/-! `State.setGroup` -/

@[simp] theorem setGroup_pending {s : State} {g f} : (s.setGroup g f).pending = s.pending := rfl
@[simp] theorem setGroup_clock {s : State} {g f} : (s.setGroup g f).clock = s.clock := rfl
@[simp] theorem setGroup_freeCount {s : State} {g f} : (s.setGroup g f).freeCount = s.freeCount := rfl
@[simp] theorem setGroup_sent {s : State} {g f} : (s.setGroup g f).sent = s.sent := rfl
@[simp] theorem setGroup_hostOut {s : State} {g f} : (s.setGroup g f).hostOut = s.hostOut := rfl
@[simp] theorem setGroup_trust {s : State} {g f} : (s.setGroup g f).trust = s.trust := rfl
@[simp] theorem setGroup_scan {s : State} {g f} : (s.setGroup g f).scan = s.scan := rfl
@[simp] theorem setGroup_dbg {s : State} {g f} : (s.setGroup g f).dbg = s.dbg := rfl
@[simp] theorem setGroup_pokes {s : State} {g f} : (s.setGroup g f).pokes = s.pokes := rfl
@[simp] theorem setGroup_boot {s : State} {g f} : (s.setGroup g f).boot = s.boot := rfl
@[simp] theorem setGroup_supply {s : State} {g f} : (s.setGroup g f).supply = s.supply := rfl
@[simp] theorem setGroup_refclk {s : State} {g f} : (s.setGroup g f).refclk = s.refclk := rfl
@[simp] theorem setGroup_groups {s : State} {g f} : (s.setGroup g f).groups = lmap g f s.groups := rfl
@[simp] theorem setGroup_placement {s : State} {g f} : (s.setGroup g f).placement = s.placement := rfl
@[simp] theorem setGroup_mailbox {s : State} {g f} : (s.setGroup g f).mailbox = s.mailbox := rfl
@[simp] theorem setGroup_book {s : State} {g f} : (s.setGroup g f).book = s.book := rfl
@[simp] theorem setGroup_parcels {s : State} {g f} : (s.setGroup g f).parcels = s.parcels := rfl
@[simp] theorem setGroup_traverses {s : State} {g f} : (s.setGroup g f).traverses = s.traverses := rfl
@[simp] theorem setGroup_owedVerdicts {s : State} {g f} : (s.setGroup g f).owedVerdicts = s.owedVerdicts := rfl
@[simp] theorem setGroup_tallies {s : State} {g f} : (s.setGroup g f).tallies = s.tallies := rfl
@[simp] theorem setGroup_regions {s : State} {g f} : (s.setGroup g f).regions = s.regions := rfl
@[simp] theorem setGroup_ledgerWalks {s : State} {g f} : (s.setGroup g f).ledgerWalks = s.ledgerWalks := rfl
@[simp] theorem setGroup_serials {s : State} {g f} : (s.setGroup g f).serials = s.serials := rfl
@[simp] theorem setGroup_bases {s : State} {g f} : (s.setGroup g f).bases = s.bases := rfl
@[simp] theorem setGroup_bindings {s : State} {g f} : (s.setGroup g f).bindings = s.bindings := rfl
@[simp] theorem setGroup_actions {s : State} {g f} : (s.setGroup g f).actions = s.actions := rfl
@[simp] theorem setGroup_fired {s : State} {g f} : (s.setGroup g f).fired = s.fired := rfl
@[simp] theorem setGroup_ringSync {s : State} {g f} : (s.setGroup g f).ringSync = s.ringSync := rfl
@[simp] theorem setGroup_timebases {s : State} {g f} : (s.setGroup g f).timebases = s.timebases := rfl
@[simp] theorem setGroup_routes {s : State} {g f} : (s.setGroup g f).routes = s.routes := rfl
@[simp] theorem setGroup_monitor {s : State} {g f} : (s.setGroup g f).monitor = s.monitor := rfl
@[simp] theorem setGroup_ports {s : State} {g f} : (s.setGroup g f).ports = s.ports := rfl
@[simp] theorem setGroup_links {s : State} {g f} : (s.setGroup g f).links = s.links := rfl
@[simp] theorem setGroup_chiplets {s : State} {g f} : (s.setGroup g f).chiplets = s.chiplets := rfl
@[simp] theorem setGroup_xbar {s : State} {g f} : (s.setGroup g f).xbar = s.xbar := rfl
@[simp] theorem setGroup_dies {s : State} {g f} : (s.setGroup g f).dies = s.dies := rfl
@[simp] theorem setGroup_hbmStacks {s : State} {g f} : (s.setGroup g f).hbmStacks = s.hbmStacks := rfl
@[simp] theorem setGroup_mdReseq {s : State} {g f} : (s.setGroup g f).mdReseq = s.mdReseq := rfl
@[simp] theorem setGroup_counters {s : State} {g f} : (s.setGroup g f).counters = s.counters := rfl

/-! `State.setXbar` -/

@[simp] theorem setXbar_pending {s : State} {f} : (s.setXbar f).pending = s.pending := rfl
@[simp] theorem setXbar_clock {s : State} {f} : (s.setXbar f).clock = s.clock := rfl
@[simp] theorem setXbar_freeCount {s : State} {f} : (s.setXbar f).freeCount = s.freeCount := rfl
@[simp] theorem setXbar_sent {s : State} {f} : (s.setXbar f).sent = s.sent := rfl
@[simp] theorem setXbar_hostOut {s : State} {f} : (s.setXbar f).hostOut = s.hostOut := rfl
@[simp] theorem setXbar_trust {s : State} {f} : (s.setXbar f).trust = s.trust := rfl
@[simp] theorem setXbar_scan {s : State} {f} : (s.setXbar f).scan = s.scan := rfl
@[simp] theorem setXbar_dbg {s : State} {f} : (s.setXbar f).dbg = s.dbg := rfl
@[simp] theorem setXbar_pokes {s : State} {f} : (s.setXbar f).pokes = s.pokes := rfl
@[simp] theorem setXbar_boot {s : State} {f} : (s.setXbar f).boot = s.boot := rfl
@[simp] theorem setXbar_supply {s : State} {f} : (s.setXbar f).supply = s.supply := rfl
@[simp] theorem setXbar_refclk {s : State} {f} : (s.setXbar f).refclk = s.refclk := rfl
@[simp] theorem setXbar_groups {s : State} {f} : (s.setXbar f).groups = s.groups := rfl
@[simp] theorem setXbar_placement {s : State} {f} : (s.setXbar f).placement = s.placement := rfl
@[simp] theorem setXbar_mailbox {s : State} {f} : (s.setXbar f).mailbox = s.mailbox := rfl
@[simp] theorem setXbar_book {s : State} {f} : (s.setXbar f).book = s.book := rfl
@[simp] theorem setXbar_parcels {s : State} {f} : (s.setXbar f).parcels = s.parcels := rfl
@[simp] theorem setXbar_traverses {s : State} {f} : (s.setXbar f).traverses = s.traverses := rfl
@[simp] theorem setXbar_owedVerdicts {s : State} {f} : (s.setXbar f).owedVerdicts = s.owedVerdicts := rfl
@[simp] theorem setXbar_tallies {s : State} {f} : (s.setXbar f).tallies = s.tallies := rfl
@[simp] theorem setXbar_regions {s : State} {f} : (s.setXbar f).regions = s.regions := rfl
@[simp] theorem setXbar_ledgerWalks {s : State} {f} : (s.setXbar f).ledgerWalks = s.ledgerWalks := rfl
@[simp] theorem setXbar_serials {s : State} {f} : (s.setXbar f).serials = s.serials := rfl
@[simp] theorem setXbar_bases {s : State} {f} : (s.setXbar f).bases = s.bases := rfl
@[simp] theorem setXbar_bindings {s : State} {f} : (s.setXbar f).bindings = s.bindings := rfl
@[simp] theorem setXbar_actions {s : State} {f} : (s.setXbar f).actions = s.actions := rfl
@[simp] theorem setXbar_fired {s : State} {f} : (s.setXbar f).fired = s.fired := rfl
@[simp] theorem setXbar_ringSync {s : State} {f} : (s.setXbar f).ringSync = s.ringSync := rfl
@[simp] theorem setXbar_timebases {s : State} {f} : (s.setXbar f).timebases = s.timebases := rfl
@[simp] theorem setXbar_routes {s : State} {f} : (s.setXbar f).routes = s.routes := rfl
@[simp] theorem setXbar_monitor {s : State} {f} : (s.setXbar f).monitor = s.monitor := rfl
@[simp] theorem setXbar_ports {s : State} {f} : (s.setXbar f).ports = s.ports := rfl
@[simp] theorem setXbar_links {s : State} {f} : (s.setXbar f).links = s.links := rfl
@[simp] theorem setXbar_chiplets {s : State} {f} : (s.setXbar f).chiplets = s.chiplets := rfl
@[simp] theorem setXbar_xbar {s : State} {f} : (s.setXbar f).xbar = f s.xbar := rfl
@[simp] theorem setXbar_dies {s : State} {f} : (s.setXbar f).dies = s.dies := rfl
@[simp] theorem setXbar_hbmStacks {s : State} {f} : (s.setXbar f).hbmStacks = s.hbmStacks := rfl
@[simp] theorem setXbar_mdReseq {s : State} {f} : (s.setXbar f).mdReseq = s.mdReseq := rfl
@[simp] theorem setXbar_counters {s : State} {f} : (s.setXbar f).counters = s.counters := rfl

/-! `State.setRoutes` -/

@[simp] theorem setRoutes_pending {s : State} {f} : (s.setRoutes f).pending = s.pending := rfl
@[simp] theorem setRoutes_clock {s : State} {f} : (s.setRoutes f).clock = s.clock := rfl
@[simp] theorem setRoutes_freeCount {s : State} {f} : (s.setRoutes f).freeCount = s.freeCount := rfl
@[simp] theorem setRoutes_sent {s : State} {f} : (s.setRoutes f).sent = s.sent := rfl
@[simp] theorem setRoutes_hostOut {s : State} {f} : (s.setRoutes f).hostOut = s.hostOut := rfl
@[simp] theorem setRoutes_trust {s : State} {f} : (s.setRoutes f).trust = s.trust := rfl
@[simp] theorem setRoutes_scan {s : State} {f} : (s.setRoutes f).scan = s.scan := rfl
@[simp] theorem setRoutes_dbg {s : State} {f} : (s.setRoutes f).dbg = s.dbg := rfl
@[simp] theorem setRoutes_pokes {s : State} {f} : (s.setRoutes f).pokes = s.pokes := rfl
@[simp] theorem setRoutes_boot {s : State} {f} : (s.setRoutes f).boot = s.boot := rfl
@[simp] theorem setRoutes_supply {s : State} {f} : (s.setRoutes f).supply = s.supply := rfl
@[simp] theorem setRoutes_refclk {s : State} {f} : (s.setRoutes f).refclk = s.refclk := rfl
@[simp] theorem setRoutes_groups {s : State} {f} : (s.setRoutes f).groups = s.groups := rfl
@[simp] theorem setRoutes_placement {s : State} {f} : (s.setRoutes f).placement = s.placement := rfl
@[simp] theorem setRoutes_mailbox {s : State} {f} : (s.setRoutes f).mailbox = s.mailbox := rfl
@[simp] theorem setRoutes_book {s : State} {f} : (s.setRoutes f).book = s.book := rfl
@[simp] theorem setRoutes_parcels {s : State} {f} : (s.setRoutes f).parcels = s.parcels := rfl
@[simp] theorem setRoutes_traverses {s : State} {f} : (s.setRoutes f).traverses = s.traverses := rfl
@[simp] theorem setRoutes_owedVerdicts {s : State} {f} : (s.setRoutes f).owedVerdicts = s.owedVerdicts := rfl
@[simp] theorem setRoutes_tallies {s : State} {f} : (s.setRoutes f).tallies = s.tallies := rfl
@[simp] theorem setRoutes_regions {s : State} {f} : (s.setRoutes f).regions = s.regions := rfl
@[simp] theorem setRoutes_ledgerWalks {s : State} {f} : (s.setRoutes f).ledgerWalks = s.ledgerWalks := rfl
@[simp] theorem setRoutes_serials {s : State} {f} : (s.setRoutes f).serials = s.serials := rfl
@[simp] theorem setRoutes_bases {s : State} {f} : (s.setRoutes f).bases = s.bases := rfl
@[simp] theorem setRoutes_bindings {s : State} {f} : (s.setRoutes f).bindings = s.bindings := rfl
@[simp] theorem setRoutes_actions {s : State} {f} : (s.setRoutes f).actions = s.actions := rfl
@[simp] theorem setRoutes_fired {s : State} {f} : (s.setRoutes f).fired = s.fired := rfl
@[simp] theorem setRoutes_ringSync {s : State} {f} : (s.setRoutes f).ringSync = s.ringSync := rfl
@[simp] theorem setRoutes_timebases {s : State} {f} : (s.setRoutes f).timebases = s.timebases := rfl
@[simp] theorem setRoutes_routes {s : State} {f} : (s.setRoutes f).routes = f s.routes := rfl
@[simp] theorem setRoutes_monitor {s : State} {f} : (s.setRoutes f).monitor = s.monitor := rfl
@[simp] theorem setRoutes_ports {s : State} {f} : (s.setRoutes f).ports = s.ports := rfl
@[simp] theorem setRoutes_links {s : State} {f} : (s.setRoutes f).links = s.links := rfl
@[simp] theorem setRoutes_chiplets {s : State} {f} : (s.setRoutes f).chiplets = s.chiplets := rfl
@[simp] theorem setRoutes_xbar {s : State} {f} : (s.setRoutes f).xbar = s.xbar := rfl
@[simp] theorem setRoutes_dies {s : State} {f} : (s.setRoutes f).dies = s.dies := rfl
@[simp] theorem setRoutes_hbmStacks {s : State} {f} : (s.setRoutes f).hbmStacks = s.hbmStacks := rfl
@[simp] theorem setRoutes_mdReseq {s : State} {f} : (s.setRoutes f).mdReseq = s.mdReseq := rfl
@[simp] theorem setRoutes_counters {s : State} {f} : (s.setRoutes f).counters = s.counters := rfl

/-! `State.setTraverse` -/

@[simp] theorem setTraverse_pending {s : State} {t f} : (s.setTraverse t f).pending = s.pending := rfl
@[simp] theorem setTraverse_clock {s : State} {t f} : (s.setTraverse t f).clock = s.clock := rfl
@[simp] theorem setTraverse_freeCount {s : State} {t f} : (s.setTraverse t f).freeCount = s.freeCount := rfl
@[simp] theorem setTraverse_sent {s : State} {t f} : (s.setTraverse t f).sent = s.sent := rfl
@[simp] theorem setTraverse_hostOut {s : State} {t f} : (s.setTraverse t f).hostOut = s.hostOut := rfl
@[simp] theorem setTraverse_trust {s : State} {t f} : (s.setTraverse t f).trust = s.trust := rfl
@[simp] theorem setTraverse_scan {s : State} {t f} : (s.setTraverse t f).scan = s.scan := rfl
@[simp] theorem setTraverse_dbg {s : State} {t f} : (s.setTraverse t f).dbg = s.dbg := rfl
@[simp] theorem setTraverse_pokes {s : State} {t f} : (s.setTraverse t f).pokes = s.pokes := rfl
@[simp] theorem setTraverse_boot {s : State} {t f} : (s.setTraverse t f).boot = s.boot := rfl
@[simp] theorem setTraverse_supply {s : State} {t f} : (s.setTraverse t f).supply = s.supply := rfl
@[simp] theorem setTraverse_refclk {s : State} {t f} : (s.setTraverse t f).refclk = s.refclk := rfl
@[simp] theorem setTraverse_groups {s : State} {t f} : (s.setTraverse t f).groups = s.groups := rfl
@[simp] theorem setTraverse_placement {s : State} {t f} : (s.setTraverse t f).placement = s.placement := rfl
@[simp] theorem setTraverse_mailbox {s : State} {t f} : (s.setTraverse t f).mailbox = s.mailbox := rfl
@[simp] theorem setTraverse_book {s : State} {t f} : (s.setTraverse t f).book = s.book := rfl
@[simp] theorem setTraverse_parcels {s : State} {t f} : (s.setTraverse t f).parcels = s.parcels := rfl
@[simp] theorem setTraverse_traverses {s : State} {t f} : (s.setTraverse t f).traverses = tmap t f s.traverses := rfl
@[simp] theorem setTraverse_owedVerdicts {s : State} {t f} : (s.setTraverse t f).owedVerdicts = s.owedVerdicts := rfl
@[simp] theorem setTraverse_tallies {s : State} {t f} : (s.setTraverse t f).tallies = s.tallies := rfl
@[simp] theorem setTraverse_regions {s : State} {t f} : (s.setTraverse t f).regions = s.regions := rfl
@[simp] theorem setTraverse_ledgerWalks {s : State} {t f} : (s.setTraverse t f).ledgerWalks = s.ledgerWalks := rfl
@[simp] theorem setTraverse_serials {s : State} {t f} : (s.setTraverse t f).serials = s.serials := rfl
@[simp] theorem setTraverse_bases {s : State} {t f} : (s.setTraverse t f).bases = s.bases := rfl
@[simp] theorem setTraverse_bindings {s : State} {t f} : (s.setTraverse t f).bindings = s.bindings := rfl
@[simp] theorem setTraverse_actions {s : State} {t f} : (s.setTraverse t f).actions = s.actions := rfl
@[simp] theorem setTraverse_fired {s : State} {t f} : (s.setTraverse t f).fired = s.fired := rfl
@[simp] theorem setTraverse_ringSync {s : State} {t f} : (s.setTraverse t f).ringSync = s.ringSync := rfl
@[simp] theorem setTraverse_timebases {s : State} {t f} : (s.setTraverse t f).timebases = s.timebases := rfl
@[simp] theorem setTraverse_routes {s : State} {t f} : (s.setTraverse t f).routes = s.routes := rfl
@[simp] theorem setTraverse_monitor {s : State} {t f} : (s.setTraverse t f).monitor = s.monitor := rfl
@[simp] theorem setTraverse_ports {s : State} {t f} : (s.setTraverse t f).ports = s.ports := rfl
@[simp] theorem setTraverse_links {s : State} {t f} : (s.setTraverse t f).links = s.links := rfl
@[simp] theorem setTraverse_chiplets {s : State} {t f} : (s.setTraverse t f).chiplets = s.chiplets := rfl
@[simp] theorem setTraverse_xbar {s : State} {t f} : (s.setTraverse t f).xbar = s.xbar := rfl
@[simp] theorem setTraverse_dies {s : State} {t f} : (s.setTraverse t f).dies = s.dies := rfl
@[simp] theorem setTraverse_hbmStacks {s : State} {t f} : (s.setTraverse t f).hbmStacks = s.hbmStacks := rfl
@[simp] theorem setTraverse_mdReseq {s : State} {t f} : (s.setTraverse t f).mdReseq = s.mdReseq := rfl
@[simp] theorem setTraverse_counters {s : State} {t f} : (s.setTraverse t f).counters = s.counters := rfl

/-! `State.setTally` -/

@[simp] theorem setTally_pending {s : State} {t f} : (s.setTally t f).pending = s.pending := rfl
@[simp] theorem setTally_clock {s : State} {t f} : (s.setTally t f).clock = s.clock := rfl
@[simp] theorem setTally_freeCount {s : State} {t f} : (s.setTally t f).freeCount = s.freeCount := rfl
@[simp] theorem setTally_sent {s : State} {t f} : (s.setTally t f).sent = s.sent := rfl
@[simp] theorem setTally_hostOut {s : State} {t f} : (s.setTally t f).hostOut = s.hostOut := rfl
@[simp] theorem setTally_trust {s : State} {t f} : (s.setTally t f).trust = s.trust := rfl
@[simp] theorem setTally_scan {s : State} {t f} : (s.setTally t f).scan = s.scan := rfl
@[simp] theorem setTally_dbg {s : State} {t f} : (s.setTally t f).dbg = s.dbg := rfl
@[simp] theorem setTally_pokes {s : State} {t f} : (s.setTally t f).pokes = s.pokes := rfl
@[simp] theorem setTally_boot {s : State} {t f} : (s.setTally t f).boot = s.boot := rfl
@[simp] theorem setTally_supply {s : State} {t f} : (s.setTally t f).supply = s.supply := rfl
@[simp] theorem setTally_refclk {s : State} {t f} : (s.setTally t f).refclk = s.refclk := rfl
@[simp] theorem setTally_groups {s : State} {t f} : (s.setTally t f).groups = s.groups := rfl
@[simp] theorem setTally_placement {s : State} {t f} : (s.setTally t f).placement = s.placement := rfl
@[simp] theorem setTally_mailbox {s : State} {t f} : (s.setTally t f).mailbox = s.mailbox := rfl
@[simp] theorem setTally_book {s : State} {t f} : (s.setTally t f).book = s.book := rfl
@[simp] theorem setTally_parcels {s : State} {t f} : (s.setTally t f).parcels = s.parcels := rfl
@[simp] theorem setTally_traverses {s : State} {t f} : (s.setTally t f).traverses = s.traverses := rfl
@[simp] theorem setTally_owedVerdicts {s : State} {t f} : (s.setTally t f).owedVerdicts = s.owedVerdicts := rfl
@[simp] theorem setTally_tallies {s : State} {t f} : (s.setTally t f).tallies = tmap t f s.tallies := rfl
@[simp] theorem setTally_regions {s : State} {t f} : (s.setTally t f).regions = s.regions := rfl
@[simp] theorem setTally_ledgerWalks {s : State} {t f} : (s.setTally t f).ledgerWalks = s.ledgerWalks := rfl
@[simp] theorem setTally_serials {s : State} {t f} : (s.setTally t f).serials = s.serials := rfl
@[simp] theorem setTally_bases {s : State} {t f} : (s.setTally t f).bases = s.bases := rfl
@[simp] theorem setTally_bindings {s : State} {t f} : (s.setTally t f).bindings = s.bindings := rfl
@[simp] theorem setTally_actions {s : State} {t f} : (s.setTally t f).actions = s.actions := rfl
@[simp] theorem setTally_fired {s : State} {t f} : (s.setTally t f).fired = s.fired := rfl
@[simp] theorem setTally_ringSync {s : State} {t f} : (s.setTally t f).ringSync = s.ringSync := rfl
@[simp] theorem setTally_timebases {s : State} {t f} : (s.setTally t f).timebases = s.timebases := rfl
@[simp] theorem setTally_routes {s : State} {t f} : (s.setTally t f).routes = s.routes := rfl
@[simp] theorem setTally_monitor {s : State} {t f} : (s.setTally t f).monitor = s.monitor := rfl
@[simp] theorem setTally_ports {s : State} {t f} : (s.setTally t f).ports = s.ports := rfl
@[simp] theorem setTally_links {s : State} {t f} : (s.setTally t f).links = s.links := rfl
@[simp] theorem setTally_chiplets {s : State} {t f} : (s.setTally t f).chiplets = s.chiplets := rfl
@[simp] theorem setTally_xbar {s : State} {t f} : (s.setTally t f).xbar = s.xbar := rfl
@[simp] theorem setTally_dies {s : State} {t f} : (s.setTally t f).dies = s.dies := rfl
@[simp] theorem setTally_hbmStacks {s : State} {t f} : (s.setTally t f).hbmStacks = s.hbmStacks := rfl
@[simp] theorem setTally_mdReseq {s : State} {t f} : (s.setTally t f).mdReseq = s.mdReseq := rfl
@[simp] theorem setTally_counters {s : State} {t f} : (s.setTally t f).counters = s.counters := rfl

/-! `State.setRegion` -/

@[simp] theorem setRegion_pending {s : State} {n f} : (s.setRegion n f).pending = s.pending := rfl
@[simp] theorem setRegion_clock {s : State} {n f} : (s.setRegion n f).clock = s.clock := rfl
@[simp] theorem setRegion_freeCount {s : State} {n f} : (s.setRegion n f).freeCount = s.freeCount := rfl
@[simp] theorem setRegion_sent {s : State} {n f} : (s.setRegion n f).sent = s.sent := rfl
@[simp] theorem setRegion_hostOut {s : State} {n f} : (s.setRegion n f).hostOut = s.hostOut := rfl
@[simp] theorem setRegion_trust {s : State} {n f} : (s.setRegion n f).trust = s.trust := rfl
@[simp] theorem setRegion_scan {s : State} {n f} : (s.setRegion n f).scan = s.scan := rfl
@[simp] theorem setRegion_dbg {s : State} {n f} : (s.setRegion n f).dbg = s.dbg := rfl
@[simp] theorem setRegion_pokes {s : State} {n f} : (s.setRegion n f).pokes = s.pokes := rfl
@[simp] theorem setRegion_boot {s : State} {n f} : (s.setRegion n f).boot = s.boot := rfl
@[simp] theorem setRegion_supply {s : State} {n f} : (s.setRegion n f).supply = s.supply := rfl
@[simp] theorem setRegion_refclk {s : State} {n f} : (s.setRegion n f).refclk = s.refclk := rfl
@[simp] theorem setRegion_groups {s : State} {n f} : (s.setRegion n f).groups = s.groups := rfl
@[simp] theorem setRegion_placement {s : State} {n f} : (s.setRegion n f).placement = s.placement := rfl
@[simp] theorem setRegion_mailbox {s : State} {n f} : (s.setRegion n f).mailbox = s.mailbox := rfl
@[simp] theorem setRegion_book {s : State} {n f} : (s.setRegion n f).book = s.book := rfl
@[simp] theorem setRegion_parcels {s : State} {n f} : (s.setRegion n f).parcels = s.parcels := rfl
@[simp] theorem setRegion_traverses {s : State} {n f} : (s.setRegion n f).traverses = s.traverses := rfl
@[simp] theorem setRegion_owedVerdicts {s : State} {n f} : (s.setRegion n f).owedVerdicts = s.owedVerdicts := rfl
@[simp] theorem setRegion_tallies {s : State} {n f} : (s.setRegion n f).tallies = s.tallies := rfl
@[simp] theorem setRegion_regions {s : State} {n f} : (s.setRegion n f).regions = tmap n f s.regions := rfl
@[simp] theorem setRegion_ledgerWalks {s : State} {n f} : (s.setRegion n f).ledgerWalks = s.ledgerWalks := rfl
@[simp] theorem setRegion_serials {s : State} {n f} : (s.setRegion n f).serials = s.serials := rfl
@[simp] theorem setRegion_bases {s : State} {n f} : (s.setRegion n f).bases = s.bases := rfl
@[simp] theorem setRegion_bindings {s : State} {n f} : (s.setRegion n f).bindings = s.bindings := rfl
@[simp] theorem setRegion_actions {s : State} {n f} : (s.setRegion n f).actions = s.actions := rfl
@[simp] theorem setRegion_fired {s : State} {n f} : (s.setRegion n f).fired = s.fired := rfl
@[simp] theorem setRegion_ringSync {s : State} {n f} : (s.setRegion n f).ringSync = s.ringSync := rfl
@[simp] theorem setRegion_timebases {s : State} {n f} : (s.setRegion n f).timebases = s.timebases := rfl
@[simp] theorem setRegion_routes {s : State} {n f} : (s.setRegion n f).routes = s.routes := rfl
@[simp] theorem setRegion_monitor {s : State} {n f} : (s.setRegion n f).monitor = s.monitor := rfl
@[simp] theorem setRegion_ports {s : State} {n f} : (s.setRegion n f).ports = s.ports := rfl
@[simp] theorem setRegion_links {s : State} {n f} : (s.setRegion n f).links = s.links := rfl
@[simp] theorem setRegion_chiplets {s : State} {n f} : (s.setRegion n f).chiplets = s.chiplets := rfl
@[simp] theorem setRegion_xbar {s : State} {n f} : (s.setRegion n f).xbar = s.xbar := rfl
@[simp] theorem setRegion_dies {s : State} {n f} : (s.setRegion n f).dies = s.dies := rfl
@[simp] theorem setRegion_hbmStacks {s : State} {n f} : (s.setRegion n f).hbmStacks = s.hbmStacks := rfl
@[simp] theorem setRegion_mdReseq {s : State} {n f} : (s.setRegion n f).mdReseq = s.mdReseq := rfl
@[simp] theorem setRegion_counters {s : State} {n f} : (s.setRegion n f).counters = s.counters := rfl

/-! `State.setParcel` -/

@[simp] theorem setParcel_pending {s : State} {p f} : (s.setParcel p f).pending = s.pending := rfl
@[simp] theorem setParcel_clock {s : State} {p f} : (s.setParcel p f).clock = s.clock := rfl
@[simp] theorem setParcel_freeCount {s : State} {p f} : (s.setParcel p f).freeCount = s.freeCount := rfl
@[simp] theorem setParcel_sent {s : State} {p f} : (s.setParcel p f).sent = s.sent := rfl
@[simp] theorem setParcel_hostOut {s : State} {p f} : (s.setParcel p f).hostOut = s.hostOut := rfl
@[simp] theorem setParcel_trust {s : State} {p f} : (s.setParcel p f).trust = s.trust := rfl
@[simp] theorem setParcel_scan {s : State} {p f} : (s.setParcel p f).scan = s.scan := rfl
@[simp] theorem setParcel_dbg {s : State} {p f} : (s.setParcel p f).dbg = s.dbg := rfl
@[simp] theorem setParcel_pokes {s : State} {p f} : (s.setParcel p f).pokes = s.pokes := rfl
@[simp] theorem setParcel_boot {s : State} {p f} : (s.setParcel p f).boot = s.boot := rfl
@[simp] theorem setParcel_supply {s : State} {p f} : (s.setParcel p f).supply = s.supply := rfl
@[simp] theorem setParcel_refclk {s : State} {p f} : (s.setParcel p f).refclk = s.refclk := rfl
@[simp] theorem setParcel_groups {s : State} {p f} : (s.setParcel p f).groups = s.groups := rfl
@[simp] theorem setParcel_placement {s : State} {p f} : (s.setParcel p f).placement = s.placement := rfl
@[simp] theorem setParcel_mailbox {s : State} {p f} : (s.setParcel p f).mailbox = s.mailbox := rfl
@[simp] theorem setParcel_book {s : State} {p f} : (s.setParcel p f).book = s.book := rfl
@[simp] theorem setParcel_parcels {s : State} {p f} : (s.setParcel p f).parcels = tmap p f s.parcels := rfl
@[simp] theorem setParcel_traverses {s : State} {p f} : (s.setParcel p f).traverses = s.traverses := rfl
@[simp] theorem setParcel_owedVerdicts {s : State} {p f} : (s.setParcel p f).owedVerdicts = s.owedVerdicts := rfl
@[simp] theorem setParcel_tallies {s : State} {p f} : (s.setParcel p f).tallies = s.tallies := rfl
@[simp] theorem setParcel_regions {s : State} {p f} : (s.setParcel p f).regions = s.regions := rfl
@[simp] theorem setParcel_ledgerWalks {s : State} {p f} : (s.setParcel p f).ledgerWalks = s.ledgerWalks := rfl
@[simp] theorem setParcel_serials {s : State} {p f} : (s.setParcel p f).serials = s.serials := rfl
@[simp] theorem setParcel_bases {s : State} {p f} : (s.setParcel p f).bases = s.bases := rfl
@[simp] theorem setParcel_bindings {s : State} {p f} : (s.setParcel p f).bindings = s.bindings := rfl
@[simp] theorem setParcel_actions {s : State} {p f} : (s.setParcel p f).actions = s.actions := rfl
@[simp] theorem setParcel_fired {s : State} {p f} : (s.setParcel p f).fired = s.fired := rfl
@[simp] theorem setParcel_ringSync {s : State} {p f} : (s.setParcel p f).ringSync = s.ringSync := rfl
@[simp] theorem setParcel_timebases {s : State} {p f} : (s.setParcel p f).timebases = s.timebases := rfl
@[simp] theorem setParcel_routes {s : State} {p f} : (s.setParcel p f).routes = s.routes := rfl
@[simp] theorem setParcel_monitor {s : State} {p f} : (s.setParcel p f).monitor = s.monitor := rfl
@[simp] theorem setParcel_ports {s : State} {p f} : (s.setParcel p f).ports = s.ports := rfl
@[simp] theorem setParcel_links {s : State} {p f} : (s.setParcel p f).links = s.links := rfl
@[simp] theorem setParcel_chiplets {s : State} {p f} : (s.setParcel p f).chiplets = s.chiplets := rfl
@[simp] theorem setParcel_xbar {s : State} {p f} : (s.setParcel p f).xbar = s.xbar := rfl
@[simp] theorem setParcel_dies {s : State} {p f} : (s.setParcel p f).dies = s.dies := rfl
@[simp] theorem setParcel_hbmStacks {s : State} {p f} : (s.setParcel p f).hbmStacks = s.hbmStacks := rfl
@[simp] theorem setParcel_mdReseq {s : State} {p f} : (s.setParcel p f).mdReseq = s.mdReseq := rfl
@[simp] theorem setParcel_counters {s : State} {p f} : (s.setParcel p f).counters = s.counters := rfl

/-! `State.setTimebase` -/

@[simp] theorem setTimebase_pending {s : State} {i f} : (s.setTimebase i f).pending = s.pending := rfl
@[simp] theorem setTimebase_clock {s : State} {i f} : (s.setTimebase i f).clock = s.clock := rfl
@[simp] theorem setTimebase_freeCount {s : State} {i f} : (s.setTimebase i f).freeCount = s.freeCount := rfl
@[simp] theorem setTimebase_sent {s : State} {i f} : (s.setTimebase i f).sent = s.sent := rfl
@[simp] theorem setTimebase_hostOut {s : State} {i f} : (s.setTimebase i f).hostOut = s.hostOut := rfl
@[simp] theorem setTimebase_trust {s : State} {i f} : (s.setTimebase i f).trust = s.trust := rfl
@[simp] theorem setTimebase_scan {s : State} {i f} : (s.setTimebase i f).scan = s.scan := rfl
@[simp] theorem setTimebase_dbg {s : State} {i f} : (s.setTimebase i f).dbg = s.dbg := rfl
@[simp] theorem setTimebase_pokes {s : State} {i f} : (s.setTimebase i f).pokes = s.pokes := rfl
@[simp] theorem setTimebase_boot {s : State} {i f} : (s.setTimebase i f).boot = s.boot := rfl
@[simp] theorem setTimebase_supply {s : State} {i f} : (s.setTimebase i f).supply = s.supply := rfl
@[simp] theorem setTimebase_refclk {s : State} {i f} : (s.setTimebase i f).refclk = s.refclk := rfl
@[simp] theorem setTimebase_groups {s : State} {i f} : (s.setTimebase i f).groups = s.groups := rfl
@[simp] theorem setTimebase_placement {s : State} {i f} : (s.setTimebase i f).placement = s.placement := rfl
@[simp] theorem setTimebase_mailbox {s : State} {i f} : (s.setTimebase i f).mailbox = s.mailbox := rfl
@[simp] theorem setTimebase_book {s : State} {i f} : (s.setTimebase i f).book = s.book := rfl
@[simp] theorem setTimebase_parcels {s : State} {i f} : (s.setTimebase i f).parcels = s.parcels := rfl
@[simp] theorem setTimebase_traverses {s : State} {i f} : (s.setTimebase i f).traverses = s.traverses := rfl
@[simp] theorem setTimebase_owedVerdicts {s : State} {i f} : (s.setTimebase i f).owedVerdicts = s.owedVerdicts := rfl
@[simp] theorem setTimebase_tallies {s : State} {i f} : (s.setTimebase i f).tallies = s.tallies := rfl
@[simp] theorem setTimebase_regions {s : State} {i f} : (s.setTimebase i f).regions = s.regions := rfl
@[simp] theorem setTimebase_ledgerWalks {s : State} {i f} : (s.setTimebase i f).ledgerWalks = s.ledgerWalks := rfl
@[simp] theorem setTimebase_serials {s : State} {i f} : (s.setTimebase i f).serials = s.serials := rfl
@[simp] theorem setTimebase_bases {s : State} {i f} : (s.setTimebase i f).bases = s.bases := rfl
@[simp] theorem setTimebase_bindings {s : State} {i f} : (s.setTimebase i f).bindings = s.bindings := rfl
@[simp] theorem setTimebase_actions {s : State} {i f} : (s.setTimebase i f).actions = s.actions := rfl
@[simp] theorem setTimebase_fired {s : State} {i f} : (s.setTimebase i f).fired = s.fired := rfl
@[simp] theorem setTimebase_ringSync {s : State} {i f} : (s.setTimebase i f).ringSync = s.ringSync := rfl
@[simp] theorem setTimebase_timebases {s : State} {i f} : (s.setTimebase i f).timebases = lmap i f s.timebases := rfl
@[simp] theorem setTimebase_routes {s : State} {i f} : (s.setTimebase i f).routes = s.routes := rfl
@[simp] theorem setTimebase_monitor {s : State} {i f} : (s.setTimebase i f).monitor = s.monitor := rfl
@[simp] theorem setTimebase_ports {s : State} {i f} : (s.setTimebase i f).ports = s.ports := rfl
@[simp] theorem setTimebase_links {s : State} {i f} : (s.setTimebase i f).links = s.links := rfl
@[simp] theorem setTimebase_chiplets {s : State} {i f} : (s.setTimebase i f).chiplets = s.chiplets := rfl
@[simp] theorem setTimebase_xbar {s : State} {i f} : (s.setTimebase i f).xbar = s.xbar := rfl
@[simp] theorem setTimebase_dies {s : State} {i f} : (s.setTimebase i f).dies = s.dies := rfl
@[simp] theorem setTimebase_hbmStacks {s : State} {i f} : (s.setTimebase i f).hbmStacks = s.hbmStacks := rfl
@[simp] theorem setTimebase_mdReseq {s : State} {i f} : (s.setTimebase i f).mdReseq = s.mdReseq := rfl
@[simp] theorem setTimebase_counters {s : State} {i f} : (s.setTimebase i f).counters = s.counters := rfl

/-! `State.reach` -/

@[simp] theorem reach_pending {s : State} {d} : (s.reach d).pending = s.pending := rfl
@[simp] theorem reach_clock {s : State} {d} : (s.reach d).clock = max s.clock d := rfl
@[simp] theorem reach_freeCount {s : State} {d} : (s.reach d).freeCount = s.freeCount := rfl
@[simp] theorem reach_sent {s : State} {d} : (s.reach d).sent = s.sent := rfl
@[simp] theorem reach_hostOut {s : State} {d} : (s.reach d).hostOut = s.hostOut := rfl
@[simp] theorem reach_trust {s : State} {d} : (s.reach d).trust = s.trust := rfl
@[simp] theorem reach_scan {s : State} {d} : (s.reach d).scan = s.scan := rfl
@[simp] theorem reach_dbg {s : State} {d} : (s.reach d).dbg = s.dbg := rfl
@[simp] theorem reach_pokes {s : State} {d} : (s.reach d).pokes = s.pokes := rfl
@[simp] theorem reach_boot {s : State} {d} : (s.reach d).boot = s.boot := rfl
@[simp] theorem reach_supply {s : State} {d} : (s.reach d).supply = s.supply := rfl
@[simp] theorem reach_refclk {s : State} {d} : (s.reach d).refclk = s.refclk := rfl
@[simp] theorem reach_groups {s : State} {d} : (s.reach d).groups = s.groups := rfl
@[simp] theorem reach_placement {s : State} {d} : (s.reach d).placement = s.placement := rfl
@[simp] theorem reach_mailbox {s : State} {d} : (s.reach d).mailbox = s.mailbox := rfl
@[simp] theorem reach_book {s : State} {d} : (s.reach d).book = s.book := rfl
@[simp] theorem reach_parcels {s : State} {d} : (s.reach d).parcels = s.parcels := rfl
@[simp] theorem reach_traverses {s : State} {d} : (s.reach d).traverses = s.traverses := rfl
@[simp] theorem reach_owedVerdicts {s : State} {d} : (s.reach d).owedVerdicts = s.owedVerdicts := rfl
@[simp] theorem reach_tallies {s : State} {d} : (s.reach d).tallies = s.tallies := rfl
@[simp] theorem reach_regions {s : State} {d} : (s.reach d).regions = s.regions := rfl
@[simp] theorem reach_ledgerWalks {s : State} {d} : (s.reach d).ledgerWalks = s.ledgerWalks := rfl
@[simp] theorem reach_serials {s : State} {d} : (s.reach d).serials = s.serials := rfl
@[simp] theorem reach_bases {s : State} {d} : (s.reach d).bases = s.bases := rfl
@[simp] theorem reach_bindings {s : State} {d} : (s.reach d).bindings = s.bindings := rfl
@[simp] theorem reach_actions {s : State} {d} : (s.reach d).actions = s.actions := rfl
@[simp] theorem reach_fired {s : State} {d} : (s.reach d).fired = s.fired := rfl
@[simp] theorem reach_ringSync {s : State} {d} : (s.reach d).ringSync = s.ringSync := rfl
@[simp] theorem reach_timebases {s : State} {d} : (s.reach d).timebases = s.timebases := rfl
@[simp] theorem reach_routes {s : State} {d} : (s.reach d).routes = s.routes := rfl
@[simp] theorem reach_monitor {s : State} {d} : (s.reach d).monitor = s.monitor := rfl
@[simp] theorem reach_ports {s : State} {d} : (s.reach d).ports = s.ports := rfl
@[simp] theorem reach_links {s : State} {d} : (s.reach d).links = s.links := rfl
@[simp] theorem reach_chiplets {s : State} {d} : (s.reach d).chiplets = s.chiplets := rfl
@[simp] theorem reach_xbar {s : State} {d} : (s.reach d).xbar = s.xbar := rfl
@[simp] theorem reach_dies {s : State} {d} : (s.reach d).dies = s.dies := rfl
@[simp] theorem reach_hbmStacks {s : State} {d} : (s.reach d).hbmStacks = s.hbmStacks := rfl
@[simp] theorem reach_mdReseq {s : State} {d} : (s.reach d).mdReseq = s.mdReseq := rfl
@[simp] theorem reach_counters {s : State} {d} : (s.reach d).counters = s.counters := rfl

/-! `State.draw` -/

@[simp] theorem draw_pending {s : State} {n} : (s.draw n).pending = s.pending := rfl
@[simp] theorem draw_clock {s : State} {n} : (s.draw n).clock = s.clock := rfl
@[simp] theorem draw_freeCount {s : State} {n} : (s.draw n).freeCount = s.freeCount + n := rfl
@[simp] theorem draw_sent {s : State} {n} : (s.draw n).sent = s.sent := rfl
@[simp] theorem draw_hostOut {s : State} {n} : (s.draw n).hostOut = s.hostOut := rfl
@[simp] theorem draw_trust {s : State} {n} : (s.draw n).trust = s.trust := rfl
@[simp] theorem draw_scan {s : State} {n} : (s.draw n).scan = s.scan := rfl
@[simp] theorem draw_dbg {s : State} {n} : (s.draw n).dbg = s.dbg := rfl
@[simp] theorem draw_pokes {s : State} {n} : (s.draw n).pokes = s.pokes := rfl
@[simp] theorem draw_boot {s : State} {n} : (s.draw n).boot = s.boot := rfl
@[simp] theorem draw_supply {s : State} {n} : (s.draw n).supply = s.supply := rfl
@[simp] theorem draw_refclk {s : State} {n} : (s.draw n).refclk = s.refclk := rfl
@[simp] theorem draw_groups {s : State} {n} : (s.draw n).groups = s.groups := rfl
@[simp] theorem draw_placement {s : State} {n} : (s.draw n).placement = s.placement := rfl
@[simp] theorem draw_mailbox {s : State} {n} : (s.draw n).mailbox = s.mailbox := rfl
@[simp] theorem draw_book {s : State} {n} : (s.draw n).book = s.book := rfl
@[simp] theorem draw_parcels {s : State} {n} : (s.draw n).parcels = s.parcels := rfl
@[simp] theorem draw_traverses {s : State} {n} : (s.draw n).traverses = s.traverses := rfl
@[simp] theorem draw_owedVerdicts {s : State} {n} : (s.draw n).owedVerdicts = s.owedVerdicts := rfl
@[simp] theorem draw_tallies {s : State} {n} : (s.draw n).tallies = s.tallies := rfl
@[simp] theorem draw_regions {s : State} {n} : (s.draw n).regions = s.regions := rfl
@[simp] theorem draw_ledgerWalks {s : State} {n} : (s.draw n).ledgerWalks = s.ledgerWalks := rfl
@[simp] theorem draw_serials {s : State} {n} : (s.draw n).serials = s.serials := rfl
@[simp] theorem draw_bases {s : State} {n} : (s.draw n).bases = s.bases := rfl
@[simp] theorem draw_bindings {s : State} {n} : (s.draw n).bindings = s.bindings := rfl
@[simp] theorem draw_actions {s : State} {n} : (s.draw n).actions = s.actions := rfl
@[simp] theorem draw_fired {s : State} {n} : (s.draw n).fired = s.fired := rfl
@[simp] theorem draw_ringSync {s : State} {n} : (s.draw n).ringSync = s.ringSync := rfl
@[simp] theorem draw_timebases {s : State} {n} : (s.draw n).timebases = s.timebases := rfl
@[simp] theorem draw_routes {s : State} {n} : (s.draw n).routes = s.routes := rfl
@[simp] theorem draw_monitor {s : State} {n} : (s.draw n).monitor = s.monitor := rfl
@[simp] theorem draw_ports {s : State} {n} : (s.draw n).ports = s.ports := rfl
@[simp] theorem draw_links {s : State} {n} : (s.draw n).links = s.links := rfl
@[simp] theorem draw_chiplets {s : State} {n} : (s.draw n).chiplets = s.chiplets := rfl
@[simp] theorem draw_xbar {s : State} {n} : (s.draw n).xbar = s.xbar := rfl
@[simp] theorem draw_dies {s : State} {n} : (s.draw n).dies = s.dies := rfl
@[simp] theorem draw_hbmStacks {s : State} {n} : (s.draw n).hbmStacks = s.hbmStacks := rfl
@[simp] theorem draw_mdReseq {s : State} {n} : (s.draw n).mdReseq = s.mdReseq := rfl
@[simp] theorem draw_counters {s : State} {n} : (s.draw n).counters = s.counters := rfl

/-! `State.bumpBy` -/

@[simp] theorem bumpBy_pending {s : State} {n k i} : (s.bumpBy n k i).pending = s.pending := rfl
@[simp] theorem bumpBy_clock {s : State} {n k i} : (s.bumpBy n k i).clock = s.clock := rfl
@[simp] theorem bumpBy_freeCount {s : State} {n k i} : (s.bumpBy n k i).freeCount = s.freeCount := rfl
@[simp] theorem bumpBy_sent {s : State} {n k i} : (s.bumpBy n k i).sent = s.sent := rfl
@[simp] theorem bumpBy_hostOut {s : State} {n k i} : (s.bumpBy n k i).hostOut = s.hostOut := rfl
@[simp] theorem bumpBy_trust {s : State} {n k i} : (s.bumpBy n k i).trust = s.trust := rfl
@[simp] theorem bumpBy_scan {s : State} {n k i} : (s.bumpBy n k i).scan = s.scan := rfl
@[simp] theorem bumpBy_dbg {s : State} {n k i} : (s.bumpBy n k i).dbg = s.dbg := rfl
@[simp] theorem bumpBy_pokes {s : State} {n k i} : (s.bumpBy n k i).pokes = s.pokes := rfl
@[simp] theorem bumpBy_boot {s : State} {n k i} : (s.bumpBy n k i).boot = s.boot := rfl
@[simp] theorem bumpBy_supply {s : State} {n k i} : (s.bumpBy n k i).supply = s.supply := rfl
@[simp] theorem bumpBy_refclk {s : State} {n k i} : (s.bumpBy n k i).refclk = s.refclk := rfl
@[simp] theorem bumpBy_groups {s : State} {n k i} : (s.bumpBy n k i).groups = s.groups := rfl
@[simp] theorem bumpBy_placement {s : State} {n k i} : (s.bumpBy n k i).placement = s.placement := rfl
@[simp] theorem bumpBy_mailbox {s : State} {n k i} : (s.bumpBy n k i).mailbox = s.mailbox := rfl
@[simp] theorem bumpBy_book {s : State} {n k i} : (s.bumpBy n k i).book = s.book := rfl
@[simp] theorem bumpBy_parcels {s : State} {n k i} : (s.bumpBy n k i).parcels = s.parcels := rfl
@[simp] theorem bumpBy_traverses {s : State} {n k i} : (s.bumpBy n k i).traverses = s.traverses := rfl
@[simp] theorem bumpBy_owedVerdicts {s : State} {n k i} : (s.bumpBy n k i).owedVerdicts = s.owedVerdicts := rfl
@[simp] theorem bumpBy_tallies {s : State} {n k i} : (s.bumpBy n k i).tallies = s.tallies := rfl
@[simp] theorem bumpBy_regions {s : State} {n k i} : (s.bumpBy n k i).regions = s.regions := rfl
@[simp] theorem bumpBy_ledgerWalks {s : State} {n k i} : (s.bumpBy n k i).ledgerWalks = s.ledgerWalks := rfl
@[simp] theorem bumpBy_serials {s : State} {n k i} : (s.bumpBy n k i).serials = s.serials := rfl
@[simp] theorem bumpBy_bases {s : State} {n k i} : (s.bumpBy n k i).bases = s.bases := rfl
@[simp] theorem bumpBy_bindings {s : State} {n k i} : (s.bumpBy n k i).bindings = s.bindings := rfl
@[simp] theorem bumpBy_actions {s : State} {n k i} : (s.bumpBy n k i).actions = s.actions := rfl
@[simp] theorem bumpBy_fired {s : State} {n k i} : (s.bumpBy n k i).fired = s.fired := rfl
@[simp] theorem bumpBy_ringSync {s : State} {n k i} : (s.bumpBy n k i).ringSync = s.ringSync := rfl
@[simp] theorem bumpBy_timebases {s : State} {n k i} : (s.bumpBy n k i).timebases = s.timebases := rfl
@[simp] theorem bumpBy_routes {s : State} {n k i} : (s.bumpBy n k i).routes = s.routes := rfl
@[simp] theorem bumpBy_monitor {s : State} {n k i} : (s.bumpBy n k i).monitor = s.monitor := rfl
@[simp] theorem bumpBy_ports {s : State} {n k i} : (s.bumpBy n k i).ports = s.ports := rfl
@[simp] theorem bumpBy_links {s : State} {n k i} : (s.bumpBy n k i).links = s.links := rfl
@[simp] theorem bumpBy_chiplets {s : State} {n k i} : (s.bumpBy n k i).chiplets = s.chiplets := rfl
@[simp] theorem bumpBy_xbar {s : State} {n k i} : (s.bumpBy n k i).xbar = s.xbar := rfl
@[simp] theorem bumpBy_dies {s : State} {n k i} : (s.bumpBy n k i).dies = s.dies := rfl
@[simp] theorem bumpBy_hbmStacks {s : State} {n k i} : (s.bumpBy n k i).hbmStacks = s.hbmStacks := rfl
@[simp] theorem bumpBy_mdReseq {s : State} {n k i} : (s.bumpBy n k i).mdReseq = s.mdReseq := rfl
@[simp] theorem bumpBy_counters {s : State} {n k i} : (s.bumpBy n k i).counters = counterSet k i ((s.counter k i + n) % 2 ^ 64) s.counters := rfl

/-! `State.bumpSat` -/

@[simp] theorem bumpSat_pending {s : State} {n k i} : (s.bumpSat n k i).pending = s.pending := rfl
@[simp] theorem bumpSat_clock {s : State} {n k i} : (s.bumpSat n k i).clock = s.clock := rfl
@[simp] theorem bumpSat_freeCount {s : State} {n k i} : (s.bumpSat n k i).freeCount = s.freeCount := rfl
@[simp] theorem bumpSat_sent {s : State} {n k i} : (s.bumpSat n k i).sent = s.sent := rfl
@[simp] theorem bumpSat_hostOut {s : State} {n k i} : (s.bumpSat n k i).hostOut = s.hostOut := rfl
@[simp] theorem bumpSat_trust {s : State} {n k i} : (s.bumpSat n k i).trust = s.trust := rfl
@[simp] theorem bumpSat_scan {s : State} {n k i} : (s.bumpSat n k i).scan = s.scan := rfl
@[simp] theorem bumpSat_dbg {s : State} {n k i} : (s.bumpSat n k i).dbg = s.dbg := rfl
@[simp] theorem bumpSat_pokes {s : State} {n k i} : (s.bumpSat n k i).pokes = s.pokes := rfl
@[simp] theorem bumpSat_boot {s : State} {n k i} : (s.bumpSat n k i).boot = s.boot := rfl
@[simp] theorem bumpSat_supply {s : State} {n k i} : (s.bumpSat n k i).supply = s.supply := rfl
@[simp] theorem bumpSat_refclk {s : State} {n k i} : (s.bumpSat n k i).refclk = s.refclk := rfl
@[simp] theorem bumpSat_groups {s : State} {n k i} : (s.bumpSat n k i).groups = s.groups := rfl
@[simp] theorem bumpSat_placement {s : State} {n k i} : (s.bumpSat n k i).placement = s.placement := rfl
@[simp] theorem bumpSat_mailbox {s : State} {n k i} : (s.bumpSat n k i).mailbox = s.mailbox := rfl
@[simp] theorem bumpSat_book {s : State} {n k i} : (s.bumpSat n k i).book = s.book := rfl
@[simp] theorem bumpSat_parcels {s : State} {n k i} : (s.bumpSat n k i).parcels = s.parcels := rfl
@[simp] theorem bumpSat_traverses {s : State} {n k i} : (s.bumpSat n k i).traverses = s.traverses := rfl
@[simp] theorem bumpSat_owedVerdicts {s : State} {n k i} : (s.bumpSat n k i).owedVerdicts = s.owedVerdicts := rfl
@[simp] theorem bumpSat_tallies {s : State} {n k i} : (s.bumpSat n k i).tallies = s.tallies := rfl
@[simp] theorem bumpSat_regions {s : State} {n k i} : (s.bumpSat n k i).regions = s.regions := rfl
@[simp] theorem bumpSat_ledgerWalks {s : State} {n k i} : (s.bumpSat n k i).ledgerWalks = s.ledgerWalks := rfl
@[simp] theorem bumpSat_serials {s : State} {n k i} : (s.bumpSat n k i).serials = s.serials := rfl
@[simp] theorem bumpSat_bases {s : State} {n k i} : (s.bumpSat n k i).bases = s.bases := rfl
@[simp] theorem bumpSat_bindings {s : State} {n k i} : (s.bumpSat n k i).bindings = s.bindings := rfl
@[simp] theorem bumpSat_actions {s : State} {n k i} : (s.bumpSat n k i).actions = s.actions := rfl
@[simp] theorem bumpSat_fired {s : State} {n k i} : (s.bumpSat n k i).fired = s.fired := rfl
@[simp] theorem bumpSat_ringSync {s : State} {n k i} : (s.bumpSat n k i).ringSync = s.ringSync := rfl
@[simp] theorem bumpSat_timebases {s : State} {n k i} : (s.bumpSat n k i).timebases = s.timebases := rfl
@[simp] theorem bumpSat_routes {s : State} {n k i} : (s.bumpSat n k i).routes = s.routes := rfl
@[simp] theorem bumpSat_monitor {s : State} {n k i} : (s.bumpSat n k i).monitor = s.monitor := rfl
@[simp] theorem bumpSat_ports {s : State} {n k i} : (s.bumpSat n k i).ports = s.ports := rfl
@[simp] theorem bumpSat_links {s : State} {n k i} : (s.bumpSat n k i).links = s.links := rfl
@[simp] theorem bumpSat_chiplets {s : State} {n k i} : (s.bumpSat n k i).chiplets = s.chiplets := rfl
@[simp] theorem bumpSat_xbar {s : State} {n k i} : (s.bumpSat n k i).xbar = s.xbar := rfl
@[simp] theorem bumpSat_dies {s : State} {n k i} : (s.bumpSat n k i).dies = s.dies := rfl
@[simp] theorem bumpSat_hbmStacks {s : State} {n k i} : (s.bumpSat n k i).hbmStacks = s.hbmStacks := rfl
@[simp] theorem bumpSat_mdReseq {s : State} {n k i} : (s.bumpSat n k i).mdReseq = s.mdReseq := rfl
@[simp] theorem bumpSat_counters {s : State} {n k i} : (s.bumpSat n k i).counters = counterSet k i (min n (s.counter k i + 1)) s.counters := rfl

/-! `State.bump` -/

@[simp] theorem bump_pending {s : State} {k i} : (s.bump k i).pending = s.pending := rfl
@[simp] theorem bump_clock {s : State} {k i} : (s.bump k i).clock = s.clock := rfl
@[simp] theorem bump_freeCount {s : State} {k i} : (s.bump k i).freeCount = s.freeCount := rfl
@[simp] theorem bump_sent {s : State} {k i} : (s.bump k i).sent = s.sent := rfl
@[simp] theorem bump_hostOut {s : State} {k i} : (s.bump k i).hostOut = s.hostOut := rfl
@[simp] theorem bump_trust {s : State} {k i} : (s.bump k i).trust = s.trust := rfl
@[simp] theorem bump_scan {s : State} {k i} : (s.bump k i).scan = s.scan := rfl
@[simp] theorem bump_dbg {s : State} {k i} : (s.bump k i).dbg = s.dbg := rfl
@[simp] theorem bump_pokes {s : State} {k i} : (s.bump k i).pokes = s.pokes := rfl
@[simp] theorem bump_boot {s : State} {k i} : (s.bump k i).boot = s.boot := rfl
@[simp] theorem bump_supply {s : State} {k i} : (s.bump k i).supply = s.supply := rfl
@[simp] theorem bump_refclk {s : State} {k i} : (s.bump k i).refclk = s.refclk := rfl
@[simp] theorem bump_groups {s : State} {k i} : (s.bump k i).groups = s.groups := rfl
@[simp] theorem bump_placement {s : State} {k i} : (s.bump k i).placement = s.placement := rfl
@[simp] theorem bump_mailbox {s : State} {k i} : (s.bump k i).mailbox = s.mailbox := rfl
@[simp] theorem bump_book {s : State} {k i} : (s.bump k i).book = s.book := rfl
@[simp] theorem bump_parcels {s : State} {k i} : (s.bump k i).parcels = s.parcels := rfl
@[simp] theorem bump_traverses {s : State} {k i} : (s.bump k i).traverses = s.traverses := rfl
@[simp] theorem bump_owedVerdicts {s : State} {k i} : (s.bump k i).owedVerdicts = s.owedVerdicts := rfl
@[simp] theorem bump_tallies {s : State} {k i} : (s.bump k i).tallies = s.tallies := rfl
@[simp] theorem bump_regions {s : State} {k i} : (s.bump k i).regions = s.regions := rfl
@[simp] theorem bump_ledgerWalks {s : State} {k i} : (s.bump k i).ledgerWalks = s.ledgerWalks := rfl
@[simp] theorem bump_serials {s : State} {k i} : (s.bump k i).serials = s.serials := rfl
@[simp] theorem bump_bases {s : State} {k i} : (s.bump k i).bases = s.bases := rfl
@[simp] theorem bump_bindings {s : State} {k i} : (s.bump k i).bindings = s.bindings := rfl
@[simp] theorem bump_actions {s : State} {k i} : (s.bump k i).actions = s.actions := rfl
@[simp] theorem bump_fired {s : State} {k i} : (s.bump k i).fired = s.fired := rfl
@[simp] theorem bump_ringSync {s : State} {k i} : (s.bump k i).ringSync = s.ringSync := rfl
@[simp] theorem bump_timebases {s : State} {k i} : (s.bump k i).timebases = s.timebases := rfl
@[simp] theorem bump_routes {s : State} {k i} : (s.bump k i).routes = s.routes := rfl
@[simp] theorem bump_monitor {s : State} {k i} : (s.bump k i).monitor = s.monitor := rfl
@[simp] theorem bump_ports {s : State} {k i} : (s.bump k i).ports = s.ports := rfl
@[simp] theorem bump_links {s : State} {k i} : (s.bump k i).links = s.links := rfl
@[simp] theorem bump_chiplets {s : State} {k i} : (s.bump k i).chiplets = s.chiplets := rfl
@[simp] theorem bump_xbar {s : State} {k i} : (s.bump k i).xbar = s.xbar := rfl
@[simp] theorem bump_dies {s : State} {k i} : (s.bump k i).dies = s.dies := rfl
@[simp] theorem bump_hbmStacks {s : State} {k i} : (s.bump k i).hbmStacks = s.hbmStacks := rfl
@[simp] theorem bump_mdReseq {s : State} {k i} : (s.bump k i).mdReseq = s.mdReseq := rfl
@[simp] theorem bump_counters {s : State} {k i} : (s.bump k i).counters = counterSet k i ((s.counter k i + 1) % 2 ^ 64) s.counters := rfl

end Sys2Proof.Laws
end

