-- ==== Sys2Proof/Laws/Acceptance.lean ====
section
/-! SUPPORT. What a command row does with a command it takes: rejects it, reads, or accepts it. -/
namespace Sys2Proof.Laws
open Sys2Proof.Machine

/-- A verdict that accepts has passed every check. -/
theorem verdictOf_accept {l : List (Bool × Nat)} {v : CmdVerdict} {a : Accepted} (h : verdictOf l v = .accept a) :
    v = .accept a ∧ ∀ x ∈ l, x.1 = false := by
  induction l with
  | nil => exact ⟨h, fun x hx => by cases hx⟩
  | cons x xs ih =>
    unfold verdictOf at h
    split at h
    · cases h
    · rename_i hx
      refine ⟨(ih h).1, fun y hy => ?_⟩
      rcases List.mem_cons.mp hy with rfl | hy
      · simpa using hx
      · exact (ih h).2 y hy

/-- A read verdict has passed every check. -/
theorem verdictOf_read {l : List (Bool × Nat)} {v : CmdVerdict} {st r ver w} (h : verdictOf l v = .read st r ver w) :
    v = .read st r ver w ∧ ∀ x ∈ l, x.1 = false := by
  induction l with
  | nil => exact ⟨h, fun x hx => by cases hx⟩
  | cons x xs ih =>
    unfold verdictOf at h
    split at h
    · cases h
    · rename_i hx
      refine ⟨(ih h).1, fun y hy => ?_⟩
      rcases List.mem_cons.mp hy with rfl | hy
      · simpa using hx
      · exact (ih h).2 y hy

/-- A command that is taken is settled by the first check that fails, or by its verdict. -/
theorem runCommand_taken {form own c} {s : State} (hp : c.pair < 64) (ht : s.takes c = true) (hf : form (s.loaded c) = true) :
    runCommand form own c s = .next (settleVerdict (s.loaded c) (s.pair c.pair).cmdHead
      (verdictOf (commonChecks (s.loaded c) s) (own (s.loaded c) s)) (takeCommand c.pair s)) := by
  simp [runCommand, guardUnit, hp, ht, hf]

/-- An accepted command's effect begins in the state that journals it. -/
theorem runCommand_accepts {form own c a} {s : State} (h : Accepts form own c s a) :
    runCommand form own c s = .next (a.effect s.book.next (s.begun c a)) := by
  rw [runCommand_taken h.pair h.takes h.form, h.checks]
  rfl

/-- The opcode's own verdict accepts what its row accepts. -/
theorem Accepts.own {form own c a} {s : State} (h : Accepts form own c s a) : own (s.loaded c) s = .accept a :=
  (verdictOf_accept h.checks).1

end Sys2Proof.Laws
end

