-- ==== Sys2Proof/Laws/Memory.lean ====
section
/-! SUPPORT. Laws of the byte memories: every operation keeps the canonical form, a read after a write gives the bytes
written, and every other byte is left alone. -/
namespace Sys2Proof.Laws
open Sys2Proof.Machine

/-- A canonical memory stays canonical when its first address may be lower. -/
theorem wfFrom_mono {lo lo' : Nat} {m : List Host.Cell} (h : Memory.wfFrom lo m = true) (hl : lo' ≤ lo) :
    Memory.wfFrom lo' m = true := by
  cases m with
  | nil => rfl
  | cons c r =>
    simp only [Memory.wfFrom, Bool.and_eq_true, decide_eq_true_eq] at h ⊢
    exact ⟨⟨Nat.le_trans hl h.1.1, h.1.2⟩, h.2⟩

/-- Leaving cells out keeps the canonical form. -/
theorem wfFrom_filter (p : Host.Cell → Bool) {m : List Host.Cell} : ∀ {lo : Nat}, Memory.wfFrom lo m = true →
    Memory.wfFrom lo (m.filter p) = true := by
  induction m with
  | nil => intro lo _; rfl
  | cons c r ih =>
    intro lo h
    simp only [Memory.wfFrom, Bool.and_eq_true, decide_eq_true_eq] at h
    rw [List.filter_cons]
    split
    · simp only [Memory.wfFrom, Bool.and_eq_true, decide_eq_true_eq]
      exact ⟨h.1, ih h.2⟩
    · exact wfFrom_mono (ih h.2) (by omega)

/-- Two canonical pieces in order make a canonical memory. -/
theorem wfFrom_append {mid : Nat} {b : List Host.Cell} (hb : Memory.wfFrom mid b = true) {a : List Host.Cell} :
    ∀ {lo : Nat}, Memory.wfFrom lo a = true → (∀ c ∈ a, c.1 < mid) → lo ≤ mid → Memory.wfFrom lo (a ++ b) = true := by
  induction a with
  | nil => intro lo _ _ hl; exact wfFrom_mono hb hl
  | cons c r ih =>
    intro lo h hm hl
    simp only [Memory.wfFrom, Bool.and_eq_true, decide_eq_true_eq, List.cons_append] at h ⊢
    exact ⟨h.1, ih h.2 (fun d hd => hm d (List.mem_cons_of_mem _ hd)) (hm c (List.mem_cons_self ..))⟩

/-- The cells of a run of bytes stand in its range. -/
theorem cells_range : ∀ (bs : Bytes) (a : Nat) (c : Host.Cell), c ∈ Memory.cells a bs → a ≤ c.1 ∧ c.1 < a + bs.length := by
  intro bs
  induction bs with
  | nil => intro a c h; cases h
  | cons b bs ih =>
    intro a c h
    rw [List.length_cons]
    unfold Memory.cells at h
    split at h
    · have := ih _ _ h; omega
    · rcases List.mem_cons.mp h with rfl | h
      · exact ⟨Nat.le_refl _, by show a < _; omega⟩
      · have := ih _ _ h; omega

/-- The cells of a run of bytes are canonical. -/
theorem cells_wfFrom : ∀ (bs : Bytes) (a : Nat), Memory.wfFrom a (Memory.cells a bs) = true := by
  intro bs
  induction bs with
  | nil => intro a; rfl
  | cons b bs ih =>
    intro a
    unfold Memory.cells
    split
    · exact wfFrom_mono (ih (a + 1)) (Nat.le_succ a)
    · rename_i h
      simp only [Memory.wfFrom, Bool.and_eq_true, decide_eq_true_eq, bne_iff_ne]
      exact ⟨⟨Nat.le_refl a, h⟩, ih (a + 1)⟩

/-- Every cell at or above a bound: what is left of a canonical memory from there on is canonical from there on. -/
theorem wfFrom_above {m : List Host.Cell} (n : Nat) : ∀ {lo : Nat}, Memory.wfFrom lo m = true →
    Memory.wfFrom n (m.filter fun c => decide (n ≤ c.1)) = true := by
  induction m with
  | nil => intro lo _; rfl
  | cons c r ih =>
    intro lo h
    simp only [Memory.wfFrom, Bool.and_eq_true, decide_eq_true_eq] at h
    rw [List.filter_cons]
    split
    · rename_i hc
      simp only [Memory.wfFrom, Bool.and_eq_true, decide_eq_true_eq]
      exact ⟨⟨by simpa using hc, h.1.2⟩, wfFrom_filter _ h.2⟩
    · exact ih h.2

/-- Writing bytes keeps the canonical form. -/
theorem Memory.wf_write {m : List Host.Cell} (a : Nat) (bs : Bytes) (h : Memory.wf m = true) :
    Memory.wf (Memory.write a bs m) = true := by
  unfold Memory.wf Memory.write at *
  refine wfFrom_append (mid := a + bs.length) (wfFrom_above _ h) ?_ ?_ (Nat.zero_le _)
  · refine wfFrom_append (mid := a) (cells_wfFrom bs a) (wfFrom_filter _ h) ?_ (Nat.zero_le _)
    intro c hc
    simpa using (List.mem_filter.mp hc).2
  · intro c hc
    rcases List.mem_append.mp hc with hc | hc
    · have : c.1 < a := by simpa using (List.mem_filter.mp hc).2
      omega
    · exact (cells_range bs a c hc).2

/-- Zeroing bytes keeps the canonical form. -/
theorem Memory.wf_zero {m : List Host.Cell} (a n : Nat) (h : Memory.wf m = true) : Memory.wf (Memory.zero a n m) = true :=
  wfFrom_filter _ h

/-- Zeroing a list of ranges keeps the canonical form. -/
theorem Memory.wf_zero_all (rs : List (Nat × Nat)) : ∀ {m : List Host.Cell}, Memory.wf m = true →
    Memory.wf (rs.foldl (fun r x => Memory.zero x.1 x.2 r) m) = true := by
  induction rs with
  | nil => intro m h; exact h
  | cons x xs ih => intro m h; exact ih (Memory.wf_zero x.1 x.2 h)

/-! ### Reading -/

/-- A read of cells of which none stands at the address. -/
theorem find_none {m : List Host.Cell} {x : Nat} (h : ∀ c ∈ m, c.1 ≠ x) : (m.find? fun c => c.1 == x) = none := by
  rw [List.find?_eq_none]
  intro c hc
  simpa using h c hc

/-- Leaving out cells that stand elsewhere does not change what an address reads as. -/
theorem find_filter {p : Host.Cell → Bool} {x : Nat} (hp : ∀ c : Host.Cell, c.1 = x → p c = true) (m : List Host.Cell) :
    ((m.filter p).find? fun c => c.1 == x) = m.find? fun c => c.1 == x := by
  induction m with
  | nil => rfl
  | cons c r ih =>
    by_cases hc : c.1 = x
    · rw [List.filter_cons, if_pos (hp c hc), List.find?_cons, List.find?_cons]
      have : (c.1 == x) = true := by simpa using hc
      rw [this]
    · have hb : (c.1 == x) = false := by simpa using hc
      rw [List.filter_cons, List.find?_cons, hb]
      split
      · rw [List.find?_cons, hb]; exact ih
      · exact ih

/-- A write leaves every byte outside its range as it was. -/
theorem Memory.read_write_other {m : List Host.Cell} {a : Nat} {bs : Bytes} {x : Nat} (h : x < a ∨ a + bs.length ≤ x) :
    Memory.read (Memory.write a bs m) x = Memory.read m x := by
  unfold Memory.read Memory.write
  congr 2
  have hc : (Memory.cells a bs).find? (fun c => c.1 == x) = none :=
    find_none fun c hc he => by have := cells_range bs a c hc; omega
  rw [List.find?_append, List.find?_append, hc, Option.or_none]
  rcases h with h | h
  · rw [find_filter (x := x) (by intro c hx; simpa [hx] using h)]
    have h2 : (m.filter fun c => decide (a + bs.length ≤ c.1)).find? (fun c => c.1 == x) = none :=
      find_none fun c hc he => by
        have : a + bs.length ≤ c.1 := by simpa using (List.mem_filter.mp hc).2
        omega
    rw [h2, Option.or_none]
  · have h1 : (m.filter fun c => decide (c.1 < a)).find? (fun c => c.1 == x) = none :=
      find_none fun c hc he => by
        have : c.1 < a := by simpa using (List.mem_filter.mp hc).2
        omega
    rw [h1, Option.none_or, find_filter (x := x) (by intro c hx; simpa [hx] using h)]

/-- What the cells of a run of bytes read as. -/
theorem cells_read : ∀ (bs : Bytes) (a i : Nat) (hi : i < bs.length), Memory.read (Memory.cells a bs) (a + i) = bs[i] := by
  intro bs
  induction bs with
  | nil => intro a i hi; cases hi
  | cons b bs ih =>
    intro a i hi
    cases i with
    | zero =>
      unfold Memory.cells
      split
      · rename_i hb
        unfold Memory.read
        rw [find_none (fun c hc he => by have := cells_range bs (a + 1) c hc; omega)]
        exact hb.symm
      · unfold Memory.read
        rw [List.find?_cons]
        have : (a == a + 0) = true := by simp
        rw [this]
        rfl
    | succ i =>
      have hi' : i < bs.length := by simpa using hi
      have := ih (a + 1) i hi'
      unfold Memory.cells
      rw [show a + (i + 1) = a + 1 + i by omega]
      split
      · exact this
      · unfold Memory.read at this ⊢
        rw [List.find?_cons]
        have : (a == a + 1 + i) = false := by simp; omega
        rw [this]
        assumption

/-- A read after a write gives the byte written. -/
theorem Memory.read_write_same {m : List Host.Cell} {a : Nat} {bs : Bytes} {i : Nat} (hi : i < bs.length) :
    Memory.read (Memory.write a bs m) (a + i) = bs[i] := by
  rw [← cells_read bs a i hi]
  unfold Memory.read Memory.write
  congr 2
  have h1 : (m.filter fun c => decide (c.1 < a)).find? (fun c => c.1 == a + i) = none :=
    find_none fun c hc he => by
      have : c.1 < a := by simpa using (List.mem_filter.mp hc).2
      omega
  have h2 : (m.filter fun c => decide (a + bs.length ≤ c.1)).find? (fun c => c.1 == a + i) = none :=
    find_none fun c hc he => by
      have : a + bs.length ≤ c.1 := by simpa using (List.mem_filter.mp hc).2
      omega
  rw [List.find?_append, List.find?_append, h1, h2, Option.none_or, Option.or_none]

/-- A zeroed byte reads blank; the others read as before. -/
theorem Memory.read_zero {m : List Host.Cell} {a n x : Nat} :
    Memory.read (Memory.zero a n m) x = if a ≤ x ∧ x < a + n then Memory.blank else Memory.read m x := by
  unfold Memory.read Memory.zero
  split
  · rw [find_none (fun c hc he => by
      have : c.1 < a ∨ a + n ≤ c.1 := by simpa using (List.mem_filter.mp hc).2
      omega)]
    rfl
  · rw [find_filter (x := x) (by intro c hx; simp [hx]; omega)]

end Sys2Proof.Laws
end

