-- ==== Sys2Proof/Laws/Evolves.lean ====
section
/-! SUPPORT. What any command may do to the parts of the state that few commands write: `Evolves a b` says that the queue
stays, that the invariant of Safety.lean is kept, and that the fuses go forward only. The lemmas of this folder's Evolves
files show it once for each operation, in the order of the model. -/
namespace Sys2Proof.Laws
open Sys2Proof.Machine

/-- From the trust die `a` to `b`: the fuses go forward and the counts stay within their widths. -/
structure TrustKeeps (a b : Trust) : Prop where
  forward : Trust.Forward a b
  bounds : a.inBounds = true → b.inBounds = true

/-- From the mailbox `a` to `b`: the pairs stay 64 and ring memory stays canonical. -/
structure MailboxKeeps (a b : Mailbox) : Prop where
  ring : Memory.wf a.ring = true → Memory.wf b.ring = true
  pairs : a.pairs.length = 64 → b.pairs.length = 64

/-- From one stack `a` to `b`: its memory's form stays and, where `bt` is set, its bytes. -/
structure HbmKeeps (bt : Bool) (a b : Hbm) : Prop where
  wf : Memory.wf a.mem = true → Memory.wf b.mem = true
  bytes : bt = true → b.mem = a.mem

/-- From the stacks `a` to `b`: their number and their memories' form stay and, where `bt` is set, every byte. -/
structure StacksKeep (bt : Bool) (a b : List Hbm) : Prop where
  wf : (a.all fun h => Memory.wf h.mem) = true → (b.all fun h => Memory.wf h.mem) = true
  length : b.length = a.length
  bytes : bt = true → ∀ i, (b.getD i {}).mem = (a.getD i {}).mem

/-- From the state `a` to `b`; with `qt` the parts that State.Quiet names stay as they are, with `bt` every byte of HBM does. -/
structure Evolves (qt bt : Bool) (a b : State) : Prop where
  pending : b.pending = a.pending
  inv : a.inv = true → b.inv = true
  fuses : Trust.Forward a.trust b.trust
  quiet : qt = true → State.Quiet a b
  bytes : bt = true → ∀ i, (b.stack i).mem = (a.stack i).mem

theorem Quiet.refl (s : State) : State.Quiet s s := ⟨rfl, rfl, rfl, rfl, rfl, rfl, rfl, rfl, rfl⟩
theorem Quiet.trans {a b c : State} (h : State.Quiet a b) (k : State.Quiet b c) : State.Quiet a c :=
  ⟨k.trust.trans h.trust, k.scan.trans h.scan, k.dbg.trans h.dbg, k.supply.trans h.supply, k.refclk.trans h.refclk,
    k.placement.trans h.placement, k.timebases.trans h.timebases, k.bases.trans h.bases, k.serials.trans h.serials⟩

theorem Forward.refl (t : Trust) : Trust.Forward t t :=
  ⟨rfl, rfl, rfl, rfl, Nat.le_refl _, BitVec.and_self, Nat.le_refl _, fun _ => rfl, id⟩

theorem and_trans {a b c : BitVec 4} (h : a &&& b = a) (k : b &&& c = b) : a &&& c = a := by
  rw [← h, BitVec.and_assoc, k]

theorem Forward.trans {a b c : Trust} (h : Trust.Forward a b) (k : Trust.Forward b c) : Trust.Forward a c where
  serial := k.serial.trans h.serial
  stepping := k.stepping.trans h.stepping
  disabledPairs := k.disabledPairs.trans h.disabledPairs
  vendorDigest := k.vendorDigest.trans h.vendorDigest
  svCount := Nat.le_trans h.svCount k.svCount
  vendorRevoke := and_trans h.vendorRevoke k.vendorRevoke
  lifecycle := Nat.le_trans h.lifecycle k.lifecycle
  ownerDigest := fun ha => (k.ownerDigest (Nat.le_trans ha h.lifecycle)).trans (h.ownerDigest ha)
  wipeDone := fun ha => k.wipeDone (h.wipeDone ha)

theorem TrustKeeps.refl (t : Trust) : TrustKeeps t t := ⟨Forward.refl t, id⟩
theorem TrustKeeps.trans {a b c : Trust} (h : TrustKeeps a b) (k : TrustKeeps b c) : TrustKeeps a c :=
  ⟨Forward.trans h.forward k.forward, fun x => k.bounds (h.bounds x)⟩
theorem MailboxKeeps.refl (m : Mailbox) : MailboxKeeps m m := ⟨id, id⟩
theorem MailboxKeeps.trans {a b c : Mailbox} (h : MailboxKeeps a b) (k : MailboxKeeps b c) : MailboxKeeps a c :=
  ⟨fun x => k.ring (h.ring x), fun x => k.pairs (h.pairs x)⟩
theorem HbmKeeps.refl {bt : Bool} (h : Hbm) : HbmKeeps bt h h := ⟨id, fun _ => rfl⟩
theorem StacksKeep.refl {bt : Bool} (l : List Hbm) : StacksKeep bt l l := ⟨id, rfl, fun _ _ => rfl⟩

/-- A mailbox whose rings and pairs are left alone. -/
theorem MailboxKeeps.same {a b : Mailbox} (hr : b.ring = a.ring) (hp : b.pairs = a.pairs) : MailboxKeeps a b :=
  ⟨fun h => hr ▸ h, fun h => hp ▸ h⟩

/-- A trust die whose fuses and counts are left alone. -/
theorem TrustKeeps.same {a b : Trust} (h1 : b.serial = a.serial) (h2 : b.stepping = a.stepping) (h3 : b.disabledPairs = a.disabledPairs)
    (h4 : b.vendorDigest = a.vendorDigest) (h5 : b.svCount = a.svCount) (h6 : b.vendorRevoke = a.vendorRevoke)
    (h7 : b.fusedLifecycle = a.fusedLifecycle) (h8 : b.ownerDigest = a.ownerDigest) (h9 : b.wipeDone = a.wipeDone)
    (h : a.inBounds = true → b.inBounds = true) : TrustKeeps a b :=
  ⟨⟨h1, h2, h3, h4, Nat.le_of_eq h5.symm, by rw [h6, BitVec.and_self], Nat.le_of_eq (by rw [h7]), fun _ => h8, fun x => h9 ▸ x⟩, h⟩

/-- A trust die that is wiped. -/
theorem TrustKeeps.wiped {a b : Trust} (h1 : b.serial = a.serial) (h2 : b.stepping = a.stepping) (h3 : b.disabledPairs = a.disabledPairs)
    (h4 : b.vendorDigest = a.vendorDigest) (h5 : b.svCount = a.svCount) (h6 : b.vendorRevoke = a.vendorRevoke)
    (h7 : b.fusedLifecycle = a.fusedLifecycle) (h8 : b.ownerDigest = a.ownerDigest) (h9 : b.wipeDone = true)
    (h : a.inBounds = true → b.inBounds = true) : TrustKeeps a b :=
  ⟨⟨h1, h2, h3, h4, Nat.le_of_eq h5.symm, by rw [h6, BitVec.and_self], Nat.le_of_eq (by rw [h7]), fun _ => h8, fun _ => h9⟩, h⟩

variable {qt bt : Bool}

theorem Evolves.refl (s : State) : Evolves qt bt s s := ⟨rfl, id, Forward.refl _, fun _ => Quiet.refl s, fun _ _ => rfl⟩
theorem Evolves.trans {a b c : State} (h : Evolves qt bt a b) (k : Evolves qt bt b c) : Evolves qt bt a c :=
  ⟨k.pending.trans h.pending, fun x => k.inv (h.inv x), Forward.trans h.fuses k.fuses, fun x => Quiet.trans (h.quiet x) (k.quiet x),
    fun x i => (k.bytes x i).trans (h.bytes x i)⟩

/-- The invariant, taken apart. -/
theorem inv_iff (s : State) : s.inv = true ↔
    (s.hbmStacks.all (fun h => Memory.wf h.mem) = true ∧ Memory.wf s.mailbox.ring = true) ∧
    (s.ports.length = 128 ∧ s.links.length = 128 ∧ s.chiplets.length = 32 ∧ s.dies.length = 30 ∧ s.hbmStacks.length = 30 ∧
      s.groups.length = 20 ∧ s.bases.length = 8 ∧ s.mailbox.pairs.length = 64 ∧ s.timebases.length = 2) ∧ s.trust.inBounds = true := by
  simp only [State.inv, State.memoriesWf, State.unitsOk, Bool.and_eq_true, beq_iff_eq, and_assoc]

/-- A state that differs from one that has evolved in fields the relation does not speak of, or keeps what it asks of them. -/
theorem Evolves.update {s0 s : State} {clock freeCount sent hostOut trust scan dbg pokes boot supply refclk groups placement mailbox
    book parcels traverses owedVerdicts tallies regions ledgerWalks serials bases bindings actions fired ringSync timebases routes monitor
    ports links chiplets xbar dies hbmStacks mdReseq counters} (h : Evolves qt bt s0 s) (ht : TrustKeeps s.trust trust)
    (hm : MailboxKeeps s.mailbox mailbox) (hk : StacksKeep bt s.hbmStacks hbmStacks) (h1 : ports.length = s.ports.length)
    (h2 : links.length = s.links.length) (h3 : chiplets.length = s.chiplets.length) (h4 : dies.length = s.dies.length)
    (h5 : groups.length = s.groups.length) (h6 : bases.length = s.bases.length) (h7 : timebases.length = s.timebases.length)
    (hq : qt = true → (trust = s.trust ∧ scan = s.scan ∧ dbg = s.dbg ∧ supply = s.supply ∧ refclk = s.refclk ∧
      placement = s.placement ∧ timebases = s.timebases ∧ bases = s.bases ∧ serials = s.serials)) :
    Evolves qt bt s0 (State.mk s.pending clock freeCount sent hostOut trust scan dbg pokes boot supply refclk groups placement mailbox
      book parcels traverses owedVerdicts tallies regions ledgerWalks serials bases bindings actions fired ringSync timebases routes monitor
      ports links chiplets xbar dies hbmStacks mdReseq counters) := by
  refine h.trans ⟨rfl, ?_, ht.forward, fun x => ?quiet, hk.bytes⟩
  case quiet => obtain ⟨a, b, c, d, e, f, g, i, j⟩ := hq x; exact ⟨a, b, c, d, e, f, g, i, j⟩
  rw [inv_iff, inv_iff]
  rintro ⟨⟨a1, a2⟩, ⟨b1, b2, b3, b4, b5, b6, b7, b8, b9⟩, c⟩
  exact ⟨⟨hk.wf a1, hm.ring a2⟩, ⟨h1.trans b1, h2.trans b2, h3.trans b3, h4.trans b4, hk.length.trans b5, h5.trans b6, h6.trans b7,
    hm.pairs b8, h7.trans b9⟩, ht.bounds c⟩

/-- A flag that is not set asks nothing. -/
theorem off {p : Prop} : false = true → p := nofun

theorem id_ev {s0 s : State} (h : Evolves qt bt s0 s) : Evolves qt bt s0 (id s) := h

theorem elim_ev {α : Type} {s0 s : State} {o : Option α} {f : α → State} (h : Evolves qt bt s0 s) (hf : ∀ x, Evolves qt bt s0 (f x)) :
    Evolves qt bt s0 (o.elim s f) := by
  cases o with
  | none => exact h
  | some x => exact hf x

theorem getD_ev {s0 s : State} {o : Option State} (h : Evolves qt bt s0 s) (ho : ∀ t, o = some t → Evolves qt bt s0 t) : Evolves qt bt s0 (o.getD s) := by
  cases o with
  | none => exact h
  | some t => exact ho t rfl

/-- An image's commit raises SV_COUNT and adds revocations only (R360). -/
theorem commitImage_keeps (img : Bytes) (t : Trust) : TrustKeeps t (commitImage img t) := by
  unfold commitImage
  split
  · exact .refl t
  · refine ⟨⟨rfl, rfl, rfl, rfl, Nat.le_max_left .., ?_, Nat.le_refl _, fun _ => rfl, id⟩, ?_⟩
    · exact BitVec.eq_of_getLsbD_eq fun i _ => by simp only [BitVec.getLsbD_and, BitVec.getLsbD_or, Bool.and_or_distrib_left, Bool.and_self]; cases t.vendorRevoke.getLsbD i <;> simp
    · simp only [Trust.inBounds, Bool.and_eq_true, decide_eq_true_eq]
      omega

theorem wdogMgmt_keeps (t : Trust) : TrustKeeps t { t with wdogMgmt := sat8 t.wdogMgmt } :=
  .same rfl rfl rfl rfl rfl rfl rfl rfl rfl (by
    simp only [Trust.inBounds, sat8, Bool.and_eq_true, decide_eq_true_eq]
    exact fun ⟨⟨⟨⟨⟨a, b⟩, _⟩, d⟩, e⟩, f⟩ => ⟨⟨⟨⟨⟨a, b⟩, decide_eq_true (Nat.min_le_left ..)⟩, d⟩, e⟩, f⟩)

theorem wdogSeq_keeps (t : Trust) : TrustKeeps t { t with wdogSeq := sat8 t.wdogSeq } :=
  .same rfl rfl rfl rfl rfl rfl rfl rfl rfl (by
    simp only [Trust.inBounds, sat8, Bool.and_eq_true, decide_eq_true_eq]
    exact fun ⟨⟨⟨⟨⟨a, b⟩, c⟩, _⟩, e⟩, f⟩ => ⟨⟨⟨⟨⟨a, b⟩, c⟩, decide_eq_true (Nat.min_le_left ..)⟩, e⟩, f⟩)

theorem wdogLane_keeps (t : Trust) : TrustKeeps t { t with wdogLane := sat8 t.wdogLane } :=
  .same rfl rfl rfl rfl rfl rfl rfl rfl rfl (by
    simp only [Trust.inBounds, sat8, Bool.and_eq_true, decide_eq_true_eq]
    exact fun ⟨⟨⟨⟨⟨a, b⟩, c⟩, d⟩, _⟩, f⟩ => ⟨⟨⟨⟨⟨a, b⟩, c⟩, d⟩, decide_eq_true (Nat.min_le_left ..)⟩, f⟩)

theorem wdogTb_keeps (t : Trust) : TrustKeeps t { t with wdogTb := sat8 t.wdogTb } :=
  .same rfl rfl rfl rfl rfl rfl rfl rfl rfl (by
    simp only [Trust.inBounds, sat8, Bool.and_eq_true, decide_eq_true_eq]
    exact fun ⟨⟨⟨⟨⟨a, b⟩, c⟩, d⟩, e⟩, _⟩ => ⟨⟨⟨⟨⟨a, b⟩, c⟩, d⟩, e⟩, decide_eq_true (Nat.min_le_left ..)⟩)

theorem lcErr_keeps (t : Trust) : TrustKeeps t { t with lcErr := min 15 (t.lcErr + 1) } :=
  .same rfl rfl rfl rfl rfl rfl rfl rfl rfl (by
    simp only [Trust.inBounds, Bool.and_eq_true, decide_eq_true_eq]
    exact fun ⟨⟨⟨⟨⟨a, _⟩, c⟩, d⟩, e⟩, f⟩ => ⟨⟨⟨⟨⟨a, Nat.min_le_left ..⟩, c⟩, d⟩, e⟩, f⟩)

/-- A part that is returned. -/
theorem returned_keeps (t : Trust) : TrustKeeps t { t with fusedLifecycle := .returned, wiping := true } :=
  ⟨⟨rfl, rfl, rfl, rfl, Nat.le_refl _, BitVec.and_self, by show _ ≤ 3; cases t.fusedLifecycle <;> decide, fun _ => rfl, id⟩, id⟩

/-- A part that is provisioned. -/
theorem provisioned_keeps {t : Trust} {m d} (h : t.fusedLifecycle = .blank) :
    TrustKeeps t { t with fusedLifecycle := .provisioned, monument := m, monumentDigest := d } :=
  ⟨⟨rfl, rfl, rfl, rfl, Nat.le_refl _, BitVec.and_self, by rw [h]; exact Nat.zero_le _, fun _ => rfl, id⟩, id⟩

/-- A part that is deployed. -/
theorem deployed_keeps {t : Trust} {d} (h : t.fusedLifecycle = .provisioned) :
    TrustKeeps t { t with fusedLifecycle := .deployed, ownerDigest := d } :=
  ⟨⟨rfl, rfl, rfl, rfl, Nat.le_refl _, BitVec.and_self, by show _ ≤ 2; rw [h]; decide, fun hc => by rw [h] at hc; exact absurd hc (by decide), id⟩, id⟩

/-! ### Branches and lists -/

theorem ite_ev {s0 a b : State} {c : Prop} [Decidable c] (ha : Evolves qt bt s0 a) (hb : Evolves qt bt s0 b) :
    Evolves qt bt s0 (if c then a else b) := by
  split <;> assumption

theorem foldl_ev {α : Type} {s0 : State} {f : State → α → State} (hf : ∀ x s, Evolves qt bt s0 s → Evolves qt bt s0 (f s x)) :
    ∀ (xs : List α) {s : State}, Evolves qt bt s0 s → Evolves qt bt s0 (xs.foldl f s) := by
  intro xs
  induction xs with
  | nil => intro s h; exact h
  | cons x xs ih => intro s h; exact ih (hf x s h)

/-- The same for a fold that carries a state beside other results. -/
theorem foldl1_ev {α β : Type} {s0 : State} {f : State × β → α → State × β}
    (hf : ∀ x p, Evolves qt bt s0 p.1 → Evolves qt bt s0 (f p x).1) : ∀ (xs : List α) {p : State × β}, Evolves qt bt s0 p.1 → Evolves qt bt s0 (xs.foldl f p).1 := by
  intro xs
  induction xs with
  | nil => intro p h; exact h
  | cons x xs ih => intro p h; exact ih (hf x p h)

theorem foldl2_ev {α β : Type} {s0 : State} {f : β × State → α → β × State}
    (hf : ∀ x p, Evolves qt bt s0 p.2 → Evolves qt bt s0 (f p x).2) : ∀ (xs : List α) {p : β × State}, Evolves qt bt s0 p.2 → Evolves qt bt s0 (xs.foldl f p).2 := by
  intro xs
  induction xs with
  | nil => intro p h; exact h
  | cons x xs ih => intro p h; exact ih (hf x p h)

theorem foldl22_ev {α β γ : Type} {s0 : State} {f : β × γ × State → α → β × γ × State}
    (hf : ∀ x p, Evolves qt bt s0 p.2.2 → Evolves qt bt s0 (f p x).2.2) :
    ∀ (xs : List α) {p : β × γ × State}, Evolves qt bt s0 p.2.2 → Evolves qt bt s0 (xs.foldl f p).2.2 := by
  intro xs
  induction xs with
  | nil => intro p h; exact h
  | cons x xs ih => intro p h; exact ih (hf x p h)

theorem forEach_ev {α : Type} {s0 : State} {f : α → State → State} {xs : List α} {s : State} (h : Evolves qt bt s0 s)
    (hf : ∀ x s, Evolves qt bt s0 s → Evolves qt bt s0 (f x s)) : Evolves qt bt s0 (forEach xs f s) :=
  foldl_ev (f := fun s x => f x s) hf xs h

/-! ### Updates by index -/

theorem lmap_length {α : Type} (i : Nat) (f : α → α) (l : List α) : (lmap i f l).length = l.length := List.length_modify ..

theorem same9 {s : State} : qt = true → (s.trust = s.trust ∧ s.scan = s.scan ∧ s.dbg = s.dbg ∧ s.supply = s.supply ∧
    s.refclk = s.refclk ∧ s.placement = s.placement ∧ s.timebases = s.timebases ∧ s.bases = s.bases ∧ s.serials = s.serials) :=
  fun _ => ⟨rfl, rfl, rfl, rfl, rfl, rfl, rfl, rfl, rfl⟩

theorem setPort_ev {s0 s : State} {p f} (h : Evolves qt bt s0 s) : Evolves qt bt s0 (s.setPort p f) :=
  .update h (.refl _) (.refl _) (.refl _) (lmap_length ..) rfl rfl rfl rfl rfl rfl same9

theorem setLink_ev {s0 s : State} {p f} (h : Evolves qt bt s0 s) : Evolves qt bt s0 (s.setLink p f) :=
  .update h (.refl _) (.refl _) (.refl _) rfl (lmap_length ..) rfl rfl rfl rfl rfl same9

theorem setDie_ev {s0 s : State} {i f} (h : Evolves qt bt s0 s) : Evolves qt bt s0 (s.setDie i f) :=
  .update h (.refl _) (.refl _) (.refl _) rfl rfl rfl (lmap_length ..) rfl rfl rfl same9

theorem setGroup_ev {s0 s : State} {g f} (h : Evolves qt bt s0 s) : Evolves qt bt s0 (s.setGroup g f) :=
  .update h (.refl _) (.refl _) (.refl _) rfl rfl rfl rfl (lmap_length ..) rfl rfl same9

theorem setTimebase_ev {s0 s : State} {i f} (h : Evolves false bt s0 s) : Evolves false bt s0 (s.setTimebase i f) :=
  .update h (.refl _) (.refl _) (.refl _) rfl rfl rfl rfl rfl rfl (lmap_length ..) nofun

theorem setMailbox_ev {s0 s : State} {f} (h : Evolves qt bt s0 s) (hf : MailboxKeeps s.mailbox (f s.mailbox)) : Evolves qt bt s0 (s.setMailbox f) :=
  .update h (.refl _) hf (.refl _) rfl rfl rfl rfl rfl rfl rfl same9

theorem setPair_ev {s0 s : State} {n f} (h : Evolves qt bt s0 s) : Evolves qt bt s0 (s.setPair n f) :=
  setMailbox_ev h ⟨id, fun x => (lmap_length ..).trans x⟩

/-- An update of one stack keeps the stacks' form where it keeps the form of each. -/
theorem lmap_hbmStacks {i : Nat} {f : Hbm → Hbm} (hf : ∀ x, HbmKeeps bt x (f x)) (l : List Hbm) : StacksKeep bt l (lmap i f l) := by
  refine ⟨?_, lmap_length .., ?bytes⟩
  case bytes =>
    intro hx j
    rw [List.getD_eq_getElem?_getD, List.getD_eq_getElem?_getD]
    change ((l.modify i f)[j]?.getD {}).mem = _
    rw [List.getElem?_modify]
    cases l[j]? with
    | none => rfl
    | some x =>
      show (if i = j then f x else x).mem = x.mem
      split
      · exact (hf x).bytes hx
      · rfl
  intro h
  rw [List.all_eq_true] at h ⊢
  intro x hx
  change x ∈ l.modify i f at hx
  obtain ⟨j, hj, rfl⟩ := List.mem_iff_getElem.mp hx
  rw [List.getElem_modify]
  have hm := h _ (List.getElem_mem (l := l) (n := j) (by simpa only [List.length_modify] using hj))
  split
  · exact (hf _).wf hm
  · exact hm

theorem setStack_ev {s0 s : State} {i f} (h : Evolves qt bt s0 s) (hf : ∀ x, HbmKeeps bt x (f x)) :
    Evolves qt bt s0 (s.setStack i f) :=
  .update h (.refl _) (.refl _) (lmap_hbmStacks hf _) rfl rfl rfl rfl rfl rfl rfl same9

/-! ### Stacks -/

theorem touchChecks_keeps {first count dirty} {h : Hbm} : HbmKeeps bt h (touchChecks first count dirty h) := ⟨id, fun _ => rfl⟩
theorem flushChecks_keeps {h : Hbm} : HbmKeeps bt h (flushChecks h) := ⟨id, fun _ => rfl⟩
theorem findFailing_keeps {pch cause} {h : Hbm} : HbmKeeps bt h (findFailing pch cause h) := by
  unfold findFailing
  split
  · exact .refl h
  · exact ⟨id, fun _ => rfl⟩

theorem findFailing_of {pch cause} {a h : Hbm} (hk : HbmKeeps bt a h) : HbmKeeps bt a (findFailing pch cause h) := by
  unfold findFailing
  split
  · exact hk
  · exact ⟨hk.wf, hk.bytes⟩

/-- A flip of bytes of a memory keeps its form. -/
theorem wf_foldl {α : Type} {f : List Host.Cell → α → List Host.Cell} (hf : ∀ m x, Memory.wf m = true → Memory.wf (f m x) = true) :
    ∀ (xs : List α) {m : List Host.Cell}, Memory.wf m = true → Memory.wf (xs.foldl f m) = true := by
  intro xs
  induction xs with
  | nil => intro m h; exact h
  | cons x xs ih => intro m h; exact ih (hf m x h)

theorem settleLine_keeps {a} {h : Hbm} : HbmKeeps false h (settleLine a h) := by
  unfold settleLine
  dsimp only
  split
  · exact .refl h
  · refine ⟨fun hm => wf_foldl (fun m x hx => ?_) _ hm, nofun⟩
    split
    · exact Memory.wf_write _ _ hx
    · exact hx

theorem HbmKeeps.trans {a b c : Hbm} (h : HbmKeeps bt a b) (k : HbmKeeps bt b c) : HbmKeeps bt a c :=
  ⟨fun x => k.wf (h.wf x), fun x => (k.bytes x).trans (h.bytes x)⟩

theorem settleLines_keeps (as : List Nat) : ∀ {h : Hbm}, HbmKeeps false h (as.foldl (fun h a => settleLine a h) h) := by
  induction as with
  | nil => exact .refl _
  | cons a as ih => exact settleLine_keeps.trans ih

theorem addErrors_keeps {es} {h : Hbm} : HbmKeeps false h (addErrors es h) :=
  HbmKeeps.trans (b := { h with errors := es.foldl (fun l e => xorError (e.1, e.2.1) e.2.2 l) h.errors }) ⟨id, nofun⟩ (settleLines_keeps _)

theorem findSilent_keeps (cs : List Nat) : ∀ {h : Hbm}, HbmKeeps bt h (cs.foldl (fun h c => findFailing c 1 h) h) := by
  induction cs with
  | nil => exact .refl _
  | cons c cs ih => exact findFailing_keeps.trans ih

theorem noteFaults_keeps {w} {h : Hbm} : HbmKeeps false h (noteFaults w h) := by
  unfold noteFaults
  refine HbmKeeps.trans ?_ (findSilent_keeps _)
  exact HbmKeeps.trans (b := { h with badSectors := (h.badSectors ++ w.sectors).eraseDups, deaf := (h.deaf ++ w.silent).eraseDups }) ⟨id, nofun⟩
    addErrors_keeps

end Sys2Proof.Laws
end

