-- ==== Sys2Proof/Laws/Operations.lean ====
section
/-! SUPPORT. Each operation of the model keeps the relation of Evolves.lean: one lemma for each, in the order of the model. -/
namespace Sys2Proof.Laws
open Sys2Proof.Machine

variable {qt bt : Bool}

theorem reach_ev {s0 s : State} {deadline} (h : Evolves qt bt s0 s) : Evolves qt bt s0 (State.reach s deadline) := by
  unfold State.reach
  repeat' with_reducible (first
    | exact h | assumption | exact MailboxKeeps.same rfl rfl | exact rfl | exact TrustKeeps.refl _ | exact StacksKeep.refl _
    | exact same9 | exact lmap_length .. | exact List.length_map .. | exact List.length_modify ..
    | refine Evolves.update ?_ ?_ ?_ ?_ ?_ ?_ ?_ ?_ ?_ ?_ ?_ ?_)

theorem draw_ev {s0 s : State} {n} (h : Evolves qt bt s0 s) : Evolves qt bt s0 (State.draw n s) := by
  unfold State.draw
  repeat' with_reducible (first
    | exact h | assumption | exact MailboxKeeps.same rfl rfl | exact rfl | exact TrustKeeps.refl _ | exact StacksKeep.refl _
    | exact same9 | exact lmap_length .. | exact List.length_map .. | exact List.length_modify ..
    | refine Evolves.update ?_ ?_ ?_ ?_ ?_ ?_ ?_ ?_ ?_ ?_ ?_ ?_)

theorem bumpBy_ev {s0 s : State} {n number inst} (h : Evolves qt bt s0 s) : Evolves qt bt s0 (State.bumpBy n number inst s) := by
  unfold State.bumpBy
  repeat' with_reducible (first
    | exact h | assumption | exact MailboxKeeps.same rfl rfl | exact rfl | exact TrustKeeps.refl _ | exact StacksKeep.refl _
    | exact same9 | exact lmap_length .. | exact List.length_map .. | exact List.length_modify ..
    | refine Evolves.update ?_ ?_ ?_ ?_ ?_ ?_ ?_ ?_ ?_ ?_ ?_ ?_)

theorem bump_ev {s0 s : State} {number inst} (h : Evolves qt bt s0 s) : Evolves qt bt s0 (State.bump number inst s) := by
  unfold State.bump
  repeat' with_reducible (first | exact h | assumption | apply bumpBy_ev)

theorem bumpSat_ev {s0 s : State} {top number inst} (h : Evolves qt bt s0 s) : Evolves qt bt s0 (State.bumpSat top number inst s) := by
  unfold State.bumpSat
  repeat' with_reducible (first
    | exact h | assumption | exact MailboxKeeps.same rfl rfl | exact rfl | exact TrustKeeps.refl _ | exact StacksKeep.refl _
    | exact same9 | exact lmap_length .. | exact List.length_map .. | exact List.length_modify ..
    | refine Evolves.update ?_ ?_ ?_ ?_ ?_ ?_ ?_ ?_ ?_ ?_ ?_ ?_)

theorem setXbar_ev {s0 s : State} {f} (h : Evolves qt bt s0 s) : Evolves qt bt s0 (State.setXbar f s) := by
  unfold State.setXbar
  repeat' with_reducible (first
    | exact h | assumption | exact MailboxKeeps.same rfl rfl | exact rfl | exact TrustKeeps.refl _ | exact StacksKeep.refl _
    | exact same9 | exact lmap_length .. | exact List.length_map .. | exact List.length_modify ..
    | refine Evolves.update ?_ ?_ ?_ ?_ ?_ ?_ ?_ ?_ ?_ ?_ ?_ ?_)

theorem setRoutes_ev {s0 s : State} {f} (h : Evolves qt bt s0 s) : Evolves qt bt s0 (State.setRoutes f s) := by
  unfold State.setRoutes
  repeat' with_reducible (first
    | exact h | assumption | exact MailboxKeeps.same rfl rfl | exact rfl | exact TrustKeeps.refl _ | exact StacksKeep.refl _
    | exact same9 | exact lmap_length .. | exact List.length_map .. | exact List.length_modify ..
    | refine Evolves.update ?_ ?_ ?_ ?_ ?_ ?_ ?_ ?_ ?_ ?_ ?_ ?_)

theorem setTraverse_ev {s0 s : State} {t f} (h : Evolves qt bt s0 s) : Evolves qt bt s0 (State.setTraverse t f s) := by
  unfold State.setTraverse
  repeat' with_reducible (first
    | exact h | assumption | exact MailboxKeeps.same rfl rfl | exact rfl | exact TrustKeeps.refl _ | exact StacksKeep.refl _
    | exact same9 | exact lmap_length .. | exact List.length_map .. | exact List.length_modify ..
    | refine Evolves.update ?_ ?_ ?_ ?_ ?_ ?_ ?_ ?_ ?_ ?_ ?_ ?_)

theorem setTally_ev {s0 s : State} {t f} (h : Evolves qt bt s0 s) : Evolves qt bt s0 (State.setTally t f s) := by
  unfold State.setTally
  repeat' with_reducible (first
    | exact h | assumption | exact MailboxKeeps.same rfl rfl | exact rfl | exact TrustKeeps.refl _ | exact StacksKeep.refl _
    | exact same9 | exact lmap_length .. | exact List.length_map .. | exact List.length_modify ..
    | refine Evolves.update ?_ ?_ ?_ ?_ ?_ ?_ ?_ ?_ ?_ ?_ ?_ ?_)

theorem setRegion_ev {s0 s : State} {slot f} (h : Evolves qt bt s0 s) : Evolves qt bt s0 (State.setRegion slot f s) := by
  unfold State.setRegion
  repeat' with_reducible (first
    | exact h | assumption | exact MailboxKeeps.same rfl rfl | exact rfl | exact TrustKeeps.refl _ | exact StacksKeep.refl _
    | exact same9 | exact lmap_length .. | exact List.length_map .. | exact List.length_modify ..
    | refine Evolves.update ?_ ?_ ?_ ?_ ?_ ?_ ?_ ?_ ?_ ?_ ?_ ?_)

theorem setParcel_ev {s0 s : State} {p f} (h : Evolves qt bt s0 s) : Evolves qt bt s0 (State.setParcel p f s) := by
  unfold State.setParcel
  repeat' with_reducible (first
    | exact h | assumption | exact MailboxKeeps.same rfl rfl | exact rfl | exact TrustKeeps.refl _ | exact StacksKeep.refl _
    | exact same9 | exact lmap_length .. | exact List.length_map .. | exact List.length_modify ..
    | refine Evolves.update ?_ ?_ ?_ ?_ ?_ ?_ ?_ ?_ ?_ ?_ ?_ ?_)

theorem wakeGroup_ev {s0 s : State} {g} (h : Evolves qt bt s0 s) : Evolves qt bt s0 (wakeGroup g s) := by
  unfold wakeGroup
  repeat' with_reducible (first | exact h | assumption | apply setGroup_ev | apply ite_ev)

theorem onGroup_ev {s0 s : State} {g work} (h : Evolves qt bt s0 s) (hw : ∀ s, Evolves qt bt s0 s → Evolves qt bt s0 (work s)) :
    Evolves qt bt s0 (onGroup g work s) := by
  unfold onGroup
  exact ite_ev (hw _ (setGroup_ev h)) (wakeGroup_ev h)

theorem workGroup_ev {s0 s : State} {g} (h : Evolves qt bt s0 s) : Evolves qt bt s0 (workGroup g s) := by
  unfold workGroup
  repeat' with_reducible (first | exact h | assumption | apply setGroup_ev | apply wakeGroup_ev | apply ite_ev)

theorem workPairs_ev {s0 s : State} {pairs} (h : Evolves qt bt s0 s) : Evolves qt bt s0 (workPairs pairs s) := by
  unfold workPairs
  repeat' with_reducible (first | exact h | assumption | apply forEach_ev | apply workGroup_ev | intro _ _ _)

theorem onDie_ev {s0 s : State} {i work} (h : Evolves qt bt s0 s) (hw : ∀ s, Evolves qt bt s0 s → Evolves qt bt s0 (work s)) :
    Evolves qt bt s0 (onDie i work s) := onGroup_ev h hw

theorem startCinit_ev {s0 s : State} {p} (h : Evolves qt bt s0 s) : Evolves qt bt s0 (startCinit p s) := by
  unfold startCinit
  repeat' with_reducible (first | exact h | assumption | apply setLink_ev)

theorem startData_ev {s0 s : State} {p} (h : Evolves qt bt s0 s) : Evolves qt bt s0 (startData p s) := by
  unfold startData
  repeat' with_reducible (first | exact h | assumption | apply startCinit_ev | apply setLink_ev)

theorem sendOut_ev {s0 s : State} {p f} (h : Evolves qt bt s0 s) : Evolves qt bt s0 (sendOut p f s) := by
  unfold sendOut
  repeat' with_reducible (first
    | exact h | assumption | apply setLink_ev | exact MailboxKeeps.same rfl rfl | exact rfl | exact TrustKeeps.refl _
    | exact StacksKeep.refl _ | exact same9 | exact lmap_length .. | exact List.length_map .. | exact List.length_modify ..
    | intro _ _ _ | intro _ _ | dsimp only | refine Evolves.update ?_ ?_ ?_ ?_ ?_ ?_ ?_ ?_ ?_ ?_ ?_ ?_)

theorem sendDataRow_ev {s0 s : State} {p} (h : Evolves qt bt s0 s) : Evolves qt bt s0 (sendDataRow p s) := by
  unfold sendDataRow
  repeat' with_reducible (first | exact h | assumption | apply setLink_ev)

theorem sendTrainingRow_ev {s0 s : State} {p} (h : Evolves qt bt s0 s) : Evolves qt bt s0 (sendTrainingRow p s) := by
  unfold sendTrainingRow
  repeat' with_reducible (first
    | exact h | assumption | apply setLink_ev | apply setPort_ev | apply startData_ev | apply ite_ev)

theorem sendRow_ev {s0 s : State} {p} (h : Evolves qt bt s0 s) : Evolves qt bt s0 (sendRow p s) := by
  unfold sendRow
  repeat' with_reducible (first
    | exact h | assumption | apply sendDataRow_ev | apply sendTrainingRow_ev | apply setLink_ev | apply ite_ev)

theorem sendRows_ev {s0 s : State} (h : Evolves qt bt s0 s) : Evolves qt bt s0 (sendRows s) := by
  unfold sendRows
  repeat' with_reducible (first | exact h | assumption | apply forEach_ev | apply sendRow_ev | intro _ _ _)

theorem flightUp_ev {s0 s : State} {ordered} (h : Evolves qt bt s0 s) : Evolves qt bt s0 (flightUp ordered s) := by
  unfold flightUp
  repeat' with_reducible (first | exact h | assumption | apply setRoutes_ev)

theorem flightDown_ev {s0 s : State} {epoch ordered} (h : Evolves qt bt s0 s) : Evolves qt bt s0 (flightDown epoch ordered s) := by
  unfold flightDown
  repeat' with_reducible (first | exact h | assumption | apply setRoutes_ev)

theorem returnCredits_ev {s0 s : State} {port vc n} (h : Evolves qt bt s0 s) : Evolves qt bt s0 (returnCredits port vc n s) := by
  unfold returnCredits
  repeat' with_reducible (first | exact h | assumption | apply setLink_ev | apply ite_ev)

theorem returnTurn_ev {s0 s : State} {n p vc} (h : Evolves qt bt s0 s) : Evolves qt bt s0 (returnTurn n p vc s) := by
  unfold returnTurn
  repeat' with_reducible (first | exact h | assumption | apply setLink_ev | apply ite_ev)

theorem returnSlot_ev {s0 s : State} {n} (h : Evolves qt bt s0 s) : Evolves qt bt s0 (returnSlot n s) := by
  unfold returnSlot
  repeat' with_reducible (first
    | exact h | assumption | apply forEach_ev | apply returnTurn_ev | apply ite_ev | exact MailboxKeeps.same rfl rfl | exact rfl
    | exact TrustKeeps.refl _ | exact StacksKeep.refl _ | exact same9 | exact lmap_length .. | exact List.length_map ..
    | exact List.length_modify .. | intro _ _ _ | intro _ _ | split)

theorem dropStaged_ev {s0 s : State} {id} (h : Evolves qt bt s0 s) : Evolves qt bt s0 (dropStaged id s) := by
  unfold dropStaged
  repeat' with_reducible (first
    | exact h | assumption | apply setXbar_ev | apply returnCredits_ev | apply foldl_ev | apply foldl1_ev | apply foldl2_ev
    | apply foldl22_ev | exact MailboxKeeps.same rfl rfl | exact rfl | exact TrustKeeps.refl _ | exact StacksKeep.refl _
    | exact same9 | exact lmap_length .. | exact List.length_map .. | exact List.length_modify .. | intro _ _ _)

theorem freeRecord_ev {s0 s : State} {r} (h : Evolves qt bt s0 s) : Evolves qt bt s0 (freeRecord r s) := by
  unfold freeRecord
  repeat' with_reducible (first | exact h | assumption | apply flightDown_ev | apply dropStaged_ev | apply setXbar_ev)

theorem releaseRef_ev {s0 s : State} {id} (h : Evolves qt bt s0 s) : Evolves qt bt s0 (releaseRef id s) := by
  unfold releaseRef
  repeat' with_reducible (first
    | exact h | assumption | apply freeRecord_ev | apply setXbar_ev | apply ite_ev | exact MailboxKeeps.same rfl rfl | exact rfl
    | exact TrustKeeps.refl _ | exact StacksKeep.refl _ | exact same9 | exact lmap_length .. | exact List.length_map ..
    | exact List.length_modify .. | intro _ _ _ | intro _ _ | split)

theorem countMirror_ev {s0 s : State} {i taken} (h : Evolves qt bt s0 s) : Evolves qt bt s0 (countMirror i taken s) := by
  unfold countMirror
  repeat' with_reducible (first
    | exact h | assumption | apply bump_ev | apply ite_ev | exact MailboxKeeps.same rfl rfl | exact rfl | exact TrustKeeps.refl _
    | exact StacksKeep.refl _ | exact same9 | exact lmap_length .. | exact List.length_map .. | exact List.length_modify ..
    | intro _ _ _ | intro _ _ | split | dsimp only | refine Evolves.update ?_ ?_ ?_ ?_ ?_ ?_ ?_ ?_ ?_ ?_ ?_ ?_)

theorem settleMirror_ev {s0 s : State} {st} (h : Evolves qt bt s0 s) : Evolves qt bt s0 (settleMirror st s).2 := by
  unfold settleMirror
  repeat' with_reducible (first
    | exact h | assumption | apply countMirror_ev | apply ite_ev | exact MailboxKeeps.same rfl rfl | exact rfl
    | exact TrustKeeps.refl _ | exact StacksKeep.refl _ | exact same9 | exact lmap_length .. | exact List.length_map ..
    | exact List.length_modify .. | intro _ _ _ | intro _ _ | split | dsimp only)
theorem settleMirror_ev' {s0 s : State} {st} {o1 o2} (h : Evolves qt bt s0 s) (e : settleMirror st s = (o1, o2)) : Evolves qt bt s0 o2 := by
  have := settleMirror_ev (s0 := s0) (st := st) (s := s) h
  rw [e] at this
  exact this

theorem takeCells_ev {s0 s : State} {input idx st} (h : Evolves qt bt s0 s) : Evolves qt bt s0 (takeCells input idx st s).1 := by
  unfold takeCells
  repeat' with_reducible (first
    | exact h | assumption | (refine settleMirror_ev' ?_ (by assumption)) | apply settleMirror_ev | apply setXbar_ev
    | apply bump_ev | apply ite_ev | apply getD_ev | exact MailboxKeeps.same rfl rfl | exact rfl
    | exact TrustKeeps.refl _ | exact StacksKeep.refl _ | exact same9 | exact lmap_length .. | exact List.length_map ..
    | exact List.length_modify .. | intro _ _ _ | intro _ _ | split | dsimp only
    | refine Evolves.update ?_ ?_ ?_ ?_ ?_ ?_ ?_ ?_ ?_ ?_ ?_ ?_)
theorem takeCells_ev' {s0 s : State} {input idx st} {o1 o2} (h : Evolves qt bt s0 s) (e : takeCells input idx st s = (o1, o2)) : Evolves qt bt s0 o1 := by
  have := takeCells_ev (s0 := s0) (input := input) (idx := idx) (st := st) (s := s) h
  rw [e] at this
  exact this

theorem dropWaiting_ev {s0 s : State} {input idx st} (h : Evolves qt bt s0 s) : Evolves qt bt s0 (dropWaiting input idx st s) := by
  unfold dropWaiting
  repeat' with_reducible (first | exact h | assumption | apply setXbar_ev | apply returnCredits_ev | apply flightDown_ev)

theorem tryAlloc_ev {s0 s : State} {input vc} (h : Evolves qt bt s0 s) : Evolves qt bt s0 (tryAlloc input vc s).1 := by
  unfold tryAlloc
  repeat' with_reducible (first
    | exact h | assumption | apply forEach_ev | apply bump_ev | apply dropWaiting_ev | apply countMirror_ev
    | (refine takeCells_ev' ?_ (by assumption)) | apply takeCells_ev | apply setXbar_ev | apply ite_ev
    | exact MailboxKeeps.same rfl rfl | exact rfl | exact TrustKeeps.refl _ | exact StacksKeep.refl _ | exact same9
    | exact lmap_length .. | exact List.length_map .. | exact List.length_modify .. | intro _ _ _ | intro _ _ | split
    | dsimp only)
theorem tryAlloc_ev' {s0 s : State} {input vc} {o1 o2} (h : Evolves qt bt s0 s) (e : tryAlloc input vc s = (o1, o2)) : Evolves qt bt s0 o1 := by
  have := tryAlloc_ev (s0 := s0) (input := input) (vc := vc) (s := s) h
  rw [e] at this
  exact this

theorem countStall_ev {s0 s : State} {input} (h : Evolves qt bt s0 s) : Evolves qt bt s0 (countStall input s) := by
  unfold countStall
  repeat' with_reducible (first | exact h | assumption | apply setXbar_ev | apply bump_ev | apply ite_ev)

theorem askCells_ev {s0 s : State} {input vc} (h : Evolves qt bt s0 s) : Evolves qt bt s0 (askCells input vc s) := by
  unfold askCells
  repeat' with_reducible (first
    | exact h | assumption | (refine tryAlloc_ev' ?_ (by assumption)) | apply tryAlloc_ev | apply countStall_ev | apply ite_ev)

theorem allocSlot_ev {s0 s : State} (h : Evolves qt bt s0 s) : Evolves qt bt s0 (allocSlot s) := by
  unfold allocSlot
  repeat' with_reducible (first | exact h | assumption | apply forEach_ev | apply askCells_ev | intro _ _ _)

theorem chooseSpray_ev {s0 s : State} {input f set} (h : Evolves qt bt s0 s) : Evolves qt bt s0 (chooseSpray input f set s).2 := by
  unfold chooseSpray
  repeat' with_reducible (first
    | exact h | assumption | apply setXbar_ev | apply ite_ev | apply getD_ev
    | exact MailboxKeeps.same rfl rfl | exact rfl | exact TrustKeeps.refl _ | exact StacksKeep.refl _ | exact same9
    | exact lmap_length .. | exact List.length_map .. | exact List.length_modify .. | intro _ _ _ | intro _ _ | split
    | dsimp only)
theorem chooseSpray_ev' {s0 s : State} {input f set} {o1 o2} (h : Evolves qt bt s0 s) (e : chooseSpray input f set s = (o1, o2)) : Evolves qt bt s0 o2 := by
  have := chooseSpray_ev (s0 := s0) (input := input) (f := f) (set := set) (s := s) h
  rw [e] at this
  exact this

theorem stageFrame_ev {s0 s : State} {input arrival handed f targets} (h : Evolves qt bt s0 s) : Evolves qt bt s0 (stageFrame input arrival handed f targets s) := by
  unfold stageFrame
  repeat' with_reducible (first
    | exact h | assumption | apply forEach_ev | apply bump_ev | apply countMirror_ev | apply flightUp_ev | apply setXbar_ev
    | apply askCells_ev | apply ite_ev | apply getD_ev | (rename_i e; split at e) | exact MailboxKeeps.same rfl rfl | exact rfl
    | exact TrustKeeps.refl _ | exact StacksKeep.refl _ | exact same9 | exact lmap_length .. | exact List.length_map ..
    | exact List.length_modify .. | intro _ _ _ | intro _ _ | split)

theorem ingressCredits_ev {s0 s : State} {port f before} (h : Evolves qt bt s0 s) : Evolves qt bt s0 (ingressCredits port f before s) := by
  unfold ingressCredits
  repeat' with_reducible (first | exact h | assumption | apply returnCredits_ev | apply ite_ev)

theorem sendToward_ev {s0 s : State} {input f port} (h : Evolves qt bt s0 s) : Evolves qt bt s0 (sendToward input f port s) := by
  unfold sendToward
  repeat' with_reducible (first
    | exact h | assumption | (refine chooseSpray_ev' ?_ (by assumption)) | apply chooseSpray_ev | apply stageFrame_ev
    | apply bump_ev | apply getD_ev | exact MailboxKeeps.same rfl rfl | exact rfl
    | exact TrustKeeps.refl _ | exact StacksKeep.refl _ | exact same9 | exact lmap_length .. | exact List.length_map ..
    | exact List.length_modify .. | split)

theorem sendDown_ev {s0 s : State} {input f targets} (h : Evolves qt bt s0 s) : Evolves qt bt s0 (sendDown input f targets s) := by
  unfold sendDown
  repeat' with_reducible (first | exact h | assumption | apply sendToward_ev | apply stageFrame_ev | apply ite_ev | split)

theorem sendUp_ev {s0 s : State} {i f port} (h : Evolves qt bt s0 s) : Evolves qt bt s0 (sendUp i f port s) := by
  unfold sendUp
  repeat' with_reducible (first | exact h | assumption | apply sendToward_ev | apply setDie_ev)

theorem flushQueues_ev {s0 s : State} {counter qs} (h : Evolves qt bt s0 s) : Evolves qt bt s0 (flushQueues counter qs s) := by
  unfold flushQueues
  repeat' with_reducible (first
    | exact h | assumption | apply forEach_ev | apply setXbar_ev | apply releaseRef_ev | apply bump_ev | intro _ _ _)

theorem flushEgress_ev {s0 s : State} {p} (h : Evolves qt bt s0 s) : Evolves qt bt s0 (flushEgress p s) := by
  unfold flushEgress
  repeat' with_reducible (first
    | exact h | assumption | apply forEach_ev | apply releaseRef_ev | apply getD_ev
    | exact MailboxKeeps.same rfl rfl | exact rfl | exact TrustKeeps.refl _ | exact StacksKeep.refl _ | exact same9
    | exact lmap_length .. | exact List.length_map .. | exact List.length_modify .. | intro _ _ _ | intro _ _ | split
    | dsimp only | refine Evolves.update ?_ ?_ ?_ ?_ ?_ ?_ ?_ ?_ ?_ ?_ ?_ ?_)

theorem dropUnbegun_ev {s0 s : State} {id} (h : Evolves qt bt s0 s) : Evolves qt bt s0 (dropUnbegun id s) := by
  unfold dropUnbegun
  repeat' with_reducible (first
    | exact h | assumption | apply setXbar_ev | apply freeRecord_ev | exact MailboxKeeps.same rfl rfl | exact rfl
    | exact TrustKeeps.refl _ | exact StacksKeep.refl _ | exact same9 | exact lmap_length .. | exact List.length_map ..
    | exact List.length_modify .. | intro _ _ _ | intro _ _ | split | dsimp only)

theorem flushStaging_ev {s0 s : State} {p} (h : Evolves qt bt s0 s) : Evolves qt bt s0 (flushStaging p s) := by
  unfold flushStaging
  repeat' with_reducible (first
    | exact h | assumption | apply setXbar_ev | apply forEach_ev | apply flightDown_ev | apply dropUnbegun_ev
    | exact MailboxKeeps.same rfl rfl | exact rfl | exact TrustKeeps.refl _ | exact StacksKeep.refl _ | exact same9
    | exact lmap_length .. | exact List.length_map .. | exact List.length_modify .. | intro _ _ _)

theorem flushPort_ev {s0 s : State} {p} (h : Evolves qt bt s0 s) : Evolves qt bt s0 (flushPort p s) := by
  unfold flushPort
  repeat' with_reducible (first
    | exact h | assumption | apply flushQueues_ev | apply releaseRef_ev | apply setXbar_ev | apply flushStaging_ev
    | apply flushEgress_ev | exact MailboxKeeps.same rfl rfl | exact rfl | exact TrustKeeps.refl _ | exact StacksKeep.refl _
    | exact same9 | exact lmap_length .. | exact List.length_map .. | exact List.length_modify .. | intro _ _ _ | intro _ _
    | split)

theorem oweEcho_ev {s0 s : State} {f port} (h : Evolves qt bt s0 s) : Evolves qt bt s0 (oweEcho f port s) := by
  unfold oweEcho
  repeat' with_reducible (first | exact h | assumption | apply setLink_ev | apply ite_ev)

theorem countCorrected_ev {s0 s : State} {pair pch symbols} (h : Evolves qt bt s0 s) : Evolves qt bt s0 (countCorrected pair pch symbols s) :=
  setStack_ev (bump_ev h) fun x => by
    dsimp only
    split
    · exact findFailing_of ⟨id, fun _ => rfl⟩
    · exact ⟨id, fun _ => rfl⟩

theorem countLost_ev {s0 s : State} {pair pch} (h : Evolves qt bt s0 s) : Evolves qt bt s0 (countLost pair pch s) :=
  setStack_ev (bump_ev h) fun x => by
    dsimp only
    split
    · exact findFailing_of ⟨id, fun _ => rfl⟩
    · exact ⟨id, fun _ => rfl⟩

theorem decodeCount_ev {s0 s : State} {pair a back} (h : Evolves qt bt s0 s) : Evolves qt bt s0 (decodeCount pair a back s) := by
  unfold decodeCount
  repeat' with_reducible (first
    | exact h | assumption | apply setStack_ev | apply countCorrected_ev | apply countLost_ev | apply ite_ev
    | exact fun _ => addErrors_keeps | exact fun _ => ⟨fun h => Memory.wf_write _ _ h, off⟩ | exact fun _ => ⟨id, fun _ => rfl⟩
    | exact fun _ => touchChecks_keeps | exact fun _ => findFailing_keeps | exact fun _ => flushChecks_keeps
    | exact MailboxKeeps.same rfl rfl | exact rfl | exact TrustKeeps.refl _ | exact StacksKeep.refl _ | exact same9
    | exact lmap_length .. | exact List.length_map .. | exact List.length_modify .. | intro _ _ _ | intro _ _ | split
    | dsimp only)

theorem storeBytes_ev {s0 s : State} {pair addr bs} (h : Evolves qt false s0 s) : Evolves qt false s0 (storeBytes pair addr bs s) :=
  setStack_ev h fun x => by
    dsimp only
    split
    · exact .refl x
    · exact ⟨fun hm => Memory.wf_write _ _ hm, off⟩

theorem storeSector_ev {s0 s : State} {pair addr bs} (h : Evolves qt false s0 s) : Evolves qt false s0 (storeSector pair addr bs s) :=
  setStack_ev h fun _ => ⟨fun hm => Memory.wf_write _ _ hm, off⟩

theorem storeZeros_ev {s0 s : State} {pair addr len} (h : Evolves qt false s0 s) : Evolves qt false s0 (storeZeros pair addr len s) :=
  setStack_ev h fun _ => ⟨fun hm => Memory.wf_zero _ _ hm, off⟩

theorem mdSend_ev {s0 s : State} {sub part port pair count offset space payload} (h : Evolves qt bt s0 s) : Evolves qt bt s0 (mdSend sub part port pair count offset space payload s) := by
  unfold mdSend
  repeat' with_reducible (first
    | exact h | assumption | apply setMailbox_ev | apply stageFrame_ev | (refine chooseSpray_ev' ?_ (by assumption))
    | apply chooseSpray_ev | apply bump_ev | apply ite_ev | exact ⟨fun h => Memory.wf_write _ _ h, id⟩
    | exact ⟨fun h => Memory.wf_zero_all _ h, id⟩ | exact MailboxKeeps.same rfl rfl | exact rfl | exact TrustKeeps.refl _
    | exact StacksKeep.refl _ | exact same9 | exact lmap_length .. | exact List.length_map .. | exact List.length_modify ..
    | intro _ _ _ | intro _ _ | split | dsimp only)

theorem putCompletion_ev {s0 s : State} {n c} (h : Evolves qt bt s0 s) : Evolves qt bt s0 (putCompletion n c s) := by
  unfold putCompletion
  repeat' with_reducible (first
    | exact h | assumption | apply setMailbox_ev | apply setPair_ev | apply mdSend_ev | apply ite_ev
    | exact ⟨fun h => Memory.wf_write _ _ h, id⟩ | exact ⟨fun h => Memory.wf_zero_all _ h, id⟩ | exact MailboxKeeps.same rfl rfl
    | exact rfl | exact TrustKeeps.refl _ | exact StacksKeep.refl _ | exact same9 | exact lmap_length ..
    | exact List.length_map .. | exact List.length_modify .. | intro _ _ _ | intro _ _ | split)

theorem eventTo_ev {s0 s : State} {n c} (h : Evolves qt bt s0 s) : Evolves qt bt s0 (eventTo n c s) := by
  unfold eventTo
  repeat' with_reducible (first
    | exact h | assumption | apply setPair_ev | apply bump_ev | apply putCompletion_ev | apply ite_ev)

theorem postEvent_ev {s0 s : State} {parcel kind status result} (h : Evolves qt bt s0 s) : Evolves qt bt s0 (postEvent parcel kind status result s) := by
  unfold postEvent
  repeat' with_reducible (first
    | exact h | assumption | apply bump_ev | apply setPair_ev | apply eventTo_ev | apply ite_ev | exact MailboxKeeps.same rfl rfl
    | exact rfl | exact TrustKeeps.refl _ | exact StacksKeep.refl _ | exact same9 | exact lmap_length ..
    | exact List.length_map .. | exact List.length_modify .. | intro _ _ _ | intro _ _ | split | dsimp only
    | refine Evolves.update ?_ ?_ ?_ ?_ ?_ ?_ ?_ ?_ ?_ ?_ ?_ ?_)

theorem postFirmware_ev {s0 s : State} {code} (h : Evolves qt bt s0 s) : Evolves qt bt s0 (postFirmware code s) := by
  unfold postFirmware
  repeat' with_reducible (first | exact h | assumption | apply forEach_ev | apply eventTo_ev | apply ite_ev | intro _ _ _)

theorem writeBookLine_ev {s0 s : State} {seq} (h : Evolves qt bt s0 s) : Evolves qt bt s0 (writeBookLine seq s) := by
  unfold writeBookLine
  repeat' with_reducible (first
    | exact h | assumption | apply forEach_ev | apply decodeCount_ev | apply setStack_ev | apply ite_ev
    | exact fun _ => addErrors_keeps | exact fun _ => ⟨fun h => Memory.wf_write _ _ h, off⟩ | exact fun _ => ⟨id, fun _ => rfl⟩
    | exact fun _ => touchChecks_keeps | exact fun _ => findFailing_keeps | exact fun _ => flushChecks_keeps
    | exact MailboxKeeps.same rfl rfl | exact rfl | exact TrustKeeps.refl _ | exact StacksKeep.refl _ | exact same9
    | exact lmap_length .. | exact List.length_map .. | exact List.length_modify .. | intro _ _ _ | intro _ _ | split
    | dsimp only | refine Evolves.update ?_ ?_ ?_ ?_ ?_ ?_ ?_ ?_ ?_ ?_ ?_ ?_)

theorem bookWork_ev {s0 s : State} (h : Evolves qt bt s0 s) : Evolves qt bt s0 (bookWork s) := by
  unfold bookWork
  repeat' with_reducible (first | exact h | assumption | apply workPairs_ev)

theorem appendEntry_ev {s0 s : State} {e1} (h : Evolves qt bt s0 s) : Evolves qt bt s0 (appendEntry e1 s) := by
  unfold appendEntry
  repeat' with_reducible (first
    | exact h | assumption | apply writeBookLine_ev | apply bookWork_ev | exact MailboxKeeps.same rfl rfl | exact rfl
    | exact TrustKeeps.refl _ | exact StacksKeep.refl _ | exact same9 | exact lmap_length .. | exact List.length_map ..
    | exact List.length_modify .. | refine Evolves.update ?_ ?_ ?_ ?_ ?_ ?_ ?_ ?_ ?_ ?_ ?_ ?_)

theorem updateEntry_ev {s0 s : State} {seq f} (h : Evolves qt bt s0 s) : Evolves qt bt s0 (updateEntry seq f s) := by
  unfold updateEntry
  repeat' with_reducible (first
    | exact h | assumption | apply writeBookLine_ev | apply bookWork_ev | exact MailboxKeeps.same rfl rfl | exact rfl
    | exact TrustKeeps.refl _ | exact StacksKeep.refl _ | exact same9 | exact lmap_length .. | exact List.length_map ..
    | exact List.length_modify .. | refine Evolves.update ?_ ?_ ?_ ?_ ?_ ?_ ?_ ?_ ?_ ?_ ?_ ?_)

theorem journalEvent_ev {s0 s : State} {code parcel detail} (h : Evolves qt bt s0 s) : Evolves qt bt s0 (journalEvent code parcel detail s) := by
  unfold journalEvent
  repeat' with_reducible (first | exact h | assumption | apply appendEntry_ev | apply ite_ev)

theorem stopPair_ev {s0 s : State} {n} (h : Evolves qt bt s0 s) : Evolves qt bt s0 (stopPair n s) := by
  unfold stopPair
  repeat' with_reducible (first
    | exact h | assumption | apply setPair_ev | apply setMailbox_ev | exact ⟨fun h => Memory.wf_write _ _ h, id⟩
    | exact ⟨fun h => Memory.wf_zero_all _ h, id⟩ | exact MailboxKeeps.same rfl rfl)

theorem ringError_ev {s0 s : State} {n} (h : Evolves qt bt s0 s) : Evolves qt bt s0 (ringError n s) := by
  unfold ringError
  repeat' with_reducible (first | exact h | assumption | apply stopPair_ev | apply setPair_ev)

theorem writeHost_ev {s0 s : State} {n addr ring bs} (h : Evolves qt bt s0 s) : Evolves qt bt s0 (writeHost n addr ring bs s) := by
  unfold writeHost
  repeat' with_reducible (first
    | exact h | assumption | apply setMailbox_ev | apply ite_ev | exact ⟨fun h => Memory.wf_write _ _ h, id⟩
    | exact ⟨fun h => Memory.wf_zero_all _ h, id⟩ | exact MailboxKeeps.same rfl rfl | exact rfl | exact TrustKeeps.refl _
    | exact StacksKeep.refl _ | exact same9 | exact lmap_length .. | exact List.length_map .. | exact List.length_modify ..
    | intro _ _ _ | intro _ _ | split | refine Evolves.update ?_ ?_ ?_ ?_ ?_ ?_ ?_ ?_ ?_ ?_ ?_ ?_)

theorem freeRange_ev {s0 s : State} {pair base len} (h : Evolves qt bt s0 s) : Evolves qt bt s0 (freeRange pair base len s) := by
  unfold freeRange
  repeat' with_reducible (first
    | exact h | assumption | apply setStack_ev | apply ite_ev | exact fun _ => addErrors_keeps
    | exact fun _ => ⟨fun h => Memory.wf_write _ _ h, off⟩ | exact fun _ => ⟨id, fun _ => rfl⟩)

theorem freeExtents_ev {s0 s : State} {xs} (h : Evolves qt bt s0 s) : Evolves qt bt s0 (freeExtents xs s) := by
  unfold freeExtents
  repeat' with_reducible (first | exact h | assumption | apply forEach_ev | apply freeRange_ev | intro _ _ _)

theorem settleLost_ev {s0 s : State} {slot} (h : Evolves qt bt s0 s) : Evolves qt bt s0 (settleLost slot s) := by
  unfold settleLost
  repeat' with_reducible (first
    | exact h | assumption | apply setRegion_ev | apply ite_ev | exact MailboxKeeps.same rfl rfl | exact rfl
    | exact TrustKeeps.refl _ | exact StacksKeep.refl _ | exact same9 | exact lmap_length .. | exact List.length_map ..
    | exact List.length_modify .. | intro _ _ _ | intro _ _ | split)

theorem poisonEvent_ev {s0 s : State} {slot r a stripe unit action} (h : Evolves qt bt s0 s) : Evolves qt bt s0 (poisonEvent slot r a stripe unit action s) := by
  unfold poisonEvent
  repeat' with_reducible (first | exact h | assumption | apply journalEvent_ev)

theorem yieldEvent_ev {s0 s : State} {parcel lower higher case object which other} (h : Evolves qt bt s0 s) : Evolves qt bt s0 (yieldEvent parcel lower higher case object which other s) := by
  unfold yieldEvent
  repeat' with_reducible (first | exact h | assumption | apply journalEvent_ev)

theorem lostEvent_ev {s0 s : State} {slot r stripes cause} (h : Evolves qt bt s0 s) : Evolves qt bt s0 (lostEvent slot r stripes cause s) := by
  unfold lostEvent
  repeat' with_reducible (first | exact h | assumption | apply journalEvent_ev)

theorem markPoison_ev {s0 s : State} {slot a stripe unit copies} (h : Evolves qt bt s0 s) : Evolves qt bt s0 (markPoison slot a stripe unit copies s) := by
  unfold markPoison
  repeat' with_reducible (first
    | exact h | assumption | apply setRegion_ev | apply poisonEvent_ev | apply lostEvent_ev | apply forEach_ev
    | apply yieldEvent_ev | apply ite_ev | exact MailboxKeeps.same rfl rfl | exact rfl | exact TrustKeeps.refl _
    | exact StacksKeep.refl _ | exact same9 | exact lmap_length .. | exact List.length_map .. | exact List.length_modify ..
    | intro _ _ _ | intro _ _ | split)

theorem damagedUnit_ev {s0 s : State} {slot u} (h : Evolves qt false s0 s) : Evolves qt false s0 (damagedUnit slot u s) := by
  unfold damagedUnit
  repeat' with_reducible (first
    | exact h | assumption | apply bind_ev | apply poisonEvent_ev | apply storeBytes_ev | apply markPoison_ev | apply ite_ev
    | apply getD_ev | exact MailboxKeeps.same rfl rfl | exact rfl | exact TrustKeeps.refl _
    | exact StacksKeep.refl _ | exact same9 | exact lmap_length .. | exact List.length_map .. | exact List.length_modify ..
    | intro _ _ _ | intro _ _ | split | dsimp only)

theorem markStripe_ev {s0 s : State} {slot a stripe} (h : Evolves qt bt s0 s) : Evolves qt bt s0 (markStripe slot a stripe s) := by
  unfold markStripe
  repeat' with_reducible (first
    | exact h | assumption | apply forEach_ev | apply markPoison_ev | intro _ _ _ | intro _ _ | split)

theorem decodeCopy_ev {s0 s : State} {slot a stripe copy lo n} (h : Evolves qt false s0 s) : Evolves qt false s0 (decodeCopy slot a stripe copy lo n s) := by
  unfold decodeCopy
  repeat' with_reducible (first
    | exact h | assumption | apply setStack_ev | apply forEach_ev | apply decodeCount_ev | apply damagedUnit_ev | apply ite_ev
    | exact fun _ => addErrors_keeps | exact fun _ => ⟨fun h => Memory.wf_write _ _ h, off⟩ | exact fun _ => ⟨id, fun _ => rfl⟩
    | exact fun _ => touchChecks_keeps | exact fun _ => findFailing_keeps | exact fun _ => flushChecks_keeps
    | exact MailboxKeeps.same rfl rfl | exact rfl | exact TrustKeeps.refl _ | exact StacksKeep.refl _ | exact same9
    | exact lmap_length .. | exact List.length_map .. | exact List.length_modify .. | intro _ _ _ | intro _ _ | split
    | dsimp only)

theorem decodeStripe_ev {s0 s : State} {slot a stripe lo n} (h : Evolves qt false s0 s) : Evolves qt false s0 (decodeStripe slot a stripe lo n s) := by
  unfold decodeStripe
  repeat' with_reducible (first
    | exact h | assumption | apply forEach_ev | apply decodeCopy_ev | apply ite_ev | exact MailboxKeeps.same rfl rfl | exact rfl
    | exact TrustKeeps.refl _ | exact StacksKeep.refl _ | exact same9 | exact lmap_length .. | exact List.length_map ..
    | exact List.length_modify .. | intro _ _ _ | intro _ _ | split)

theorem decodeElems_ev {s0 s : State} {slot a first n} (h : Evolves qt false s0 s) : Evolves qt false s0 (decodeElems slot a first n s) := by
  unfold decodeElems
  repeat' with_reducible (first
    | exact h | assumption | apply forEach_ev | apply decodeStripe_ev | exact MailboxKeeps.same rfl rfl | exact rfl
    | exact TrustKeeps.refl _ | exact StacksKeep.refl _ | exact same9 | exact lmap_length .. | exact List.length_map ..
    | exact List.length_modify .. | intro _ _ _ | intro _ _ | split)

theorem writeStripe_ev {s0 s : State} {slot r a stripe lo bs} (h : Evolves qt false s0 s) : Evolves qt false s0 (writeStripe slot r a stripe lo bs s) := by
  unfold writeStripe
  repeat' with_reducible (first
    | exact h | assumption | apply forEach_ev | apply decodeCopy_ev | apply storeBytes_ev | apply ite_ev
    | exact MailboxKeeps.same rfl rfl | exact rfl | exact TrustKeeps.refl _ | exact StacksKeep.refl _ | exact same9
    | exact lmap_length .. | exact List.length_map .. | exact List.length_modify .. | intro _ _ _ | intro _ _ | split)

theorem writeElems_ev {s0 s : State} {slot r a first codes} (h : Evolves qt false s0 s) : Evolves qt false s0 (writeElems slot r a first codes s) := by
  unfold writeElems
  repeat' with_reducible (first | exact h | assumption | apply forEach_ev | apply writeStripe_ev | intro _ _ _)

theorem zeroArray_ev {s0 s : State} {r a} (h : Evolves qt false s0 s) : Evolves qt false s0 (zeroArray r a s) := by
  unfold zeroArray
  repeat' with_reducible (first | exact h | assumption | apply forEach_ev | apply storeZeros_ev | intro _ _ _)

theorem clearPoison_ev {s0 s : State} {slot a first n} (h : Evolves qt bt s0 s) : Evolves qt bt s0 (clearPoison slot a first n s) := by
  unfold clearPoison
  repeat' with_reducible (first
    | exact h | assumption | apply setRegion_ev | apply forEach_ev | apply poisonEvent_ev | exact MailboxKeeps.same rfl rfl
    | exact rfl | exact TrustKeeps.refl _ | exact StacksKeep.refl _ | exact same9 | exact lmap_length ..
    | exact List.length_map .. | exact List.length_modify .. | intro _ _ _ | intro _ _ | split)

theorem takeSlots_ev {s0 s : State} {t gen seed} (h : Evolves qt false s0 s) : Evolves qt false s0 (takeSlots t gen seed s) := by
  unfold takeSlots
  repeat' with_reducible (first
    | exact h | assumption | apply forEach_ev | apply zeroArray_ev | apply setRegion_ev | exact MailboxKeeps.same rfl rfl
    | exact rfl | exact TrustKeeps.refl _ | exact StacksKeep.refl _ | exact same9 | exact lmap_length ..
    | exact List.length_map .. | exact List.length_modify .. | intro _ _ _)

theorem dropSlots_ev {s0 s : State} {t gen} (h : Evolves qt bt s0 s) : Evolves qt bt s0 (dropSlots t gen s) := by
  unfold dropSlots
  repeat' with_reducible (first
    | exact h | assumption | apply forEach_ev | apply setRegion_ev | intro _ _ _ | intro _ _ | split)

theorem completeSlots_ev {s0 s : State} {t gen} (h : Evolves qt bt s0 s) : Evolves qt bt s0 (completeSlots t gen s) := by
  unfold completeSlots
  repeat' with_reducible (first
    | exact h | assumption | apply forEach_ev | apply setRegion_ev | exact MailboxKeeps.same rfl rfl | exact rfl
    | exact TrustKeeps.refl _ | exact StacksKeep.refl _ | exact same9 | exact lmap_length .. | exact List.length_map ..
    | exact List.length_modify .. | intro _ _ _ | intro _ _ | split)

theorem writePending_ev' {s0 s : State} {t gen pos die codes out} (h : Evolves qt false s0 s)
    (e : writePending t gen pos die codes s = some out) : Evolves qt false s0 out := by
  unfold writePending at e
  obtain ⟨b, _, e⟩ := Option.bind_eq_some_iff.mp e
  obtain ⟨p, _, rfl⟩ := Option.map_eq_some_iff.mp e
  exact setRegion_ev (writeElems_ev h)

theorem sendControl_ev {s0 s : State} {vc sub t gen datum survey payload targets} (h : Evolves qt bt s0 s) : Evolves qt bt s0 (sendControl vc sub t gen datum survey payload targets s) := by
  unfold sendControl
  repeat' with_reducible (first | exact h | assumption | apply sendDown_ev | apply ite_ev)

theorem suspectEvent_ev {s0 s : State} {t y port set} (h : Evolves qt bt s0 s) : Evolves qt bt s0 (suspectEvent t y port set s) := by
  unfold suspectEvent
  repeat' with_reducible (first | exact h | assumption | apply postEvent_ev)

theorem settleSuspects_ev {s0 s : State} {t} (h : Evolves qt bt s0 s) : Evolves qt bt s0 (settleSuspects t s) := by
  unfold settleSuspects
  repeat' with_reducible (first
    | exact h | assumption | apply forEach_ev | apply suspectEvent_ev | apply setTally_ev | apply ite_ev
    | exact MailboxKeeps.same rfl rfl | exact rfl | exact TrustKeeps.refl _ | exact StacksKeep.refl _ | exact same9
    | exact lmap_length .. | exact List.length_map .. | exact List.length_modify .. | intro _ _ _ | intro _ _ | split)

theorem releaseBarrier_ev {s0 s : State} {t status record} (h : Evolves qt bt s0 s) : Evolves qt bt s0 (releaseBarrier t status record s) := by
  unfold releaseBarrier
  repeat' with_reducible (first
    | exact h | assumption | apply sendControl_ev | apply settleSuspects_ev | apply setTally_ev | apply ite_ev
    | exact MailboxKeeps.same rfl rfl | exact rfl | exact TrustKeeps.refl _ | exact StacksKeep.refl _ | exact same9
    | exact lmap_length .. | exact List.length_map .. | exact List.length_modify .. | intro _ _ _ | intro _ _ | split)

theorem releaseGen_ev {s0 s : State} {t status record} (h : Evolves qt bt s0 s) : Evolves qt bt s0 (releaseGen t status record s) := by
  unfold releaseGen
  repeat' with_reducible (first
    | exact h | assumption | apply sendControl_ev | apply setTally_ev | apply ite_ev | exact MailboxKeeps.same rfl rfl
    | exact rfl | exact TrustKeeps.refl _ | exact StacksKeep.refl _ | exact same9 | exact lmap_length ..
    | exact List.length_map .. | exact List.length_modify .. | intro _ _ _ | intro _ _ | split)

theorem discardTally_ev {s0 s : State} {t} (h : Evolves qt bt s0 s) : Evolves qt bt s0 (discardTally t s) := by
  unfold discardTally
  repeat' with_reducible (first | exact h | assumption | apply bump_ev)

theorem setGen_ev {s0 s : State} {t g f} (h : Evolves qt bt s0 s) : Evolves qt bt s0 (State.setGen t g f s) := by
  unfold State.setGen
  repeat' with_reducible (first | exact h | assumption | apply setTraverse_ev)

theorem activate_ev {s0 s : State} {t g die} (h : Evolves qt bt s0 s) : Evolves qt bt s0 (activate t g die s) := by
  unfold activate
  repeat' with_reducible (first
    | exact h | assumption | apply setDie_ev | exact MailboxKeeps.same rfl rfl | exact rfl | exact TrustKeeps.refl _
    | exact StacksKeep.refl _ | exact same9 | exact lmap_length .. | exact List.length_map .. | exact List.length_modify ..
    | intro _ _ _ | intro _ _ | split)

theorem loseStore_ev {s0 s : State} {die slot} (h : Evolves qt bt s0 s) : Evolves qt bt s0 (loseStore die slot s) := by
  unfold loseStore
  repeat' with_reducible (first | exact h | assumption | apply setDie_ev)

theorem freeAcc_ev {s0 s : State} {a} (h : Evolves qt bt s0 s) : Evolves qt bt s0 (freeAcc a s) := by
  unfold freeAcc
  repeat' with_reducible (first
    | exact h | assumption | apply forEach_ev | apply freeRange_ev | apply setStack_ev | exact fun _ => addErrors_keeps
    | exact fun _ => ⟨fun h => Memory.wf_write _ _ h, off⟩ | exact fun _ => ⟨id, fun _ => rfl⟩ | exact fun _ => touchChecks_keeps
    | exact fun _ => findFailing_keeps | exact fun _ => flushChecks_keeps | exact MailboxKeeps.same rfl rfl | exact rfl
    | exact TrustKeeps.refl _ | exact StacksKeep.refl _ | exact same9 | exact lmap_length .. | exact List.length_map ..
    | exact List.length_modify .. | intro _ _ _)

theorem freeAccs_ev {s0 s : State} {t g} (h : Evolves qt bt s0 s) : Evolves qt bt s0 (freeAccs t g s) := by
  unfold freeAccs
  repeat' with_reducible (first
    | exact h | assumption | apply forEach_ev | apply freeAcc_ev | apply setGen_ev | exact MailboxKeeps.same rfl rfl | exact rfl
    | exact TrustKeeps.refl _ | exact StacksKeep.refl _ | exact same9 | exact lmap_length .. | exact List.length_map ..
    | exact List.length_modify .. | intro _ _ _ | intro _ _ | split)

theorem sendGaps_ev {s0 s : State} {t ls} (h : Evolves qt bt s0 s) : Evolves qt bt s0 (sendGaps t ls s) := by
  unfold sendGaps
  repeat' with_reducible (first | exact h | assumption | apply forEach_ev | apply stageFrame_ev | apply bumpBy_ev | intro _ _ _)

theorem bumpNondet_ev {s0 s : State} {parcel} (h : Evolves qt bt s0 s) : Evolves qt bt s0 (bumpNondet parcel s) := by
  unfold bumpNondet
  repeat' with_reducible (first | exact h | assumption | apply setParcel_ev)

theorem permuteUnload_ev {s0 s : State} {c} (h : Evolves qt bt s0 s) : Evolves qt bt s0 (permuteUnload c s) := by
  unfold permuteUnload
  repeat' with_reducible (first
    | exact h | assumption | apply setRegion_ev | exact MailboxKeeps.same rfl rfl | exact rfl | exact TrustKeeps.refl _
    | exact StacksKeep.refl _ | exact same9 | exact lmap_length .. | exact List.length_map .. | exact List.length_modify ..
    | intro _ _ _ | intro _ _ | split)

theorem freeTraverse_ev {s0 s : State} {t} (h : Evolves qt bt s0 s) : Evolves qt bt s0 (freeTraverse t s) := by
  unfold freeTraverse
  repeat' with_reducible (first
    | exact h | assumption | apply forEach_ev | apply setRegion_ev | apply freeAcc_ev | exact MailboxKeeps.same rfl rfl
    | exact rfl | exact TrustKeeps.refl _ | exact StacksKeep.refl _ | exact same9 | exact lmap_length ..
    | exact List.length_map .. | exact List.length_modify .. | intro _ _ _ | intro _ _ | split | dsimp only
    | refine Evolves.update ?_ ?_ ?_ ?_ ?_ ?_ ?_ ?_ ?_ ?_ ?_ ?_)

theorem settleTraverse_ev {s0 s : State} {t} (h : Evolves qt bt s0 s) : Evolves qt bt s0 (settleTraverse t s) := by
  unfold settleTraverse
  repeat' with_reducible (first
    | exact h | assumption | apply setTraverse_ev | apply freeTraverse_ev | apply ite_ev | exact MailboxKeeps.same rfl rfl
    | exact rfl | exact TrustKeeps.refl _ | exact StacksKeep.refl _ | exact same9 | exact lmap_length ..
    | exact List.length_map .. | exact List.length_modify .. | intro _ _ _ | intro _ _ | split | dsimp only)

theorem reportVerdict_ev {s0 s : State} {c status r} (h : Evolves qt bt s0 s) : Evolves qt bt s0 (reportVerdict c status r s) := by
  unfold reportVerdict
  repeat' with_reducible (first | exact h | assumption | apply postEvent_ev | apply ite_ev)

theorem notifyTally_ev {s0 s : State} {t c status r} (h : Evolves qt bt s0 s) : Evolves qt bt s0 (notifyTally t c status r s) := by
  unfold notifyTally
  repeat' with_reducible (first | exact h | assumption | apply releaseGen_ev | apply ite_ev | split)

theorem releaseKept_ev {s0 s : State} {t g} (h : Evolves qt bt s0 s) : Evolves qt bt s0 (releaseKept t g s) := by
  unfold releaseKept
  repeat' with_reducible (first
    | exact h | assumption | apply forEach_ev | apply freeAcc_ev | apply setTraverse_ev | apply ite_ev
    | exact MailboxKeeps.same rfl rfl | exact rfl | exact TrustKeeps.refl _ | exact StacksKeep.refl _ | exact same9
    | exact lmap_length .. | exact List.length_map .. | exact List.length_modify .. | intro _ _ _ | intro _ _ | split)

theorem releaseLink_ev {s0 s : State} {c g} (h : Evolves qt bt s0 s) : Evolves qt bt s0 (releaseLink c g s) := by
  unfold releaseLink
  repeat' with_reducible (first | exact h | assumption | apply releaseKept_ev | apply ite_ev)

theorem sendAbort_ev {s0 s : State} {t g c r} (h : Evolves qt bt s0 s) : Evolves qt bt s0 (sendAbort t g c r s) := by
  unfold sendAbort
  repeat' with_reducible (first
    | exact h | assumption | apply sendControl_ev | apply ite_ev | exact MailboxKeeps.same rfl rfl | exact rfl
    | exact TrustKeeps.refl _ | exact StacksKeep.refl _ | exact same9 | exact lmap_length .. | exact List.length_map ..
    | exact List.length_modify .. | split | refine Evolves.update ?_ ?_ ?_ ?_ ?_ ?_ ?_ ?_ ?_ ?_ ?_ ?_)

theorem sendOwed_ev {s0 s : State} (h : Evolves qt bt s0 s) : Evolves qt bt s0 (sendOwed s) := by
  unfold sendOwed
  repeat' with_reducible (first
    | exact h | assumption | apply forEach_ev | apply sendControl_ev | exact MailboxKeeps.same rfl rfl | exact rfl
    | exact TrustKeeps.refl _ | exact StacksKeep.refl _ | exact same9 | exact lmap_length .. | exact List.length_map ..
    | exact List.length_modify .. | intro _ _ _ | intro _ _ | split | dsimp only
    | refine Evolves.update ?_ ?_ ?_ ?_ ?_ ?_ ?_ ?_ ?_ ?_ ?_ ?_)

theorem abortedHere_ev {s0 s : State} {t g r} (h : Evolves qt bt s0 s) : Evolves qt bt s0 (abortedHere t g r s) := by
  unfold abortedHere
  repeat' with_reducible (first
    | exact h | assumption | apply dropSlots_ev | apply freeAccs_ev | apply permuteUnload_ev | apply setGen_ev
    | apply setTraverse_ev | apply releaseLink_ev | apply sendAbort_ev | apply settleTraverse_ev | apply notifyTally_ev
    | apply reportVerdict_ev | apply ite_ev | exact MailboxKeeps.same rfl rfl | exact rfl | exact TrustKeeps.refl _
    | exact StacksKeep.refl _ | exact same9 | exact lmap_length .. | exact List.length_map .. | exact List.length_modify ..
    | intro _ _ _ | intro _ _ | split)

theorem finishAborted_ev {s0 s : State} {t g port r} (h : Evolves qt bt s0 s) : Evolves qt bt s0 (finishAborted t g port r s) := by
  unfold finishAborted
  repeat' with_reducible (first
    | exact h | assumption | apply forEach_ev | apply abortedHere_ev | apply ite_ev | exact MailboxKeeps.same rfl rfl | exact rfl
    | exact TrustKeeps.refl _ | exact StacksKeep.refl _ | exact same9 | exact lmap_length .. | exact List.length_map ..
    | exact List.length_modify .. | intro _ _ _ | intro _ _ | split)

theorem abortGen_ev {s0 s : State} {t g cause port chain} (h : Evolves qt bt s0 s) : Evolves qt bt s0 (abortGen t g cause port chain s) := by
  unfold abortGen
  repeat' with_reducible (first
    | exact h | assumption | apply finishAborted_ev | apply freeAccs_ev | apply setGen_ev | apply sendControl_ev | apply ite_ev
    | exact MailboxKeeps.same rfl rfl | exact rfl | exact TrustKeeps.refl _ | exact StacksKeep.refl _ | exact same9
    | exact lmap_length .. | exact List.length_map .. | exact List.length_modify .. | intro _ _ _ | intro _ _ | split)

theorem completeHere_ev {s0 s : State} {t g sv} (h : Evolves qt bt s0 s) : Evolves qt bt s0 (completeHere t g sv s) := by
  unfold completeHere
  repeat' with_reducible (first
    | exact h | assumption | apply bumpNondet_ev | apply yieldEvent_ev | apply sendGaps_ev | apply freeAccs_ev
    | apply completeSlots_ev | apply setGen_ev | apply setTraverse_ev | apply releaseLink_ev | apply sendControl_ev
    | apply settleTraverse_ev | apply notifyTally_ev | apply reportVerdict_ev | apply ite_ev | exact MailboxKeeps.same rfl rfl
    | exact rfl | exact TrustKeeps.refl _ | exact StacksKeep.refl _ | exact same9 | exact lmap_length ..
    | exact List.length_map .. | exact List.length_modify .. | intro _ _ _ | intro _ _ | split)

theorem settleBroadcast_ev {s0 s : State} {t} (h : Evolves qt bt s0 s) : Evolves qt bt s0 (settleBroadcast t s) := by
  unfold settleBroadcast
  repeat' with_reducible (first
    | exact h | assumption | apply forEach_ev | apply completeHere_ev | apply setGen_ev | apply ite_ev
    | exact MailboxKeeps.same rfl rfl | exact rfl | exact TrustKeeps.refl _ | exact StacksKeep.refl _ | exact same9
    | exact lmap_length .. | exact List.length_map .. | exact List.length_modify .. | intro _ _ _ | intro _ _ | split)

theorem completeGen_ev {s0 s : State} {t g} (h : Evolves qt bt s0 s) : Evolves qt bt s0 (completeGen t g s) := by
  unfold completeGen
  repeat' with_reducible (first
    | exact h | assumption | apply completeHere_ev | apply forEach_ev | apply freeAcc_ev | apply setTraverse_ev
    | apply settleBroadcast_ev | apply ite_ev | exact MailboxKeeps.same rfl rfl | exact rfl | exact TrustKeeps.refl _
    | exact StacksKeep.refl _ | exact same9 | exact lmap_length .. | exact List.length_map .. | exact List.length_modify ..
    | intro _ _ _ | intro _ _ | split)

theorem settleResults_ev {s0 s : State} {t} (h : Evolves qt bt s0 s) : Evolves qt bt s0 (settleResults t s) := by
  unfold settleResults
  repeat' with_reducible (first
    | exact h | assumption | apply forEach_ev | apply completeGen_ev | apply ite_ev | intro _ _ _ | intro _ _ | split)

theorem settleChains_ev {s0 s : State} (h : Evolves qt bt s0 s) : Evolves qt bt s0 (settleChains s) := by
  unfold settleChains
  repeat' with_reducible (first
    | exact h | assumption | apply forEach_ev | apply settleBroadcast_ev | apply settleResults_ev | apply sendOwed_ev
    | intro _ _ _)

theorem breakTrees_ev {s0 s : State} {port} (h : Evolves qt bt s0 s) : Evolves qt bt s0 (breakTrees port s) := by
  unfold breakTrees
  repeat' with_reducible (first | exact h | assumption | apply forEach_ev | apply abortedHere_ev | apply ite_ev | intro _ _ _)

theorem sendFrames_ev {s0 s : State} {src fs targets} (h : Evolves qt bt s0 s) : Evolves qt bt s0 (sendFrames src fs targets s) := by
  unfold sendFrames
  repeat' with_reducible (first | exact h | assumption | apply forEach_ev | apply sendDown_ev | intro _ _ _)

theorem addInput_ev {s0 s : State} {t g c ch i} (h : Evolves qt bt s0 s) : Evolves qt bt s0 (addInput t g c ch i s) := by
  unfold addInput
  repeat' with_reducible (first
    | exact h | assumption | apply freeAcc_ev | apply bump_ev | apply activate_ev | apply setGen_ev | apply ite_ev
    | apply getD_ev | exact MailboxKeeps.same rfl rfl | exact rfl | exact TrustKeeps.refl _
    | exact StacksKeep.refl _ | exact same9 | exact lmap_length .. | exact List.length_map .. | exact List.length_modify ..
    | split)

theorem dropChain_ev {s0 s : State} {t g a} (h : Evolves qt bt s0 s) : Evolves qt bt s0 (dropChain t g a s) := by
  unfold dropChain
  repeat' with_reducible (first | exact h | assumption | apply freeAcc_ev | apply setGen_ev)

theorem sendChainUp_ev {s0 s : State} {t g c x a lastChain} (h : Evolves qt bt s0 s) : Evolves qt bt s0 (sendChainUp t g c x a lastChain s) := by
  unfold sendChainUp
  repeat' with_reducible (first
    | exact h | assumption | apply arrive_ev | apply dropChain_ev | apply forEach_ev | apply sendUp_ev | apply ite_ev
    | exact MailboxKeeps.same rfl rfl | exact rfl | exact TrustKeeps.refl _ | exact StacksKeep.refl _ | exact same9
    | exact lmap_length .. | exact List.length_map .. | exact List.length_modify .. | intro _ _ _)

theorem reportChain_ev {s0 s : State} {t g c ch} (h : Evolves qt bt s0 s) : Evolves qt bt s0 (reportChain t g c ch s) := by
  unfold reportChain
  repeat' with_reducible (first | exact h | assumption | apply postEvent_ev | apply ite_ev)

theorem permuteWrite_ev {s0 s : State} {t g c ch codes} (h : Evolves qt false s0 s) : Evolves qt false s0 (permuteWrite t g c ch codes s) := by
  unfold permuteWrite
  repeat' with_reducible (first
    | exact h | assumption | apply abortGen_ev | apply writeElems_ev | apply forEach_ev | apply settleLost_ev
    | apply setRegion_ev | apply ite_ev | apply getD_ev | exact MailboxKeeps.same rfl rfl | exact rfl
    | exact TrustKeeps.refl _ | exact StacksKeep.refl _ | exact same9 | exact lmap_length .. | exact List.length_map ..
    | exact List.length_modify .. | intro _ _ _ | intro _ _ | split)

theorem sendLinked_ev {s0 s : State} {t b g c d sv a lastChain} (h : Evolves qt bt s0 s) : Evolves qt bt s0 (sendLinked t b g c d sv a lastChain s) := by
  unfold sendLinked
  repeat' with_reducible (first
    | exact h | assumption | apply reportChain_ev | apply sendFrames_ev | apply getD_ev
    | exact MailboxKeeps.same rfl rfl | exact rfl | exact TrustKeeps.refl _ | exact StacksKeep.refl _ | exact same9
    | exact lmap_length .. | exact List.length_map .. | exact List.length_modify .. | split)

theorem deliverChain_ev {s0 s : State} {t g c x a lastChain} (h : Evolves qt false s0 s) : Evolves qt false s0 (deliverChain t g c x a lastChain s) := by
  unfold deliverChain
  repeat' with_reducible (first
    | exact h | assumption | apply sendFrames_ev | apply reportChain_ev | apply dropChain_ev | apply permuteWrite_ev
    | apply setGen_ev | apply activate_ev | apply abortGen_ev | apply setDie_ev | (refine writePending_ev' ?_ (by assumption))
    | apply bump_ev | apply forEach_ev | apply sendLinked_ev | apply ite_ev | apply getD_ev
    | exact MailboxKeeps.same rfl rfl | exact rfl | exact TrustKeeps.refl _ | exact StacksKeep.refl _ | exact same9
    | exact lmap_length .. | exact List.length_map .. | exact List.length_modify .. | intro _ _ _ | intro _ _ | split)

theorem finishChain_ev {s0 s : State} {t g ch} (h : Evolves qt false s0 s) : Evolves qt false s0 (finishChain t g ch s) := by
  unfold finishChain
  repeat' with_reducible (first
    | exact h | assumption | apply setDie_ev | apply abortGen_ev | apply deliverChain_ev | apply sendChainUp_ev | apply ite_ev
    | exact MailboxKeeps.same rfl rfl | exact rfl | exact TrustKeeps.refl _ | exact StacksKeep.refl _ | exact same9
    | exact lmap_length .. | exact List.length_map .. | exact List.length_modify .. | intro _ _ _ | intro _ _ | split)

theorem permuteZeros_ev {s0 s : State} {t g c} (h : Evolves qt false s0 s) : Evolves qt false s0 (permuteZeros t g c s) := by
  unfold permuteZeros
  repeat' with_reducible (first
    | exact h | assumption | apply forEach_ev | apply permuteWrite_ev | apply setGen_ev | exact MailboxKeeps.same rfl rfl
    | exact rfl | exact TrustKeeps.refl _ | exact StacksKeep.refl _ | exact same9 | exact lmap_length ..
    | exact List.length_map .. | exact List.length_modify .. | intro _ _ _ | intro _ _ | split)

theorem settleGen_ev {s0 s : State} {t g} (h : Evolves qt false s0 s) : Evolves qt false s0 (settleGen t g s) := by
  unfold settleGen
  repeat' with_reducible (first
    | exact h | assumption | apply setGen_ev | apply forEach_ev | apply finishChain_ev | apply settleBroadcast_ev
    | apply settleResults_ev | apply permuteZeros_ev | apply ite_ev | exact MailboxKeeps.same rfl rfl | exact rfl
    | exact TrustKeeps.refl _ | exact StacksKeep.refl _ | exact same9 | exact lmap_length .. | exact List.length_map ..
    | exact List.length_modify .. | intro _ _ _ | intro _ _ | split | dsimp only)

theorem sendServe_ev {s0 s : State} {t g c d chain last targets r mirror k} (h : Evolves qt bt s0 s) : Evolves qt bt s0 (sendServe t g c d chain last targets r mirror k s) := by
  unfold sendServe
  repeat' with_reducible (first | exact h | assumption | apply sendDown_ev)

theorem emitBroadcast_ev {s0 s : State} {t g c x} (h : Evolves qt false s0 s) : Evolves qt false s0 (emitBroadcast t g c x s) := by
  unfold emitBroadcast
  repeat' with_reducible (first
    | exact h | assumption | apply workPairs_ev | apply forEach_ev | apply decodeElems_ev | apply setGen_ev
    | apply reportChain_ev | apply sendServe_ev | apply abortGen_ev | apply sendFrames_ev | apply settleBroadcast_ev
    | apply ite_ev | apply getD_ev | exact MailboxKeeps.same rfl rfl | exact rfl
    | exact TrustKeeps.refl _ | exact StacksKeep.refl _ | exact same9 | exact lmap_length .. | exact List.length_map ..
    | exact List.length_modify .. | intro _ _ _ | intro _ _ | split)

theorem permuteDecode_ev {s0 s : State} {c e1} (h : Evolves qt false s0 s) : Evolves qt false s0 (permuteDecode c e1 s) := by
  unfold permuteDecode
  repeat' with_reducible (first
    | exact h | assumption | apply decodeElems_ev | exact MailboxKeeps.same rfl rfl | exact rfl | exact TrustKeeps.refl _
    | exact StacksKeep.refl _ | exact same9 | exact lmap_length .. | exact List.length_map .. | exact List.length_modify ..
    | split)

theorem permuteSource_ev {s0 s : State} {t g c i e1} (h : Evolves qt false s0 s) : Evolves qt false s0 (permuteSource t g c i e1 s) := by
  unfold permuteSource
  repeat' with_reducible (first
    | exact h | assumption | apply permuteDecode_ev | apply abortGen_ev | apply forEach_ev | apply addInput_ev | apply setGen_ev
    | exact MailboxKeeps.same rfl rfl | exact rfl | exact TrustKeeps.refl _ | exact StacksKeep.refl _ | exact same9
    | exact lmap_length .. | exact List.length_map .. | exact List.length_modify .. | intro _ _ _ | intro _ _ | split
    | dsimp only)

theorem emitPermute_ev {s0 s : State} {t g c} (h : Evolves qt false s0 s) : Evolves qt false s0 (emitPermute t g c s) := by
  unfold emitPermute
  repeat' with_reducible (first
    | exact h | assumption | apply workPairs_ev | apply settleGen_ev | apply forEach_ev | apply permuteSource_ev
    | apply setGen_ev | apply ite_ev | apply getD_ev | exact MailboxKeeps.same rfl rfl | exact rfl
    | exact TrustKeeps.refl _ | exact StacksKeep.refl _ | exact same9 | exact lmap_length .. | exact List.length_map ..
    | exact List.length_modify .. | intro _ _ _)

theorem emitSources_ev {s0 s : State} {t g} (h : Evolves qt false s0 s) : Evolves qt false s0 (emitSources t g s) := by
  unfold emitSources
  repeat' with_reducible (first
    | exact h | assumption | apply emitPermute_ev | apply emitBroadcast_ev | apply ite_ev | exact MailboxKeeps.same rfl rfl
    | exact rfl | exact TrustKeeps.refl _ | exact StacksKeep.refl _ | exact same9 | exact lmap_length ..
    | exact List.length_map .. | exact List.length_modify .. | split)

theorem emitAll_ev {s0 s : State} (h : Evolves qt false s0 s) : Evolves qt false s0 (emitAll s) := by
  unfold emitAll
  repeat' with_reducible (first | exact h | assumption | apply forEach_ev | apply emitSources_ev | intro _ _ _)

theorem sendOpen_ev {s0 s : State} {t how g c datum} (h : Evolves qt bt s0 s) : Evolves qt bt s0 (sendOpen t how g c datum s) := by
  unfold sendOpen
  repeat' with_reducible (first
    | exact h | assumption | apply sendControl_ev | apply ite_ev | exact MailboxKeeps.same rfl rfl | exact rfl
    | exact TrustKeeps.refl _ | exact StacksKeep.refl _ | exact same9 | exact lmap_length .. | exact List.length_map ..
    | exact List.length_modify .. | split)

theorem openBare_ev {s0 s : State} {t how d job} (h : Evolves qt false s0 s) : Evolves qt false s0 (openBare t how d job s) := by
  unfold openBare
  repeat' with_reducible (first
    | exact h | assumption | apply setTraverse_ev | apply arrive_ev | apply bumpNondet_ev | apply sendOpen_ev | apply abortGen_ev
    | apply takeSlots_ev | apply permuteUnload_ev | apply ite_ev | apply getD_ev
    | exact MailboxKeeps.same rfl rfl | exact rfl | exact TrustKeeps.refl _ | exact StacksKeep.refl _ | exact same9
    | exact lmap_length .. | exact List.length_map .. | exact List.length_modify .. | intro _ _ _ | intro _ _ | split)

theorem openBareTo_ev {s0 s : State} {fuel t g how d} (h : Evolves qt false s0 s) : Evolves qt false s0 (openBareTo fuel t g how d s) := by
  induction fuel generalizing s with
  | zero => exact h
  | succ fuel ih =>
    unfold openBareTo
    repeat' with_reducible (first | exact h | apply ite_ev | apply ih | apply openBare_ev | split)

theorem openOne_ev {s0 s : State} {t how d job} (h : Evolves qt false s0 s) : Evolves qt false s0 (openOne t how d job s) := by
  unfold openOne
  repeat' with_reducible (first
    | exact h | assumption | apply forEach_ev | apply openBareTo_ev | apply emitSources_ev | apply openBare_ev | apply ite_ev
    | exact MailboxKeeps.same rfl rfl | exact rfl | exact TrustKeeps.refl _ | exact StacksKeep.refl _ | exact same9
    | exact lmap_length .. | exact List.length_map .. | exact List.length_modify .. | intro _ _ _ | intro _ _ | split)

theorem openTo_ev {s0 s : State} {fuel t g how d} (h : Evolves qt false s0 s) : Evolves qt false s0 (openTo fuel t g how d s) := by
  induction fuel generalizing s with
  | zero => exact h
  | succ fuel ih =>
    unfold openTo
    repeat' with_reducible (first | exact h | apply ite_ev | apply ih | apply openOne_ev | split)

theorem openLate_ev {s0 s : State} {b} (h : Evolves qt false s0 s) : Evolves qt false s0 (openLate b s) := by
  unfold openLate
  repeat' with_reducible (first
    | exact h | assumption | apply openBare_ev | apply forEach_ev | apply sendLinked_ev | apply abortedHere_ev
    | apply settleBroadcast_ev | apply ite_ev | exact MailboxKeeps.same rfl rfl | exact rfl | exact TrustKeeps.refl _
    | exact StacksKeep.refl _ | exact same9 | exact lmap_length .. | exact List.length_map .. | exact List.length_modify ..
    | intro _ _ _ | intro _ _ | split)

theorem settleBroadcasts_ev {s0 s : State} (h : Evolves qt false s0 s) : Evolves qt false s0 (settleBroadcasts s) := by
  unfold settleBroadcasts
  repeat' with_reducible (first
    | exact h | assumption | apply forEach_ev | apply openLate_ev | apply settleChains_ev | intro _ _ _)

theorem admitGen_ev {s0 s : State} {t g parent how d port} (h : Evolves qt false s0 s) : Evolves qt false s0 (admitGen t g parent how d port s).1 := by
  unfold admitGen
  repeat' with_reducible (first
    | exact h | assumption | apply bump_ev | apply openTo_ev | apply abortGen_ev | apply ite_ev | exact MailboxKeeps.same rfl rfl
    | exact rfl | exact TrustKeeps.refl _ | exact StacksKeep.refl _ | exact same9 | exact lmap_length ..
    | exact List.length_map .. | exact List.length_modify .. | intro _ _ _ | intro _ _ | split | dsimp only)
theorem admitGen_ev' {s0 s : State} {t g parent how d port} {o1 o2} (h : Evolves qt false s0 s) (e : admitGen t g parent how d port s = (o1, o2)) : Evolves qt false s0 o1 := by
  have := admitGen_ev (s0 := s0) (t := t) (g := g) (parent := parent) (how := how) (d := d) (port := port) (s := s) h
  rw [e] at this
  exact this

theorem receiveChain_ev {s0 s : State} {rx} (h : Evolves qt false s0 s) : Evolves qt false s0 (receiveChain rx s) := by
  unfold receiveChain
  repeat' with_reducible (first
    | exact h | assumption | apply bump_ev | (refine admitGen_ev' ?_ (by assumption)) | apply admitGen_ev | apply abortGen_ev
    | apply addInput_ev | apply setGen_ev | apply settleGen_ev | apply ite_ev | apply getD_ev
    | exact MailboxKeeps.same rfl rfl | exact rfl | exact TrustKeeps.refl _ | exact StacksKeep.refl _ | exact same9
    | exact lmap_length .. | exact List.length_map .. | exact List.length_modify .. | intro _ _ _ | intro _ _ | split
    | dsimp only)

theorem passHead_ev {s0 s : State} {die} (h : Evolves qt bt s0 s) : Evolves qt bt s0 (passHead die s) := by
  unfold passHead
  repeat' with_reducible (first | exact h | assumption | apply setDie_ev)

theorem takeHead_ev {s0 s : State} {die rx} (h : Evolves qt bt s0 s) : Evolves qt bt s0 (takeHead die rx s) := by
  unfold takeHead
  repeat' with_reducible (first | exact h | assumption | apply oweEcho_ev | apply passHead_ev)

theorem controlRow_ev {s0 s : State} {die sub effect} (h : Evolves qt bt s0 s) (hw : ∀ x s, Evolves qt bt s0 s → Evolves qt bt s0 (effect x s)) : Evolves qt bt s0 (controlRow die sub effect s) := by
  unfold controlRow
  repeat' with_reducible (first
    | exact h | assumption | apply hw | apply onDie_ev | apply takeHead_ev | apply bump_ev | apply ite_ev
    | exact MailboxKeeps.same rfl rfl | exact rfl | exact TrustKeeps.refl _ | exact StacksKeep.refl _ | exact same9
    | exact lmap_length .. | exact List.length_map .. | exact List.length_modify .. | intro _ _ _ | intro _ _ | split)

theorem touchMember_ev {s0 s : State} {t g port} (h : Evolves qt bt s0 s) : Evolves qt bt s0 (touchMember t g port s) := by
  unfold touchMember
  repeat' with_reducible (first
    | exact h | assumption | apply setGen_ev | exact MailboxKeeps.same rfl rfl | exact rfl | exact TrustKeeps.refl _
    | exact StacksKeep.refl _ | exact same9 | exact lmap_length .. | exact List.length_map .. | exact List.length_modify ..
    | intro _ _ _ | intro _ _ | split)

theorem chainRow_ev {s0 s : State} {die rx} (h : Evolves qt false s0 s) : Evolves qt false s0 (chainRow die rx s) := by
  unfold chainRow
  repeat' with_reducible (first
    | exact h | assumption | apply stageFrame_ev | apply passHead_ev | apply setGen_ev | apply receiveChain_ev
    | apply takeHead_ev | apply ite_ev | apply getD_ev | exact MailboxKeeps.same rfl rfl | exact rfl
    | exact TrustKeeps.refl _ | exact StacksKeep.refl _ | exact same9 | exact lmap_length .. | exact List.length_map ..
    | exact List.length_modify .. | intro _ _ _ | intro _ _ | split)

theorem settleSurvey_ev {s0 s : State} {t g} (h : Evolves qt bt s0 s) : Evolves qt bt s0 (settleSurvey t g s) := by
  unfold settleSurvey
  repeat' with_reducible (first
    | exact h | assumption | apply sendControl_ev | apply setGen_ev | apply ite_ev | apply getD_ev
    | exact MailboxKeeps.same rfl rfl | exact rfl | exact TrustKeeps.refl _ | exact StacksKeep.refl _ | exact same9
    | exact lmap_length .. | exact List.length_map .. | exact List.length_modify .. | intro _ _ _ | intro _ _ | split)

theorem surveyEffect_ev {s0 s : State} {rx} (h : Evolves qt false s0 s) : Evolves qt false s0 (surveyEffect rx s) := by
  unfold surveyEffect
  repeat' with_reducible (first
    | exact h | assumption | apply bump_ev | (refine admitGen_ev' ?_ (by assumption)) | apply admitGen_ev | apply abortGen_ev
    | apply settleSurvey_ev | apply setGen_ev | apply ite_ev | apply getD_ev
    | exact MailboxKeeps.same rfl rfl | exact rfl | exact TrustKeeps.refl _ | exact StacksKeep.refl _ | exact same9
    | exact lmap_length .. | exact List.length_map .. | exact List.length_modify .. | intro _ _ _ | intro _ _ | split
    | dsimp only)

theorem openEffect_ev {s0 s : State} {rx} (h : Evolves qt false s0 s) : Evolves qt false s0 (openEffect rx s) := by
  unfold openEffect
  repeat' with_reducible (first
    | exact h | assumption | apply bump_ev | (refine admitGen_ev' ?_ (by assumption)) | apply admitGen_ev | apply abortGen_ev
    | apply sendOpen_ev | apply touchMember_ev | apply ite_ev | exact MailboxKeeps.same rfl rfl | exact rfl
    | exact TrustKeeps.refl _ | exact StacksKeep.refl _ | exact same9 | exact lmap_length .. | exact List.length_map ..
    | exact List.length_modify .. | split | dsimp only)

theorem datumEffect_ev {s0 s : State} {rx} (h : Evolves qt false s0 s) : Evolves qt false s0 (datumEffect rx s) := by
  unfold datumEffect
  repeat' with_reducible (first
    | exact h | assumption | apply bump_ev | (refine admitGen_ev' ?_ (by assumption)) | apply admitGen_ev | apply sendControl_ev
    | apply setGen_ev | apply ite_ev | exact MailboxKeeps.same rfl rfl | exact rfl | exact TrustKeeps.refl _
    | exact StacksKeep.refl _ | exact same9 | exact lmap_length .. | exact List.length_map .. | exact List.length_modify ..
    | intro _ _ _ | intro _ _ | split | dsimp only)

theorem admitVerdict_ev {s0 s : State} {t g port} (h : Evolves qt false s0 s) : Evolves qt false s0 (admitVerdict t g port s).1 := by
  unfold admitVerdict
  repeat' with_reducible (first
    | exact h | assumption | apply bump_ev | apply openBareTo_ev | apply ite_ev | intro _ _ _ | intro _ _ | split)
theorem admitVerdict_ev' {s0 s : State} {t g port} {o1 o2} (h : Evolves qt false s0 s) (e : admitVerdict t g port s = (o1, o2)) : Evolves qt false s0 o1 := by
  have := admitVerdict_ev (s0 := s0) (t := t) (g := g) (port := port) (s := s) h
  rw [e] at this
  exact this

theorem doneEffect_ev {s0 s : State} {rx} (h : Evolves qt false s0 s) : Evolves qt false s0 (doneEffect rx s) := by
  unfold doneEffect
  repeat' with_reducible (first
    | exact h | assumption | (refine admitVerdict_ev' ?_ (by assumption)) | apply admitVerdict_ev | apply completeHere_ev
    | apply ite_ev)

theorem abortCommonEffect_ev {s0 s : State} {rx} (h : Evolves qt false s0 s) : Evolves qt false s0 (abortCommonEffect rx s) := by
  unfold abortCommonEffect
  repeat' with_reducible (first
    | exact h | assumption | (refine admitVerdict_ev' ?_ (by assumption)) | apply admitVerdict_ev | apply abortedHere_ev
    | apply ite_ev)

theorem abortReqEffect_ev {s0 s : State} {rx} (h : Evolves qt false s0 s) : Evolves qt false s0 (abortReqEffect rx s) := by
  unfold abortReqEffect
  repeat' with_reducible (first
    | exact h | assumption | apply bump_ev | (refine admitGen_ev' ?_ (by assumption)) | apply admitGen_ev
    | apply finishAborted_ev | apply sendToward_ev | apply ite_ev | exact MailboxKeeps.same rfl rfl | exact rfl
    | exact TrustKeeps.refl _ | exact StacksKeep.refl _ | exact same9 | exact lmap_length .. | exact List.length_map ..
    | exact List.length_modify .. | split | dsimp only)

theorem verdictQueryEffect_ev {s0 s : State} {rx} (h : Evolves qt bt s0 s) : Evolves qt bt s0 (verdictQueryEffect rx s) := by
  unfold verdictQueryEffect
  repeat' with_reducible (first
    | exact h | assumption | apply bump_ev | apply sendControl_ev | apply ite_ev | exact MailboxKeeps.same rfl rfl | exact rfl
    | exact TrustKeeps.refl _ | exact StacksKeep.refl _ | exact same9 | exact lmap_length .. | exact List.length_map ..
    | exact List.length_modify .. | intro _ _ _ | intro _ _ | split | dsimp only)

theorem releaseQueryEffect_ev {s0 s : State} {rx} (h : Evolves qt bt s0 s) : Evolves qt bt s0 (releaseQueryEffect rx s) := by
  unfold releaseQueryEffect
  repeat' with_reducible (first
    | exact h | assumption | apply discardTally_ev | apply sendControl_ev | apply ite_ev | exact MailboxKeeps.same rfl rfl
    | exact rfl | exact TrustKeeps.refl _ | exact StacksKeep.refl _ | exact same9 | exact lmap_length ..
    | exact List.length_map .. | exact List.length_modify .. | split | dsimp only)

theorem forwardDown_ev {s0 s : State} {port f targets} (h : Evolves qt bt s0 s) : Evolves qt bt s0 (forwardDown port f targets s) := by
  unfold forwardDown
  repeat' with_reducible (first
    | exact h | assumption | (refine chooseSpray_ev' ?_ (by assumption)) | apply chooseSpray_ev | apply stageFrame_ev
    | apply bump_ev | apply getD_ev | exact MailboxKeeps.same rfl rfl | exact rfl
    | exact TrustKeeps.refl _ | exact StacksKeep.refl _ | exact same9 | exact lmap_length .. | exact List.length_map ..
    | exact List.length_modify .. | split)

theorem loseChain_ev {s0 s : State} {f port targets} (h : Evolves qt bt s0 s) : Evolves qt bt s0 (loseChain f port targets s) := by
  unfold loseChain
  repeat' with_reducible (first
    | exact h | assumption | apply yieldEvent_ev | apply sendGaps_ev | apply bumpNondet_ev | apply setTraverse_ev
    | apply abortGen_ev | apply setGen_ev | apply ite_ev | exact MailboxKeeps.same rfl rfl | exact rfl | exact TrustKeeps.refl _
    | exact StacksKeep.refl _ | exact same9 | exact lmap_length .. | exact List.length_map .. | exact List.length_modify ..
    | intro _ _ _ | intro _ _ | split | dsimp only)

theorem resultEffect_ev {s0 s : State} {rx} (h : Evolves qt false s0 s) : Evolves qt false s0 (resultEffect rx s) := by
  unfold resultEffect
  repeat' with_reducible (first
    | exact h | assumption | apply bump_ev | (refine admitGen_ev' ?_ (by assumption)) | apply admitGen_ev | apply forwardDown_ev
    | apply setGen_ev | apply loseChain_ev | apply settleBroadcast_ev | apply ite_ev | exact MailboxKeeps.same rfl rfl
    | exact rfl | exact TrustKeeps.refl _ | exact StacksKeep.refl _ | exact same9 | exact lmap_length ..
    | exact List.length_map .. | exact List.length_modify .. | intro _ _ _ | intro _ _ | split | dsimp only)

theorem requestLayer_ev {s0 s : State} {t l only} (h : Evolves qt false s0 s) : Evolves qt false s0 (requestLayer t l only s) := by
  unfold requestLayer
  repeat' with_reducible (first
    | exact h | assumption | apply openOne_ev | apply setTraverse_ev | apply bump_ev | apply ite_ev
    | exact MailboxKeeps.same rfl rfl | exact rfl | exact TrustKeeps.refl _ | exact StacksKeep.refl _ | exact same9
    | exact lmap_length .. | exact List.length_map .. | exact List.length_modify .. | intro _ _ _ | intro _ _ | split)

theorem layerRequest_ev {s0 s : State} {t l only} (h : Evolves qt false s0 s) : Evolves qt false s0 (layerRequest t l only s) := by
  unfold layerRequest
  repeat' with_reducible (first
    | exact h | assumption | apply bump_ev | apply requestLayer_ev | apply ite_ev | exact MailboxKeeps.same rfl rfl | exact rfl
    | exact TrustKeeps.refl _ | exact StacksKeep.refl _ | exact same9 | exact lmap_length .. | exact List.length_map ..
    | exact List.length_modify .. | intro _ _ _ | intro _ _ | split)

theorem serveEffect_ev {s0 s : State} {die rx} (h : Evolves qt false s0 s) : Evolves qt false s0 (serveEffect die rx s) := by
  unfold serveEffect
  repeat' with_reducible (first
    | exact h | assumption | apply bump_ev | apply sendToward_ev | apply layerRequest_ev | apply ite_ev
    | exact MailboxKeeps.same rfl rfl | exact rfl | exact TrustKeeps.refl _ | exact StacksKeep.refl _ | exact same9
    | exact lmap_length .. | exact List.length_map .. | exact List.length_modify .. | intro _ _ _ | intro _ _ | split)

theorem arrivalEffect_ev {s0 s : State} {rx} (h : Evolves qt bt s0 s) : Evolves qt bt s0 (arrivalEffect rx s) := by
  unfold arrivalEffect
  repeat' with_reducible (first
    | exact h | assumption | apply discardTally_ev | apply setTally_ev | apply releaseBarrier_ev | apply sendControl_ev
    | apply ite_ev | exact MailboxKeeps.same rfl rfl | exact rfl | exact TrustKeeps.refl _ | exact StacksKeep.refl _
    | exact same9 | exact lmap_length .. | exact List.length_map .. | exact List.length_modify .. | intro _ _ _ | intro _ _
    | split | dsimp only)

theorem releaseEffect_ev {s0 s : State} {rx} (h : Evolves qt bt s0 s) : Evolves qt bt s0 (releaseEffect rx s) := by
  unfold releaseEffect
  repeat' with_reducible (first
    | exact h | assumption | apply discardTally_ev | apply releaseBarrier_ev | apply ite_ev | exact MailboxKeeps.same rfl rfl
    | exact rfl | exact TrustKeeps.refl _ | exact StacksKeep.refl _ | exact same9 | exact lmap_length ..
    | exact List.length_map .. | exact List.length_modify .. | split | dsimp only)

theorem timeoutReqEffect_ev {s0 s : State} {rx} (h : Evolves qt bt s0 s) : Evolves qt bt s0 (timeoutReqEffect rx s) := by
  unfold timeoutReqEffect
  repeat' with_reducible (first
    | exact h | assumption | apply discardTally_ev | apply sendToward_ev | apply releaseBarrier_ev | apply ite_ev
    | exact MailboxKeeps.same rfl rfl | exact rfl | exact TrustKeeps.refl _ | exact StacksKeep.refl _ | exact same9
    | exact lmap_length .. | exact List.length_map .. | exact List.length_modify .. | split | dsimp only)

theorem setReseq_ev {s0 s : State} {place f} (h : Evolves qt bt s0 s) : Evolves qt bt s0 (State.setReseq place f s) := by
  unfold State.setReseq
  repeat' with_reducible (first
    | exact h | assumption | apply setDie_ev | apply ite_ev | exact MailboxKeeps.same rfl rfl | exact rfl
    | exact TrustKeeps.refl _ | exact StacksKeep.refl _ | exact same9 | exact lmap_length .. | exact List.length_map ..
    | exact List.length_modify .. | intro _ _ _ | intro _ _ | split | refine Evolves.update ?_ ?_ ?_ ?_ ?_ ?_ ?_ ?_ ?_ ?_ ?_ ?_)

theorem countSeq_ev {s0 s : State} {place event} (h : Evolves qt bt s0 s) : Evolves qt bt s0 (countSeq place event s) := by
  unfold countSeq
  repeat' with_reducible (first | exact h | assumption | apply bump_ev | apply ite_ev)

theorem dropRx_ev {s0 s : State} {rx} (h : Evolves qt bt s0 s) : Evolves qt bt s0 (dropRx rx s) := by
  unfold dropRx
  repeat' with_reducible (first | exact h | assumption | apply releaseRef_ev | split)

theorem deliverRx_ev {s0 s : State} {place rx} (h : Evolves qt bt s0 s) : Evolves qt bt s0 (deliverRx place rx s) := by
  unfold deliverRx
  repeat' with_reducible (first | exact h | assumption | apply setReseq_ev | apply sendOut_ev | apply dropRx_ev | apply ite_ev)

theorem settleFlow_ev {s0 s : State} {place g out} (h : Evolves qt bt s0 s) : Evolves qt bt s0 (settleFlow place g out s) := by
  unfold settleFlow
  repeat' with_reducible (first
    | exact h | assumption | apply forEach_ev | apply deliverRx_ev | apply setReseq_ev | apply ite_ev
    | exact MailboxKeeps.same rfl rfl | exact rfl | exact TrustKeeps.refl _ | exact StacksKeep.refl _ | exact same9
    | exact lmap_length .. | exact List.length_map .. | exact List.length_modify .. | intro _ _ _)

theorem makeHeldRoom_ev {s0 s : State} {place} (h : Evolves qt bt s0 s) : Evolves qt bt s0 (makeHeldRoom place s) := by
  unfold makeHeldRoom
  repeat' with_reducible (first
    | exact h | assumption | apply settleFlow_ev | apply countSeq_ev | apply ite_ev | apply foldl_ev | apply foldl1_ev
    | apply foldl2_ev | apply foldl22_ev | apply getD_ev | exact MailboxKeeps.same rfl rfl | exact rfl
    | exact TrustKeeps.refl _ | exact StacksKeep.refl _ | exact same9 | exact lmap_length .. | exact List.length_map ..
    | exact List.length_modify .. | intro _ _ _ | intro _ _ | split | dsimp only)

theorem makeFlowRoom_ev {s0 s : State} {place} (h : Evolves qt bt s0 s) : Evolves qt bt s0 (makeFlowRoom place s) := by
  unfold makeFlowRoom
  repeat' with_reducible (first
    | exact h | assumption | apply countSeq_ev | apply setReseq_ev | apply forEach_ev | apply deliverRx_ev | apply ite_ev
    | apply getD_ev | exact MailboxKeeps.same rfl rfl | exact rfl | exact TrustKeeps.refl _
    | exact StacksKeep.refl _ | exact same9 | exact lmap_length .. | exact List.length_map .. | exact List.length_modify ..
    | intro _ _ _ | intro _ _ | split | dsimp only)

theorem arrive_ev {s0 s : State} {place} (h : Evolves qt bt s0 s) : Evolves qt bt s0 (arrive place s) := by
  unfold arrive
  repeat' with_reducible (first
    | exact h | assumption | apply setReseq_ev | apply deliverRx_ev | apply makeFlowRoom_ev | apply makeHeldRoom_ev
    | apply settleFlow_ev | apply forEach_ev | apply countSeq_ev | apply dropRx_ev | apply ite_ev | apply getD_ev
    | exact MailboxKeeps.same rfl rfl | exact rfl | exact TrustKeeps.refl _ | exact StacksKeep.refl _
    | exact same9 | exact lmap_length .. | exact List.length_map .. | exact List.length_modify .. | intro _ _ _ | intro _ _
    | split)

theorem skipHole_ev {s0 s : State} {place key} (h : Evolves qt bt s0 s) : Evolves qt bt s0 (skipHole place key s) := by
  unfold skipHole
  repeat' with_reducible (first
    | exact h | assumption | apply reach_ev | apply settleFlow_ev | apply countSeq_ev | apply ite_ev
    | exact MailboxKeeps.same rfl rfl | exact rfl | exact TrustKeeps.refl _ | exact StacksKeep.refl _ | exact same9
    | exact lmap_length .. | exact List.length_map .. | exact List.length_modify .. | split)

theorem onPlace_ev {s0 s : State} {place work} (h : Evolves qt bt s0 s) (hw : ∀ s, Evolves qt bt s0 s → Evolves qt bt s0 (work s)) : Evolves qt bt s0 (onPlace place work s) := by
  unfold onPlace
  repeat' with_reducible (first | exact h | assumption | apply hw | apply onDie_ev | apply onGroup_ev | apply ite_ev)

theorem copyMark_ev {s0 s : State} {port f} (h : Evolves false bt s0 s) : Evolves false bt s0 (copyMark port f s) := by
  unfold copyMark
  repeat' with_reducible (first
    | exact h | assumption | apply ite_ev | exact MailboxKeeps.same rfl rfl | exact rfl | exact TrustKeeps.refl _
    | exact StacksKeep.refl _ | exact off | exact TrustKeeps.same rfl rfl rfl rfl rfl rfl rfl rfl rfl id
    | exact TrustKeeps.wiped rfl rfl rfl rfl rfl rfl rfl rfl rfl id | exact commitImage_keeps _ _ | exact returned_keeps _
    | exact wdogMgmt_keeps _ | exact wdogSeq_keeps _ | exact wdogLane_keeps _ | exact wdogTb_keeps _ | exact lcErr_keeps _
    | exact lmap_length .. | exact List.length_map .. | exact List.length_modify .. | intro _ _ _ | intro _ _ | split
    | refine Evolves.update ?_ ?_ ?_ ?_ ?_ ?_ ?_ ?_ ?_ ?_ ?_ ?_)

theorem routeTargets_ev {s0 s : State} {port f} (h : Evolves qt bt s0 s) : Evolves qt bt s0 (routeTargets port f s).2 := by
  unfold routeTargets
  repeat' with_reducible (first
    | exact h | assumption | apply bump_ev | (refine chooseSpray_ev' ?_ (by assumption)) | apply chooseSpray_ev | apply ite_ev
    | exact MailboxKeeps.same rfl rfl | exact rfl | exact TrustKeeps.refl _ | exact StacksKeep.refl _ | exact same9
    | exact lmap_length .. | exact List.length_map .. | exact List.length_modify .. | split)
theorem routeTargets_ev' {s0 s : State} {port f} {o1 o2} (h : Evolves qt bt s0 s) (e : routeTargets port f s = (o1, o2)) : Evolves qt bt s0 o2 := by
  have := routeTargets_ev (s0 := s0) (port := port) (f := f) (s := s) h
  rw [e] at this
  exact this

theorem routeFrame_ev {s0 s : State} {port f} (h : Evolves qt bt s0 s) : Evolves qt bt s0 (routeFrame port f s) := by
  unfold routeFrame
  repeat' with_reducible (first
    | exact h | assumption | (refine routeTargets_ev' ?_ (by assumption)) | apply routeTargets_ev | apply stageFrame_ev)

theorem lookupFrame_ev {s0 s : State} {port bad f} (h : Evolves false false s0 s) : Evolves false false s0 (lookupFrame port bad f s) := by
  unfold lookupFrame
  repeat' with_reducible (first
    | exact h | assumption | apply stageFrame_ev | apply setXbar_ev | apply resultEffect_ev | apply copyMark_ev
    | apply routeFrame_ev | apply ite_ev)

theorem admitFrame_ev {s0 s : State} {port bad f} (h : Evolves false false s0 s) : Evolves false false s0 (admitFrame port bad f s) := by
  unfold admitFrame
  repeat' with_reducible (first
    | exact h | assumption | apply ingressCredits_ev | apply bump_ev | apply stageFrame_ev | apply lookupFrame_ev | apply ite_ev)

theorem takeCe_ev {s0 s : State} {port f} (h : Evolves qt bt s0 s) : Evolves qt bt s0 (takeCe port f s).2 := by
  unfold takeCe
  repeat' with_reducible (first
    | exact h | assumption | apply setLink_ev | apply ite_ev | exact MailboxKeeps.same rfl rfl | exact rfl
    | exact TrustKeeps.refl _ | exact StacksKeep.refl _ | exact same9 | exact lmap_length .. | exact List.length_map ..
    | exact List.length_modify .. | split)
theorem takeCe_ev' {s0 s : State} {port f} {o1 o2} (h : Evolves qt bt s0 s) (e : takeCe port f s = (o1, o2)) : Evolves qt bt s0 o2 := by
  have := takeCe_ev (s0 := s0) (port := port) (f := f) (s := s) h
  rw [e] at this
  exact this

theorem ingressFrame_ev {s0 s : State} {port g} (h : Evolves false false s0 s) : Evolves false false s0 (ingressFrame port g s) := by
  unfold ingressFrame
  repeat' with_reducible (first
    | exact h | assumption | (refine takeCe_ev' ?_ (by assumption)) | apply takeCe_ev | apply returnCredits_ev | apply bump_ev
    | apply admitFrame_ev | apply ite_ev)

theorem takeFrames_ev {s0 s : State} {fuel p} (h : Evolves false false s0 s) : Evolves false false s0 (takeFrames fuel p s) := by
  induction fuel generalizing s with
  | zero => exact h
  | succ fuel ih =>
    unfold takeFrames
    repeat' with_reducible (first
      | exact h | apply ite_ev | apply ih | apply ingressFrame_ev | apply bump_ev | apply setLink_ev | split | dsimp only)

theorem takeRow_ev {s0 s : State} {p row} (h : Evolves false false s0 s) : Evolves false false s0 (takeRow p row s) := by
  unfold takeRow
  repeat' with_reducible (first | exact h | assumption | apply setLink_ev | apply takeFrames_ev)

theorem moveCell_ev {s0 s : State} {i vc} (h : Evolves qt bt s0 s) : Evolves qt bt s0 (moveCell i vc s) := by
  unfold moveCell
  repeat' with_reducible (first
    | exact h | assumption | apply setXbar_ev | apply returnCredits_ev | apply ite_ev | exact MailboxKeeps.same rfl rfl
    | exact rfl | exact TrustKeeps.refl _ | exact StacksKeep.refl _ | exact same9 | exact lmap_length ..
    | exact List.length_map .. | exact List.length_modify .. | intro _ _ _ | intro _ _ | split)

theorem standing_ev {s0 s : State} {three n u} (h : Evolves qt bt s0 s) : Evolves qt bt s0 (standing three n u s).2 := by
  unfold standing
  repeat' with_reducible (first
    | exact h | assumption | apply moveCell_ev | apply ite_ev | apply foldl_ev | apply foldl1_ev | apply foldl2_ev
    | apply foldl22_ev | apply getD_ev | exact MailboxKeeps.same rfl rfl | exact rfl
    | exact TrustKeeps.refl _ | exact StacksKeep.refl _ | exact same9 | exact lmap_length .. | exact List.length_map ..
    | exact List.length_modify .. | intro _ _ _ | intro _ _ | split | dsimp only)
theorem standing_ev' {s0 s : State} {three n u} {o1 o2} (h : Evolves qt bt s0 s) (e : standing three n u s = (o1, o2)) : Evolves qt bt s0 o2 := by
  have := standing_ev (s0 := s0) (three := three) (n := n) (u := u) (s := s) h
  rw [e] at this
  exact this

theorem acceptOne_ev {s0 : State} {first i o} {m : Matching} (h : Evolves qt bt s0 m.2.2) : Evolves qt bt s0 (acceptOne first i o m).2.2 :=
  moveCell_ev (setXbar_ev h)

theorem acceptInput_ev {s0 : State} {three n first granted i} {m : Matching} (h : Evolves qt bt s0 m.2.2) :
    Evolves qt bt s0 (acceptInput three n first granted i m).2.2 :=
  foldl22_ev (fun _ m hm => by dsimp only; split <;> first | exact acceptOne_ev hm | exact hm) _ h

theorem matchOnce_ev {s0 : State} {three n first} {m : Matching} (h : Evolves qt bt s0 m.2.2) : Evolves qt bt s0 (matchOnce three n first m).2.2 :=
  foldl22_ev (fun _ _ hm => acceptInput_ev hm) _ h

theorem crossbarSlot_ev {s0 s : State} (h : Evolves qt bt s0 s) : Evolves qt bt s0 (crossbarSlot s) := by
  have hs := standing_ev (three := s.xbar.threeSlice) (n := s.xbar.slots) (u := {})
    (forEach_ev (f := wakeGroup) (xs := (s.busyInputs.map groupOfXport).eraseDups) h fun _ _ h => wakeGroup_ev h)
  unfold crossbarSlot
  exact setXbar_ev (returnSlot_ev (allocSlot_ev (matchOnce_ev (matchOnce_ev (m := (State.requests _, _, _)) hs))))

theorem takeEcho_ev {s0 s : State} {o} (h : Evolves qt bt s0 s) : Evolves qt bt s0 (takeEcho o s).2 := by
  unfold takeEcho
  repeat' with_reducible (first
    | exact h | assumption | apply setLink_ev | apply ite_ev | exact MailboxKeeps.same rfl rfl | exact rfl
    | exact TrustKeeps.refl _ | exact StacksKeep.refl _ | exact same9 | exact lmap_length .. | exact List.length_map ..
    | exact List.length_modify .. | intro _ _ _ | intro _ _ | split)
theorem takeEcho_ev' {s0 s : State} {o} {o1 o2} (h : Evolves qt bt s0 s) (e : takeEcho o s = (o1, o2)) : Evolves qt bt s0 o2 := by
  have := takeEcho_ev (s0 := s0) (o := o) (s := s) h
  rw [e] at this
  exact this

theorem beginCopy_ev {s0 s : State} {o q d r} (h : Evolves qt bt s0 s) : Evolves qt bt s0 (beginCopy o q d r s) := by
  unfold beginCopy
  repeat' with_reducible (first
    | exact h | assumption | (refine takeEcho_ev' ?_ (by assumption)) | apply takeEcho_ev | apply setXbar_ev | apply bump_ev
    | apply setLink_ev | apply ite_ev | exact MailboxKeeps.same rfl rfl | exact rfl | exact TrustKeeps.refl _
    | exact StacksKeep.refl _ | exact same9 | exact lmap_length .. | exact List.length_map .. | exact List.length_modify ..
    | intro _ _ _ | intro _ _ | split)

theorem cellError_ev {s0 s : State} {o k sd} (h : Evolves qt bt s0 s) : Evolves qt bt s0 (cellError o k sd s) := by
  unfold cellError
  repeat' with_reducible (first
    | exact h | assumption | apply bump_ev | apply setXbar_ev | apply loseChain_ev | apply ite_ev
    | exact MailboxKeeps.same rfl rfl | exact rfl | exact TrustKeeps.refl _ | exact StacksKeep.refl _ | exact same9
    | exact lmap_length .. | exact List.length_map .. | exact List.length_modify .. | intro _ _ _ | intro _ _ | split)

theorem finishCopy_ev {s0 s : State} {o sd r} (h : Evolves qt bt s0 s) : Evolves qt bt s0 (finishCopy o sd r s) := by
  unfold finishCopy
  repeat' with_reducible (first
    | exact h | assumption | apply setXbar_ev | apply oweEcho_ev | apply setReseq_ev | apply releaseRef_ev | apply sendOut_ev
    | apply deliverRx_ev | apply ite_ev)

theorem startJoin_ev {s0 s : State} {p} (h : Evolves qt bt s0 s) : Evolves qt bt s0 (startJoin p s) := by
  unfold startJoin
  repeat' with_reducible (first | exact h | assumption | apply setXbar_ev)

theorem joinNew_ev {s0 s : State} {old} (h : Evolves qt bt s0 s) : Evolves qt bt s0 (joinNew old s) := by
  unfold joinNew
  repeat' with_reducible (first | exact h | assumption | apply forEach_ev | apply startJoin_ev | apply ite_ev | intro _ _ _)

theorem sendTelemetry_ev {s0 s : State} {sub records} (h : Evolves qt bt s0 s) : Evolves qt bt s0 (sendTelemetry sub records s) := by
  unfold sendTelemetry
  repeat' with_reducible (first
    | exact h | assumption | (refine routeTargets_ev' ?_ (by assumption)) | apply routeTargets_ev | apply stageFrame_ev
    | apply bump_ev | apply ite_ev)

theorem bumpPort_ev {s0 s : State} {number inst} (h : Evolves qt bt s0 s) : Evolves qt bt s0 (bumpPort number inst s) := by
  unfold bumpPort
  repeat' with_reducible (first | exact h | assumption | apply bumpSat_ev)

theorem enterIdleAt_ev {s0 s : State} {at_ p} (h : Evolves qt bt s0 s) : Evolves qt bt s0 (enterIdleAt at_ p s) := by
  unfold enterIdleAt
  repeat' with_reducible (first | exact h | assumption | apply draw_ev | apply setPort_ev | apply setLink_ev)

theorem enterIdle_ev {s0 s : State} {p} (h : Evolves qt bt s0 s) : Evolves qt bt s0 (enterIdle p s) := by
  unfold enterIdle
  repeat' with_reducible (first | exact h | assumption | apply enterIdleAt_ev)

theorem enterOff_ev {s0 s : State} {p} (h : Evolves qt bt s0 s) : Evolves qt bt s0 (enterOff p s) := by
  unfold enterOff
  repeat' with_reducible (first | exact h | assumption | apply setPort_ev)

theorem leaveUp_ev {s0 s : State} {p off announce} (h : Evolves false false s0 s) : Evolves false false s0 (leaveUp p off announce s) := by
  unfold leaveUp
  repeat' with_reducible (first
    | exact h | assumption | apply bumpPort_ev | apply enterOff_ev | apply setLink_ev | apply enterIdleAt_ev | apply flushPort_ev
    | apply admitFrame_ev | apply setXbar_ev | apply settleBroadcasts_ev | apply breakTrees_ev | apply ite_ev
    | exact MailboxKeeps.same rfl rfl | exact rfl | exact TrustKeeps.refl _ | exact StacksKeep.refl _ | exact off
    | exact TrustKeeps.same rfl rfl rfl rfl rfl rfl rfl rfl rfl id
    | exact TrustKeeps.wiped rfl rfl rfl rfl rfl rfl rfl rfl rfl id | exact commitImage_keeps _ _ | exact returned_keeps _
    | exact wdogMgmt_keeps _ | exact wdogSeq_keeps _ | exact wdogLane_keeps _ | exact wdogTb_keeps _ | exact lcErr_keeps _
    | exact lmap_length .. | exact List.length_map .. | exact List.length_modify .. | intro _ _ _ | intro _ _ | split)

theorem portDown_ev {s0 s : State} {p off} (h : Evolves false false s0 s) : Evolves false false s0 (portDown p off s) := by
  unfold portDown
  repeat' with_reducible (first | exact h | assumption | apply leaveUp_ev)

theorem failBringup_ev {s0 s : State} {p reason} (h : Evolves qt bt s0 s) : Evolves qt bt s0 (failBringup p reason s) := by
  unfold failBringup
  repeat' with_reducible (first | exact h | assumption | apply bumpPort_ev | apply enterIdle_ev | apply setPort_ev)

theorem checkPeers_ev {s0 s : State} {p} (h : Evolves qt bt s0 s) : Evolves qt bt s0 (checkPeers p s) := by
  unfold checkPeers
  repeat' with_reducible (first
    | exact h | assumption | apply bump_ev | apply ite_ev | exact MailboxKeeps.same rfl rfl | exact rfl | exact TrustKeeps.refl _
    | exact StacksKeep.refl _ | exact same9 | exact lmap_length .. | exact List.length_map .. | exact List.length_modify ..
    | intro _ _ _ | intro _ _ | split | dsimp only | refine Evolves.update ?_ ?_ ?_ ?_ ?_ ?_ ?_ ?_ ?_ ?_ ?_ ?_)

theorem enterUp_ev {s0 s : State} {p} (h : Evolves qt bt s0 s) : Evolves qt bt s0 (enterUp p s) := by
  unfold enterUp
  repeat' with_reducible (first
    | exact h | assumption | apply setPort_ev | apply setLink_ev | apply startJoin_ev | apply checkPeers_ev)

theorem adoptIdent_ev {s0 s : State} {p r} (h : Evolves false false s0 s) : Evolves false false s0 (adoptIdent p r s) := by
  unfold adoptIdent
  repeat' with_reducible (first
    | exact h | assumption | apply leaveUp_ev | apply setPort_ev | apply checkPeers_ev | apply bumpPort_ev | apply ite_ev)

theorem badWord_ev {s0 s : State} {p} (h : Evolves false false s0 s) : Evolves false false s0 (badWord p s) := by
  unfold badWord
  repeat' with_reducible (first
    | exact h | assumption | apply bumpPort_ev | apply setPort_ev | apply setLink_ev | apply portDown_ev | apply ite_ev)

theorem goodWord_ev {s0 s : State} {p w} (h : Evolves false false s0 s) : Evolves false false s0 (goodWord p w s) := by
  unfold goodWord
  repeat' with_reducible (first
    | exact h | assumption | apply setLink_ev | apply enterUp_ev | apply adoptIdent_ev | apply ite_ev
    | exact MailboxKeeps.same rfl rfl | exact rfl | exact TrustKeeps.refl _ | exact StacksKeep.refl _ | exact off
    | exact TrustKeeps.same rfl rfl rfl rfl rfl rfl rfl rfl rfl id
    | exact TrustKeeps.wiped rfl rfl rfl rfl rfl rfl rfl rfl rfl id | exact commitImage_keeps _ _ | exact returned_keeps _
    | exact wdogMgmt_keeps _ | exact wdogSeq_keeps _ | exact wdogLane_keeps _ | exact wdogTb_keeps _ | exact lcErr_keeps _
    | exact lmap_length .. | exact List.length_map .. | exact List.length_modify .. | intro _ _ _ | intro _ _ | split)

theorem loseLock_ev {s0 s : State} {p position} (h : Evolves false false s0 s) : Evolves false false s0 (loseLock p position s) := by
  unfold loseLock
  repeat' with_reducible (first
    | exact h | assumption | apply bumpPort_ev | apply portDown_ev | apply setPort_ev | apply ite_ev)

theorem countBlocks_ev {s0 s : State} {p sync overheads} (h : Evolves false false s0 s) : Evolves false false s0 (countBlocks p sync overheads s) := by
  unfold countBlocks
  repeat' with_reducible (first
    | exact h | assumption | apply setPort_ev | apply forEach_ev | apply loseLock_ev | apply ite_ev | apply getD_ev
    | exact MailboxKeeps.same rfl rfl | exact rfl | exact TrustKeeps.refl _ | exact StacksKeep.refl _
    | exact off | exact TrustKeeps.same rfl rfl rfl rfl rfl rfl rfl rfl rfl id
    | exact TrustKeeps.wiped rfl rfl rfl rfl rfl rfl rfl rfl rfl id | exact commitImage_keeps _ _ | exact returned_keeps _
    | exact wdogMgmt_keeps _ | exact wdogSeq_keeps _ | exact wdogLane_keeps _ | exact wdogTb_keeps _ | exact lcErr_keeps _
    | exact lmap_length .. | exact List.length_map .. | exact List.length_modify .. | intro _ _ _)

theorem nextStep_ev {s0 s : State} {p step} (h : Evolves qt bt s0 s) : Evolves qt bt s0 (nextStep p step s) := by
  unfold nextStep
  repeat' with_reducible (first | exact h | assumption | apply setPort_ev)

theorem polarityRow_ev {s0 s : State} {p row} (h : Evolves qt bt s0 s) : Evolves qt bt s0 (polarityRow p row s) := by
  unfold polarityRow
  repeat' with_reducible (first | exact h | assumption | apply setPort_ev | apply nextStep_ev | apply ite_ev)

theorem laneRow_ev {s0 s : State} {p row} (h : Evolves qt bt s0 s) : Evolves qt bt s0 (laneRow p row s) := by
  unfold laneRow
  repeat' with_reducible (first | exact h | assumption | apply setPort_ev | apply nextStep_ev | apply ite_ev)

theorem deskewRow_ev {s0 s : State} {p row} (h : Evolves qt bt s0 s) : Evolves qt bt s0 (deskewRow p row s) := by
  unfold deskewRow
  repeat' with_reducible (first | exact h | assumption | apply nextStep_ev | apply ite_ev)

theorem identRow_ev {s0 s : State} {p row} (h : Evolves qt bt s0 s) : Evolves qt bt s0 (identRow p row s) := by
  unfold identRow
  repeat' with_reducible (first
    | exact h | assumption | apply setPort_ev | apply failBringup_ev | apply ite_ev | exact MailboxKeeps.same rfl rfl | exact rfl
    | exact TrustKeeps.refl _ | exact StacksKeep.refl _ | exact same9 | exact lmap_length .. | exact List.length_map ..
    | exact List.length_modify .. | intro _ _ _ | intro _ _ | split)

theorem startExit_ev {s0 s : State} {g} (h : Evolves qt bt s0 s) : Evolves qt bt s0 (startExit g s) := by
  unfold startExit
  repeat' with_reducible (first | exact h | assumption | apply wakeGroup_ev)

theorem exitIfDeep_ev {s0 s : State} {g} (h : Evolves qt bt s0 s) : Evolves qt bt s0 (exitIfDeep g s) := by
  unfold exitIfDeep
  repeat' with_reducible (first | exact h | assumption | apply startExit_ev | apply ite_ev)

theorem powerDownPort_ev {s0 s : State} {p} (h : Evolves false false s0 s) : Evolves false false s0 (powerDownPort p s) := by
  unfold powerDownPort
  repeat' with_reducible (first | exact h | assumption | apply leaveUp_ev | apply enterOff_ev | apply ite_ev)

theorem powerUpPort_ev {s0 s : State} {p} (h : Evolves qt bt s0 s) : Evolves qt bt s0 (powerUpPort p s) := by
  unfold powerUpPort
  repeat' with_reducible (first | exact h | assumption | apply enterIdle_ev | apply ite_ev)

theorem saveSram_ev {s0 s : State} {die} (h : Evolves qt bt s0 s) : Evolves qt bt s0 (saveSram die s) := by
  unfold saveSram
  repeat' with_reducible (first
    | exact h | assumption | apply setStack_ev | exact fun _ => addErrors_keeps
    | exact fun _ => ⟨fun h => Memory.wf_write _ _ h, off⟩ | exact fun _ => ⟨id, fun _ => rfl⟩ | exact fun _ => touchChecks_keeps
    | exact fun _ => findFailing_keeps | exact fun _ => flushChecks_keeps | exact MailboxKeeps.same rfl rfl | exact rfl
    | exact TrustKeeps.refl _ | exact StacksKeep.refl _ | exact same9 | exact lmap_length .. | exact List.length_map ..
    | exact List.length_modify .. | intro _ _ _ | intro _ _ | dsimp only
    | refine Evolves.update ?_ ?_ ?_ ?_ ?_ ?_ ?_ ?_ ?_ ?_ ?_ ?_)

theorem restoreSram_ev {s0 s : State} {die} (h : Evolves qt bt s0 s) : Evolves qt bt s0 (restoreSram die s) := by
  unfold restoreSram
  dsimp only
  exact ite_ev (setStack_ev h fun _ => touchChecks_keeps)
    (forEach_ev (setDie_ev (forEach_ev h fun _ _ h => decodeCount_ev h)) fun _ _ h => loseStore_ev h)

theorem applyBanks_ev {s0 s : State} {st die} (h : Evolves qt bt s0 s) : Evolves qt bt s0 (applyBanks st die s) := by
  unfold applyBanks
  repeat' with_reducible (first
    | exact h | assumption | apply setDie_ev | apply saveSram_ev | apply restoreSram_ev | apply ite_ev
    | exact MailboxKeeps.same rfl rfl | exact rfl | exact TrustKeeps.refl _ | exact StacksKeep.refl _ | exact same9
    | exact lmap_length .. | exact List.length_map .. | exact List.length_modify .. | intro _ _ _ | intro _ _ | split)

theorem applyState_ev {s0 s : State} {g st} (h : Evolves false false s0 s) : Evolves false false s0 (applyState g st s) := by
  unfold applyState
  repeat' with_reducible (first
    | exact h | assumption | apply forEach_ev | apply applyBanks_ev | apply setStack_ev | apply powerDownPort_ev
    | apply powerUpPort_ev | apply ite_ev | exact fun _ => addErrors_keeps | exact fun _ => ⟨fun h => Memory.wf_write _ _ h, off⟩
    | exact fun _ => ⟨id, fun _ => rfl⟩ | exact fun _ => touchChecks_keeps | exact fun _ => findFailing_keeps
    | exact fun _ => flushChecks_keeps | intro _ _ _ | intro _ _ | split)

theorem thermalStep_ev {s0 s : State} {g old new} (h : Evolves qt bt s0 s) : Evolves qt bt s0 (thermalStep g old new s) := by
  unfold thermalStep
  repeat' with_reducible (first | exact h | assumption | apply setGroup_ev | apply yieldEvent_ev | apply ite_ev)

theorem powerStep_ev {s0 s : State} {log g} (h : Evolves qt bt s0 s) : Evolves qt bt s0 (powerStep log g s) := by
  unfold powerStep
  repeat' with_reducible (first | exact h | assumption | apply setGroup_ev)

theorem coolThrottles_ev {s0 s : State} {new} (h : Evolves false bt s0 s) : Evolves false bt s0 (coolThrottles new s) := by
  unfold coolThrottles
  repeat' with_reducible (first
    | exact h | assumption | apply forEach_ev | apply setStack_ev | apply ite_ev | exact fun _ => addErrors_keeps
    | exact fun _ => ⟨fun h => Memory.wf_write _ _ h, off⟩ | exact fun _ => ⟨id, fun _ => rfl⟩ | exact fun _ => touchChecks_keeps
    | exact fun _ => findFailing_keeps | exact fun _ => flushChecks_keeps | exact MailboxKeeps.same rfl rfl | exact rfl
    | exact TrustKeeps.refl _ | exact StacksKeep.refl _ | exact off
    | exact TrustKeeps.same rfl rfl rfl rfl rfl rfl rfl rfl rfl id
    | exact TrustKeeps.wiped rfl rfl rfl rfl rfl rfl rfl rfl rfl id | exact commitImage_keeps _ _ | exact returned_keeps _
    | exact wdogMgmt_keeps _ | exact wdogSeq_keeps _ | exact wdogLane_keeps _ | exact wdogTb_keeps _ | exact lcErr_keeps _
    | exact lmap_length .. | exact List.length_map .. | exact List.length_modify .. | intro _ _ _ | intro _ _ | split
    | dsimp only | refine Evolves.update ?_ ?_ ?_ ?_ ?_ ?_ ?_ ?_ ?_ ?_ ?_ ?_)

theorem emptyQueues_ev {s0 s : State} {o} (h : Evolves qt bt s0 s) : Evolves qt bt s0 (emptyQueues o s) := by
  unfold emptyQueues
  repeat' with_reducible (first
    | exact h | assumption | apply forEach_ev | apply releaseRef_ev | apply setXbar_ev | intro _ _ _)

theorem dropTarget_ev {s0 s : State} {o} (h : Evolves qt bt s0 s) : Evolves qt bt s0 (dropTarget o s) := by
  unfold dropTarget
  repeat' with_reducible (first
    | exact h | assumption | apply forEach_ev | apply setXbar_ev | apply returnCredits_ev | apply flightDown_ev | apply ite_ev
    | exact MailboxKeeps.same rfl rfl | exact rfl | exact TrustKeeps.refl _ | exact StacksKeep.refl _ | exact same9
    | exact lmap_length .. | exact List.length_map .. | exact List.length_modify .. | intro _ _ _)

theorem dropReseq_ev {s0 s : State} {place count} (h : Evolves qt bt s0 s) : Evolves qt bt s0 (dropReseq place count s) := by
  unfold dropReseq
  repeat' with_reducible (first
    | exact h | assumption | apply setReseq_ev | apply forEach_ev | apply dropRx_ev | apply bump_ev | apply ite_ev
    | exact MailboxKeeps.same rfl rfl | exact rfl | exact TrustKeeps.refl _ | exact StacksKeep.refl _ | exact same9
    | exact lmap_length .. | exact List.length_map .. | exact List.length_modify .. | intro _ _ _)

theorem unsyncFlows_ev {s0 s : State} {i} (h : Evolves qt bt s0 s) : Evolves qt bt s0 (unsyncFlows i s) := by
  unfold unsyncFlows
  repeat' with_reducible (first
    | exact h | assumption | apply forEach_ev | apply setDie_ev | apply ite_ev | apply getD_ev
    | exact MailboxKeeps.same rfl rfl | exact rfl | exact TrustKeeps.refl _ | exact StacksKeep.refl _ | exact same9
    | exact lmap_length .. | exact List.length_map .. | exact List.length_modify .. | intro _ _ _)

theorem dropDieFrames_ev {s0 s : State} {i} (h : Evolves qt bt s0 s) : Evolves qt bt s0 (dropDieFrames i s) := by
  unfold dropDieFrames
  repeat' with_reducible (first
    | exact h | assumption | apply unsyncFlows_ev | apply dropTarget_ev | apply emptyQueues_ev | apply releaseRef_ev
    | apply setXbar_ev | apply dropReseq_ev | apply setReseq_ev | exact MailboxKeeps.same rfl rfl | exact rfl
    | exact TrustKeeps.refl _ | exact StacksKeep.refl _ | exact same9 | exact lmap_length .. | exact List.length_map ..
    | exact List.length_modify .. | intro _ _ _ | intro _ _ | split)

theorem regionLoss_ev {s0 s : State} {pair slot} (h : Evolves qt bt s0 s) : Evolves qt bt s0 (regionLoss pair slot s) := by
  unfold regionLoss
  repeat' with_reducible (first
    | exact h | assumption | apply setRegion_ev | apply lostEvent_ev | apply ite_ev | exact MailboxKeeps.same rfl rfl | exact rfl
    | exact TrustKeeps.refl _ | exact StacksKeep.refl _ | exact same9 | exact lmap_length .. | exact List.length_map ..
    | exact List.length_modify .. | intro _ _ _ | intro _ _ | split)

theorem loseTraverse_ev {s0 s : State} {t} (h : Evolves qt bt s0 s) : Evolves qt bt s0 (loseTraverse t s) := by
  unfold loseTraverse
  repeat' with_reducible (first
    | exact h | assumption | apply forEach_ev | apply abortGen_ev | apply freeAccs_ev | apply freeTraverse_ev
    | exact MailboxKeeps.same rfl rfl | exact rfl | exact TrustKeeps.refl _ | exact StacksKeep.refl _ | exact same9
    | exact lmap_length .. | exact List.length_map .. | exact List.length_modify .. | intro _ _ _ | intro _ _ | split)

theorem loseTally_ev {s0 s : State} {t} (h : Evolves qt bt s0 s) : Evolves qt bt s0 (loseTally t s) := by
  unfold loseTally
  repeat' with_reducible (first
    | exact h | assumption | apply sendControl_ev | apply ite_ev | exact MailboxKeeps.same rfl rfl | exact rfl
    | exact TrustKeeps.refl _ | exact StacksKeep.refl _ | exact same9 | exact lmap_length .. | exact List.length_map ..
    | exact List.length_modify .. | split | dsimp only | refine Evolves.update ?_ ?_ ?_ ?_ ?_ ?_ ?_ ?_ ?_ ?_ ?_ ?_)

theorem loseRegion_ev {s0 s : State} {slot} (h : Evolves qt bt s0 s) : Evolves qt bt s0 (loseRegion slot s) := by
  unfold loseRegion
  repeat' with_reducible (first
    | exact h | assumption | apply lostEvent_ev | apply setRegion_ev | apply ite_ev | exact MailboxKeeps.same rfl rfl | exact rfl
    | exact TrustKeeps.refl _ | exact StacksKeep.refl _ | exact same9 | exact lmap_length .. | exact List.length_map ..
    | exact List.length_modify .. | intro _ _ _ | intro _ _ | split)

theorem loseRecords_ev {s0 s : State} (h : Evolves qt bt s0 s) : Evolves qt bt s0 (loseRecords s) := by
  unfold loseRecords
  repeat' with_reducible (first
    | exact h | assumption | apply forEach_ev | apply loseRegion_ev | apply loseTally_ev | apply loseTraverse_ev | intro _ _ _)

theorem loseJournal_ev {s0 s : State} (h : Evolves qt bt s0 s) : Evolves qt bt s0 (loseJournal s) := by
  unfold loseJournal
  repeat' with_reducible (first
    | exact h | assumption | apply ite_ev | exact MailboxKeeps.same rfl rfl | exact rfl | exact TrustKeeps.refl _
    | exact StacksKeep.refl _ | exact same9 | exact lmap_length .. | exact List.length_map .. | exact List.length_modify ..
    | split | refine Evolves.update ?_ ?_ ?_ ?_ ?_ ?_ ?_ ?_ ?_ ?_ ?_ ?_)

theorem failPair_ev {s0 s : State} {pair cause} (h : Evolves qt false s0 s) : Evolves qt false s0 (failPair pair cause s) := by
  unfold failPair
  repeat' with_reducible (first
    | exact h | assumption | apply setDie_ev | apply forEach_ev | apply abortGen_ev | apply settleBroadcasts_ev
    | apply dropDieFrames_ev | apply setStack_ev | apply loseJournal_ev | apply loseRecords_ev | apply regionLoss_ev
    | apply journalEvent_ev | apply ite_ev | exact fun _ => addErrors_keeps
    | exact fun _ => ⟨fun h => Memory.wf_write _ _ h, off⟩ | exact fun _ => ⟨id, fun _ => rfl⟩ | exact fun _ => touchChecks_keeps
    | exact fun _ => findFailing_keeps | exact fun _ => flushChecks_keeps | exact MailboxKeeps.same rfl rfl | exact rfl
    | exact TrustKeeps.refl _ | exact StacksKeep.refl _ | exact same9 | exact lmap_length .. | exact List.length_map ..
    | exact List.length_modify .. | intro _ _ _ | intro _ _ | split | dsimp only
    | refine Evolves.update ?_ ?_ ?_ ?_ ?_ ?_ ?_ ?_ ?_ ?_ ?_ ?_)

theorem declareChannel_ev {s0 s : State} {stack pch cause} (h : Evolves qt false s0 s) : Evolves qt false s0 (declareChannel stack pch cause s) := by
  unfold declareChannel
  repeat' with_reducible (first
    | exact h | assumption | apply failPair_ev | apply journalEvent_ev | apply setStack_ev | apply ite_ev
    | exact fun _ => addErrors_keeps | exact fun _ => ⟨fun h => Memory.wf_write _ _ h, off⟩ | exact fun _ => ⟨id, fun _ => rfl⟩)

theorem declareDue_ev {s0 s : State} {stack} (h : Evolves qt false s0 s) : Evolves qt false s0 (declareDue stack s) := by
  unfold declareDue
  repeat' with_reducible (first
    | exact h | assumption | apply forEach_ev | apply declareChannel_ev | apply setStack_ev | exact fun _ => addErrors_keeps
    | exact fun _ => ⟨fun h => Memory.wf_write _ _ h, off⟩ | exact fun _ => ⟨id, fun _ => rfl⟩ | exact fun _ => touchChecks_keeps
    | exact fun _ => findFailing_keeps | exact fun _ => flushChecks_keeps | exact MailboxKeeps.same rfl rfl | exact rfl
    | exact TrustKeeps.refl _ | exact StacksKeep.refl _ | exact same9 | exact lmap_length .. | exact List.length_map ..
    | exact List.length_modify .. | intro _ _ _)

theorem forgetKept_ev {s0 s : State} {t g ch} (h : Evolves qt bt s0 s) : Evolves qt bt s0 (forgetKept t g ch s) := by
  unfold forgetKept
  repeat' with_reducible (first
    | exact h | assumption | apply forEach_ev | apply freeAcc_ev | apply setTraverse_ev | exact MailboxKeeps.same rfl rfl
    | exact rfl | exact TrustKeeps.refl _ | exact StacksKeep.refl _ | exact same9 | exact lmap_length ..
    | exact List.length_map .. | exact List.length_modify .. | intro _ _ _ | intro _ _ | split)

theorem loseAcc_ev {s0 s : State} {t g ch} (h : Evolves qt bt s0 s) : Evolves qt bt s0 (loseAcc t g ch s) := by
  unfold loseAcc
  repeat' with_reducible (first | exact h | assumption | apply abortGen_ev | apply forgetKept_ev)

theorem loseSystem_ev {s0 s : State} {stack line} (h : Evolves qt bt s0 s) : Evolves qt bt s0 (loseSystem stack line s) := by
  unfold loseSystem
  repeat' with_reducible (first
    | exact h | assumption | apply ite_ev | exact MailboxKeeps.same rfl rfl | exact rfl | exact TrustKeeps.refl _
    | exact StacksKeep.refl _ | exact same9 | exact lmap_length .. | exact List.length_map .. | exact List.length_modify ..
    | intro _ _ _ | intro _ _ | split | dsimp only | refine Evolves.update ?_ ?_ ?_ ?_ ?_ ?_ ?_ ?_ ?_ ?_ ?_ ?_)

theorem loseLine_ev {s0 s : State} {stack line} (h : Evolves qt false s0 s) : Evolves qt false s0 (loseLine stack line s) := by
  unfold loseLine
  repeat' with_reducible (first
    | exact h | assumption | apply damagedUnit_ev | apply loseAcc_ev | apply loseSystem_ev | apply freeRange_ev | apply ite_ev
    | exact MailboxKeeps.same rfl rfl | exact rfl | exact TrustKeeps.refl _ | exact StacksKeep.refl _ | exact same9
    | exact lmap_length .. | exact List.length_map .. | exact List.length_modify .. | split | dsimp only)

theorem decodeLine_ev {s0 s : State} {stack line} (h : Evolves qt false s0 s) : Evolves qt false s0 (decodeLine stack line s) := by
  unfold decodeLine
  repeat' with_reducible (first
    | exact h | assumption | apply decodeCount_ev | apply declareDue_ev | apply loseLine_ev | apply ite_ev)

theorem setAcc_ev {s0 s : State} {t g ch f} (h : Evolves qt bt s0 s) : Evolves qt bt s0 (setAcc t g ch f s) := by
  unfold setAcc
  repeat' with_reducible (first | exact h | assumption | apply setTraverse_ev)

theorem addOne_ev {s0 s : State} {stripe vfmt r e1} (h : Evolves qt false s0 s) : Evolves qt false s0 (addOne stripe vfmt r e1 s) := by
  unfold addOne
  repeat' with_reducible (first
    | exact h | assumption | apply storeSector_ev | exact MailboxKeeps.same rfl rfl | exact rfl | exact TrustKeeps.refl _
    | exact StacksKeep.refl _ | exact same9 | exact lmap_length .. | exact List.length_map .. | exact List.length_modify ..
    | split)

theorem loseSectors_ev {s0 s : State} {die slot stripe r es} (h : Evolves qt false s0 s) : Evolves qt false s0 (loseSectors die slot stripe r es s) := by
  unfold loseSectors
  repeat' with_reducible (first
    | exact h | assumption | apply forEach_ev | apply declareDue_ev | apply damagedUnit_ev | apply countLost_ev | apply bump_ev
    | exact MailboxKeeps.same rfl rfl | exact rfl | exact TrustKeeps.refl _ | exact StacksKeep.refl _ | exact same9
    | exact lmap_length .. | exact List.length_map .. | exact List.length_modify .. | intro _ _ _ | intro _ _ | split)

theorem moveLine_ev {s0 s : State} {stack line o w} (h : Evolves qt bt s0 s) : Evolves qt bt s0 (moveLine stack line o w s) := by
  rcases w with _ | ⟨t, g, ch⟩
  · rcases o with _ | _ | ⟨l, _ | _⟩ <;> exact h
  · rcases o with _ | _ | ⟨l, _ | _⟩
    · exact abortGen_ev (forgetKept_ev h)
    · exact abortGen_ev (forgetKept_ev h)
    · exact setAcc_ev (setStack_ev h fun _ => ⟨id, fun _ => rfl⟩)
    · exact abortGen_ev (forgetKept_ev h)

theorem moveSpilled_ev {s0 s : State} {stack line} (h : Evolves qt bt s0 s) : Evolves qt bt s0 (moveSpilled stack line s) := by
  unfold moveSpilled
  repeat' with_reducible (first | exact h | assumption | apply moveLine_ev)

theorem restoreStripe_ev {s0 s : State} {slot r a stripe copy} (h : Evolves qt false s0 s) : Evolves qt false s0 (restoreStripe slot r a stripe copy s).1 := by
  unfold restoreStripe
  repeat' with_reducible (first
    | exact h | assumption | apply forEach_ev | apply storeBytes_ev | apply markPoison_ev | apply ite_ev | apply getD_ev
    | exact MailboxKeeps.same rfl rfl | exact rfl | exact TrustKeeps.refl _ | exact StacksKeep.refl _
    | exact same9 | exact lmap_length .. | exact List.length_map .. | exact List.length_modify .. | intro _ _ _ | intro _ _
    | split)
theorem restoreStripe_ev' {s0 s : State} {slot r a stripe copy} {o1 o2} (h : Evolves qt false s0 s) (e : restoreStripe slot r a stripe copy s = (o1, o2)) : Evolves qt false s0 o1 := by
  have := restoreStripe_ev (s0 := s0) (slot := slot) (r := r) (a := a) (stripe := stripe) (copy := copy) (s := s) h
  rw [e] at this
  exact this

theorem loseMuted_ev {s0 s : State} {stack set slot} (h : Evolves qt false s0 s) : Evolves qt false s0 (loseMuted stack set slot s) := by
  unfold loseMuted
  repeat' with_reducible (first
    | exact h | assumption | (refine restoreStripe_ev' ?_ (by assumption)) | apply restoreStripe_ev | apply setRegion_ev
    | apply lostEvent_ev | apply ite_ev | apply foldl_ev | apply foldl1_ev | apply foldl2_ev | apply foldl22_ev
    | exact MailboxKeeps.same rfl rfl | exact rfl | exact TrustKeeps.refl _ | exact StacksKeep.refl _ | exact same9
    | exact lmap_length .. | exact List.length_map .. | exact List.length_modify .. | intro _ _ _ | intro _ _ | split)

theorem loseMutedRest_ev {s0 s : State} {stack set} (h : Evolves qt false s0 s) : Evolves qt false s0 (loseMutedRest stack set s) := by
  unfold loseMutedRest
  repeat' with_reducible (first | exact h | assumption | apply forEach_ev | apply loseLine_ev | apply ite_ev | intro _ _ _)

theorem poolAudit_ev {s0 s : State} {w} (h : Evolves qt bt s0 s) : Evolves qt bt s0 (poolAudit w s).1 := by
  unfold poolAudit
  repeat' with_reducible (first
    | exact h | assumption | apply forEach_ev | apply freeRecord_ev | apply setXbar_ev | apply journalEvent_ev | apply ite_ev
    | apply foldl_ev | apply foldl1_ev | apply foldl2_ev | apply foldl22_ev | exact MailboxKeeps.same rfl rfl | exact rfl
    | exact TrustKeeps.refl _ | exact StacksKeep.refl _ | exact same9 | exact lmap_length .. | exact List.length_map ..
    | exact List.length_modify .. | intro _ _ _)
theorem poolAudit_ev' {s0 s : State} {w} {o1 o2} (h : Evolves qt bt s0 s) (e : poolAudit w s = (o1, o2)) : Evolves qt bt s0 o1 := by
  have := poolAudit_ev (s0 := s0) (w := w) (s := s) h
  rw [e] at this
  exact this

theorem auditReady_ev {s0 s : State} {seq ok result} (h : Evolves qt bt s0 s) : Evolves qt bt s0 (auditReady seq ok result s) := by
  unfold auditReady
  repeat' with_reducible (first
    | exact h | assumption | apply setMailbox_ev | apply ite_ev | exact ⟨fun h => Memory.wf_write _ _ h, id⟩
    | exact ⟨fun h => Memory.wf_zero_all _ h, id⟩ | exact MailboxKeeps.same rfl rfl | exact rfl | exact TrustKeeps.refl _
    | exact StacksKeep.refl _ | exact same9 | exact lmap_length .. | exact List.length_map .. | exact List.length_modify ..
    | intro _ _ _ | intro _ _ | split)

theorem ledgerAudit_ev {s0 s : State} {w} (h : Evolves qt false s0 s) : Evolves qt false s0 (ledgerAudit w s) := by
  unfold ledgerAudit
  repeat' with_reducible (first
    | exact h | assumption | apply auditReady_ev | apply forEach_ev | apply decodeLine_ev | apply markPoison_ev
    | apply setRegion_ev | apply writeHost_ev | apply ite_ev | apply getD_ev
    | exact MailboxKeeps.same rfl rfl | exact rfl | exact TrustKeeps.refl _ | exact StacksKeep.refl _ | exact same9
    | exact lmap_length .. | exact List.length_map .. | exact List.length_modify .. | intro _ _ _ | intro _ _ | split)

theorem startPoolAudit_ev' {s0 s : State} {reclaim seq pair addr ring busOk} {out} (h : Evolves qt bt s0 s) (e : startPoolAudit reclaim seq pair addr ring busOk s = some out) : Evolves qt bt s0 out := by
  unfold startPoolAudit at e
  repeat' with_reducible (first
    | exact h | contradiction | split at e | (injection e with e; subst e) | assumption | apply setXbar_ev)

theorem startLedgerAudit_ev' {s0 s : State} {handle seq pair addr ring busOk} {out} (h : Evolves qt bt s0 s) (e : startLedgerAudit handle seq pair addr ring busOk s = some out) : Evolves qt bt s0 out := by
  unfold startLedgerAudit at e
  repeat' with_reducible (first
    | exact h | contradiction | split at e | (injection e with e; subst e) | assumption | apply setRegion_ev | apply ite_ev
    | apply getD_ev | exact MailboxKeeps.same rfl rfl | exact rfl | exact TrustKeeps.refl _
    | exact StacksKeep.refl _ | exact same9 | exact lmap_length .. | exact List.length_map .. | exact List.length_modify ..
    | intro _ _ _ | intro _ _ | split | dsimp only | refine Evolves.update ?_ ?_ ?_ ?_ ?_ ?_ ?_ ?_ ?_ ?_ ?_ ?_)

theorem writeStores_ev {s0 s : State} {slot} (h : Evolves qt bt s0 s) : Evolves qt bt s0 (writeStores slot s) := by
  unfold writeStores
  repeat' with_reducible (first
    | exact h | assumption | apply ite_ev | exact MailboxKeeps.same rfl rfl | exact rfl | exact TrustKeeps.refl _
    | exact StacksKeep.refl _ | exact same9 | exact lmap_length .. | exact List.length_map .. | exact List.length_modify ..
    | intro _ _ _ | intro _ _ | split | refine Evolves.update ?_ ?_ ?_ ?_ ?_ ?_ ?_ ?_ ?_ ?_ ?_ ?_)

theorem completeAtOnce_ev {s0 s : State} {c index status result version} (h : Evolves qt bt s0 s) : Evolves qt bt s0 (completeAtOnce c index status result version s) := by
  unfold completeAtOnce
  repeat' with_reducible (first | exact h | assumption | apply putCompletion_ev)

theorem journalCommand_ev {s0 s : State} {c index a} (h : Evolves qt bt s0 s) : Evolves qt bt s0 (journalCommand c index a s) := by
  unfold journalCommand
  repeat' with_reducible (first
    | exact h | assumption | apply setMailbox_ev | apply appendEntry_ev | exact ⟨fun h => Memory.wf_write _ _ h, id⟩
    | exact ⟨fun h => Memory.wf_zero_all _ h, id⟩ | exact MailboxKeeps.same rfl rfl)

theorem takeCommand_ev {s0 s : State} {n} (h : Evolves qt bt s0 s) : Evolves qt bt s0 (takeCommand n s) := by
  unfold takeCommand
  repeat' with_reducible (first
    | exact h | assumption | apply setMailbox_ev | apply setPair_ev | exact ⟨fun h => Memory.wf_write _ _ h, id⟩
    | exact ⟨fun h => Memory.wf_zero_all _ h, id⟩ | exact MailboxKeeps.same rfl rfl)

theorem addAction_ev {s0 s : State} {parcel t k} (h : Evolves qt bt s0 s) : Evolves qt bt s0 (addAction parcel t k s) := by
  unfold addAction
  repeat' with_reducible (first
    | exact h | assumption | apply draw_ev | exact MailboxKeeps.same rfl rfl | exact rfl | exact TrustKeeps.refl _
    | exact StacksKeep.refl _ | exact same9 | exact lmap_length .. | exact List.length_map .. | exact List.length_modify ..
    | refine Evolves.update ?_ ?_ ?_ ?_ ?_ ?_ ?_ ?_ ?_ ?_ ?_ ?_)

theorem dropAction_ev {s0 s : State} {o} (h : Evolves qt bt s0 s) : Evolves qt bt s0 (dropAction o s) := by
  unfold dropAction
  repeat' with_reducible (first
    | exact h | assumption | exact MailboxKeeps.same rfl rfl | exact rfl | exact TrustKeeps.refl _ | exact StacksKeep.refl _
    | exact same9 | exact lmap_length .. | exact List.length_map .. | exact List.length_modify .. | intro _ _ _ | intro _ _
    | refine Evolves.update ?_ ?_ ?_ ?_ ?_ ?_ ?_ ?_ ?_ ?_ ?_ ?_)

theorem putHost_ev {s0 s : State} {c bs} (h : Evolves qt bt s0 s) : Evolves qt bt s0 (putHost c bs s) := by
  unfold putHost
  repeat' with_reducible (first | exact h | assumption | apply writeHost_ev | apply ite_ev)

theorem stageImage_ev {s0 s : State} {slotB crc img busOk} (h : Evolves qt bt s0 s) : Evolves qt bt s0 (stageImage slotB crc img busOk s).1 := by
  unfold stageImage
  repeat' with_reducible (first
    | exact h | assumption | apply ite_ev | exact MailboxKeeps.same rfl rfl | exact rfl | exact TrustKeeps.refl _
    | exact StacksKeep.refl _ | exact same9 | exact lmap_length .. | exact List.length_map .. | exact List.length_modify ..
    | split | dsimp only | refine Evolves.update ?_ ?_ ?_ ?_ ?_ ?_ ?_ ?_ ?_ ?_ ?_ ?_)
theorem stageImage_ev' {s0 s : State} {slotB crc img busOk} {o1 o2} (h : Evolves qt bt s0 s) (e : stageImage slotB crc img busOk s = (o1, o2)) : Evolves qt bt s0 o1 := by
  have := stageImage_ev (s0 := s0) (slotB := slotB) (crc := crc) (img := img) (busOk := busOk) (s := s) h
  rw [e] at this
  exact this

theorem closeDebug_ev {s0 s : State} (h : Evolves false bt s0 s) : Evolves false bt s0 (closeDebug s) := by
  unfold closeDebug
  repeat' with_reducible (first
    | exact h | assumption | exact MailboxKeeps.same rfl rfl | exact rfl | exact TrustKeeps.refl _ | exact StacksKeep.refl _
    | exact off | exact TrustKeeps.same rfl rfl rfl rfl rfl rfl rfl rfl rfl id
    | exact TrustKeeps.wiped rfl rfl rfl rfl rfl rfl rfl rfl rfl id | exact commitImage_keeps _ _ | exact returned_keeps _
    | exact wdogMgmt_keeps _ | exact wdogSeq_keeps _ | exact wdogLane_keeps _ | exact wdogTb_keeps _ | exact lcErr_keeps _
    | exact lmap_length .. | exact List.length_map .. | exact List.length_modify ..
    | refine Evolves.update ?_ ?_ ?_ ?_ ?_ ?_ ?_ ?_ ?_ ?_ ?_ ?_)

theorem settleDebug_ev {s0 s : State} (h : Evolves false bt s0 s) : Evolves false bt s0 (settleDebug s) := by
  unfold settleDebug
  repeat' with_reducible (first | exact h | assumption | apply closeDebug_ev | apply ite_ev)

theorem grantPairs_ev {s0 s : State} {target pairs} (h : Evolves qt bt s0 s) : Evolves qt bt s0 (grantPairs target pairs s) := by
  unfold grantPairs
  repeat' with_reducible (first
    | exact h | assumption | apply forEach_ev | apply setPair_ev | apply stopPair_ev | apply setParcel_ev | apply ite_ev
    | exact MailboxKeeps.same rfl rfl | exact rfl | exact TrustKeeps.refl _ | exact StacksKeep.refl _ | exact same9
    | exact lmap_length .. | exact List.length_map .. | exact List.length_modify .. | intro _ _ _)

theorem selectPlat_ev {s0 s : State} {parcel i} (h : Evolves qt bt s0 s) : Evolves qt bt s0 (selectPlat parcel i s) := by
  unfold selectPlat
  repeat' with_reducible (first | exact h | assumption | apply joinNew_ev | apply setParcel_ev)

theorem dropWakes_ev {s0 s : State} {parcel} (h : Evolves qt bt s0 s) : Evolves qt bt s0 (dropWakes parcel s) := by
  unfold dropWakes
  repeat' with_reducible (first
    | exact h | assumption | apply getD_ev | exact MailboxKeeps.same rfl rfl | exact rfl
    | exact TrustKeeps.refl _ | exact StacksKeep.refl _ | exact same9 | exact lmap_length .. | exact List.length_map ..
    | exact List.length_modify .. | intro _ _ _ | intro _ _ | split | dsimp only
    | refine Evolves.update ?_ ?_ ?_ ?_ ?_ ?_ ?_ ?_ ?_ ?_ ?_ ?_)

theorem setStream_ev {s0 s : State} {n f} (h : Evolves false bt s0 s) : Evolves false bt s0 (setStream n f s) := by
  unfold setStream
  repeat' with_reducible (first
    | exact h | assumption | exact MailboxKeeps.same rfl rfl | exact rfl | exact TrustKeeps.refl _ | exact StacksKeep.refl _
    | exact off | exact TrustKeeps.same rfl rfl rfl rfl rfl rfl rfl rfl rfl id
    | exact TrustKeeps.wiped rfl rfl rfl rfl rfl rfl rfl rfl rfl id | exact commitImage_keeps _ _ | exact returned_keeps _
    | exact wdogMgmt_keeps _ | exact wdogSeq_keeps _ | exact wdogLane_keeps _ | exact wdogTb_keeps _ | exact lcErr_keeps _
    | exact lmap_length .. | exact List.length_map .. | exact List.length_modify .. | intro _ _ _ | intro _ _
    | refine Evolves.update ?_ ?_ ?_ ?_ ?_ ?_ ?_ ?_ ?_ ?_ ?_ ?_)

theorem renewStream_ev {s0 s : State} {n} (h : Evolves qt bt s0 s) : Evolves qt bt s0 (renewStream n s) := by
  unfold renewStream
  repeat' with_reducible (first
    | exact h | assumption | apply ite_ev | exact MailboxKeeps.same rfl rfl | exact rfl | exact TrustKeeps.refl _
    | exact StacksKeep.refl _ | exact same9 | exact lmap_length .. | exact List.length_map .. | exact List.length_modify ..
    | intro _ _ _ | intro _ _ | split | refine Evolves.update ?_ ?_ ?_ ?_ ?_ ?_ ?_ ?_ ?_ ?_ ?_ ?_)

theorem stationEvent_ev {s0 s : State} {n x} (h : Evolves qt bt s0 s) : Evolves qt bt s0 (stationEvent n x s) := by
  unfold stationEvent
  repeat' with_reducible (first | exact h | assumption | apply postEvent_ev)

theorem closeGens_ev {s0 s : State} {t} (h : Evolves qt bt s0 s) : Evolves qt bt s0 (closeGens t s) := by
  unfold closeGens
  repeat' with_reducible (first | exact h | assumption | apply forEach_ev | apply abortGen_ev | intro _ _ _ | intro _ _ | split)

theorem closeTraverse_ev {s0 s : State} {t force} (h : Evolves qt bt s0 s) : Evolves qt bt s0 (closeTraverse t force s) := by
  unfold closeTraverse
  repeat' with_reducible (first
    | exact h | assumption | apply setTraverse_ev | apply freeTraverse_ev | apply closeGens_ev | apply ite_ev
    | exact MailboxKeeps.same rfl rfl | exact rfl | exact TrustKeeps.refl _ | exact StacksKeep.refl _ | exact same9
    | exact lmap_length .. | exact List.length_map .. | exact List.length_modify .. | intro _ _ _ | intro _ _ | split)

theorem changeTally_ev {s0 s : State} {t new} (h : Evolves qt bt s0 s) : Evolves qt bt s0 (changeTally t new s) := by
  unfold changeTally
  repeat' with_reducible (first
    | exact h | assumption | apply forEach_ev | apply suspectEvent_ev | apply setTally_ev | exact MailboxKeeps.same rfl rfl
    | exact rfl | exact TrustKeeps.refl _ | exact StacksKeep.refl _ | exact same9 | exact lmap_length ..
    | exact List.length_map .. | exact List.length_modify .. | intro _ _ _ | intro _ _ | split)

theorem startBasis_ev {s0 s : State} {parcel slot} (h : Evolves false bt s0 s) : Evolves false bt s0 (startBasis parcel slot s) := by
  unfold startBasis
  repeat' with_reducible (first
    | exact h | assumption | apply forEach_ev | apply setDie_ev | exact MailboxKeeps.same rfl rfl | exact rfl
    | exact TrustKeeps.refl _ | exact StacksKeep.refl _ | exact off
    | exact TrustKeeps.same rfl rfl rfl rfl rfl rfl rfl rfl rfl id
    | exact TrustKeeps.wiped rfl rfl rfl rfl rfl rfl rfl rfl rfl id | exact commitImage_keeps _ _ | exact returned_keeps _
    | exact wdogMgmt_keeps _ | exact wdogSeq_keeps _ | exact wdogLane_keeps _ | exact wdogTb_keeps _ | exact lcErr_keeps _
    | exact lmap_length .. | exact List.length_map .. | exact List.length_modify .. | intro _ _ _ | intro _ _ | dsimp only
    | refine Evolves.update ?_ ?_ ?_ ?_ ?_ ?_ ?_ ?_ ?_ ?_ ?_ ?_)

theorem bind_ev {s0 s : State} {t slot recon valid first} (h : Evolves qt bt s0 s) : Evolves qt bt s0 (Machine.bind t slot recon valid first s) := by
  unfold Machine.bind
  repeat' with_reducible (first
    | exact h | assumption | exact MailboxKeeps.same rfl rfl | exact rfl | exact TrustKeeps.refl _ | exact StacksKeep.refl _
    | exact same9 | exact lmap_length .. | exact List.length_map .. | exact List.length_modify .. | intro _ _ _ | intro _ _
    | dsimp only | refine Evolves.update ?_ ?_ ?_ ?_ ?_ ?_ ?_ ?_ ?_ ?_ ?_ ?_)

theorem contributeNorm_ev {s0 s : State} {t g x lost} (h : Evolves qt false s0 s) : Evolves qt false s0 (contributeNorm t g x lost s) := by
  unfold contributeNorm
  repeat' with_reducible (first
    | exact h | assumption | (refine admitGen_ev' ?_ (by assumption)) | apply admitGen_ev | apply bump_ev | apply abortGen_ev
    | apply addInput_ev | apply setGen_ev | apply settleGen_ev | apply ite_ev | apply getD_ev
    | exact MailboxKeeps.same rfl rfl | exact rfl | exact TrustKeeps.refl _ | exact StacksKeep.refl _ | exact same9
    | exact lmap_length .. | exact List.length_map .. | exact List.length_modify .. | intro _ _ _ | intro _ _ | split
    | dsimp only)

theorem dropKept_ev {s0 s : State} {t g a} (h : Evolves qt bt s0 s) : Evolves qt bt s0 (dropKept t g a s) := by
  unfold dropKept
  repeat' with_reducible (first
    | exact h | assumption | apply forEach_ev | apply decodeCount_ev | apply freeAcc_ev | apply setTraverse_ev
    | exact MailboxKeeps.same rfl rfl | exact rfl | exact TrustKeeps.refl _ | exact StacksKeep.refl _ | exact same9
    | exact lmap_length .. | exact List.length_map .. | exact List.length_modify .. | intro _ _ _)

theorem applyStripe_ev' {s0 s : State} {slot ga seed p srGen st out} (h : Evolves qt false s0 s)
    (e : applyStripe slot ga seed p srGen st s = some out) : Evolves qt false s0 out := by
  unfold applyStripe at e
  obtain ⟨r, _, e⟩ := Option.bind_eq_some_iff.mp e
  by_cases hk : r.kind = 2
  all_goals
    simp only [hk, ↓reduceIte, Option.ite_none_left_eq_some, Option.some.injEq] at e
    obtain ⟨_, rfl⟩ := e
  · exact writeElems_ev (writeElems_ev (writeElems_ev h))
  · exact writeElems_ev (writeElems_ev h)

theorem decodeUpdate_ev {s0 s : State} {slot ga st} (h : Evolves qt false s0 s) : Evolves qt false s0 (decodeUpdate slot ga st s) := by
  unfold decodeUpdate
  repeat' with_reducible (first
    | exact h | assumption | apply forEach_ev | apply decodeStripe_ev | intro _ _ _ | intro _ _ | split)

theorem skipStripe_ev {s0 s : State} {slot st} (h : Evolves qt bt s0 s) : Evolves qt bt s0 (skipStripe slot st s) := by
  unfold skipStripe
  repeat' with_reducible (first
    | exact h | assumption | apply forEach_ev | apply markStripe_ev | intro _ _ _ | intro _ _ | split)

theorem applyRegion_ev {s0 s : State} {handle gen srGen p} (h : Evolves qt false s0 s) : Evolves qt false s0 (applyRegion handle gen srGen p s).1 := by
  unfold applyRegion
  repeat' with_reducible (first
    | exact h | assumption | apply decodeUpdate_ev | (refine applyStripe_ev' ?_ (by assumption)) | apply skipStripe_ev
    | apply setRegion_ev | apply ite_ev | apply foldl_ev | apply foldl1_ev | apply foldl2_ev | apply foldl22_ev
    | exact MailboxKeeps.same rfl rfl | exact rfl | exact TrustKeeps.refl _ | exact StacksKeep.refl _ | exact same9
    | exact lmap_length .. | exact List.length_map .. | exact List.length_modify .. | intro _ _ _ | intro _ _ | split
    | dsimp only)
theorem applyRegion_ev' {s0 s : State} {handle gen srGen p} {o1 o2} (h : Evolves qt false s0 s) (e : applyRegion handle gen srGen p s = (o1, o2)) : Evolves qt false s0 o1 := by
  have := applyRegion_ev (s0 := s0) (handle := handle) (gen := gen) (srGen := srGen) (p := p) (s := s) h
  rw [e] at this
  exact this

theorem takeRegion_ev {s0 s : State} {slot seq} (h : Evolves qt bt s0 s) : Evolves qt bt s0 (takeRegion slot seq s) := by
  unfold takeRegion
  repeat' with_reducible (first | exact h | assumption | apply setRegion_ev)

theorem releaseRegion_ev {s0 s : State} {seq} (h : Evolves qt bt s0 s) : Evolves qt bt s0 (releaseRegion seq s) := by
  unfold releaseRegion
  repeat' with_reducible (first
    | exact h | assumption | apply ite_ev | exact MailboxKeeps.same rfl rfl | exact rfl | exact TrustKeeps.refl _
    | exact StacksKeep.refl _ | exact same9 | exact lmap_length .. | exact List.length_map .. | exact List.length_modify ..
    | intro _ _ _ | intro _ _ | split | refine Evolves.update ?_ ?_ ?_ ?_ ?_ ?_ ?_ ?_ ?_ ?_ ?_ ?_)

theorem writeRun_ev {s0 s : State} {slot r a l bs} (h : Evolves qt false s0 s) : Evolves qt false s0 (writeRun slot r a l bs s) := by
  induction l generalizing s bs with
  | nil => exact h
  | cons st rest ih => exact ih (writeStripe_ev h)

theorem finishLoad_ev {s0 s : State} {handle a first n crc zero data busOk} (h : Evolves qt false s0 s) : Evolves qt false s0 (finishLoad handle a first n crc zero data busOk s).1 := by
  unfold finishLoad
  repeat' with_reducible (first
    | exact h | assumption | apply setRegion_ev | apply writeRun_ev | apply settleLost_ev | apply clearPoison_ev | apply ite_ev
    | exact MailboxKeeps.same rfl rfl | exact rfl | exact TrustKeeps.refl _ | exact StacksKeep.refl _ | exact same9
    | exact lmap_length .. | exact List.length_map .. | exact List.length_modify .. | intro _ _ _ | intro _ _ | split)
theorem finishLoad_ev' {s0 s : State} {handle a first n crc zero data busOk} {o1 o2} (h : Evolves qt false s0 s) (e : finishLoad handle a first n crc zero data busOk s = (o1, o2)) : Evolves qt false s0 o1 := by
  have := finishLoad_ev (s0 := s0) (handle := handle) (a := a) (first := first) (n := n) (crc := crc) (zero := zero) (data := data) (busOk := busOk) (s := s) h
  rw [e] at this
  exact this

theorem decodeSave_ev {s0 s : State} {c} (h : Evolves qt false s0 s) : Evolves qt false s0 (decodeSave c s) := by
  unfold decodeSave
  repeat' with_reducible (first
    | exact h | assumption | apply forEach_ev | apply decodeStripe_ev | apply ite_ev | exact MailboxKeeps.same rfl rfl
    | exact rfl | exact TrustKeeps.refl _ | exact StacksKeep.refl _ | exact same9 | exact lmap_length ..
    | exact List.length_map .. | exact List.length_modify .. | intro _ _ _ | intro _ _ | split)

theorem performEnding_ev {s0 s : State} {r} (h : Evolves qt false s0 s) : Evolves qt false s0 (performEnding r s).1 := by
  unfold performEnding
  repeat' with_reducible (first
    | exact h | assumption | (refine finishLoad_ev' ?_ (by assumption)) | apply finishLoad_ev | apply writeHost_ev
    | (refine applyRegion_ev' ?_ (by assumption)) | apply applyRegion_ev | (refine stageImage_ev' ?_ (by assumption))
    | apply stageImage_ev | apply ite_ev | exact MailboxKeeps.same rfl rfl | exact rfl | exact TrustKeeps.refl _
    | exact StacksKeep.refl _ | exact same9 | exact lmap_length .. | exact List.length_map .. | exact List.length_modify ..
    | split)
theorem performEnding_ev' {s0 s : State} {r} {o1 o2} (h : Evolves qt false s0 s) (e : performEnding r s = (o1, o2)) : Evolves qt false s0 o1 := by
  have := performEnding_ev (s0 := s0) (r := r) (s := s) h
  rw [e] at this
  exact this

theorem completeRunning_ev {s0 s : State} {r status} (h : Evolves qt bt s0 s) : Evolves qt bt s0 (completeRunning r status s) := by
  unfold completeRunning
  repeat' with_reducible (first
    | exact h | assumption | apply setMailbox_ev | apply updateEntry_ev | apply putCompletion_ev | apply ite_ev
    | exact ⟨fun h => Memory.wf_write _ _ h, id⟩ | exact ⟨fun h => Memory.wf_zero_all _ h, id⟩ | exact MailboxKeeps.same rfl rfl)

theorem foreignWrite_ev {s0 s : State} (h : Evolves qt bt s0 s) : Evolves qt bt s0 (foreignWrite s) := by
  unfold foreignWrite
  repeat' with_reducible (first | exact h | assumption | apply bump_ev)

theorem touchZero_ev {s0 s : State} {who} (h : Evolves qt bt s0 s) : Evolves qt bt s0 (touchZero who s) := by
  unfold touchZero
  repeat' with_reducible (first
    | exact h | assumption | apply setMailbox_ev | apply ite_ev | exact ⟨fun h => Memory.wf_write _ _ h, id⟩
    | exact ⟨fun h => Memory.wf_zero_all _ h, id⟩ | exact MailboxKeeps.same rfl rfl)

theorem activatePair_ev {s0 s : State} {n who} (h : Evolves qt bt s0 s) : Evolves qt bt s0 (activatePair n who s) := by
  unfold activatePair
  repeat' with_reducible (first
    | exact h | assumption | apply setPair_ev | apply ringError_ev | apply setMailbox_ev | apply ite_ev | apply foldl_ev
    | apply foldl1_ev | apply foldl2_ev | apply foldl22_ev | exact ⟨fun h => Memory.wf_write _ _ h, id⟩
    | exact ⟨fun h => Memory.wf_zero_all _ h, id⟩ | exact MailboxKeeps.same rfl rfl)

theorem enablePair_ev {s0 s : State} {n who} (h : Evolves qt bt s0 s) : Evolves qt bt s0 (enablePair n who s) := by
  unfold enablePair
  repeat' with_reducible (first
    | exact h | assumption | apply activatePair_ev | apply setPair_ev | apply ringError_ev | apply ite_ev)

theorem disablePair_ev {s0 s : State} {n} (h : Evolves qt bt s0 s) : Evolves qt bt s0 (disablePair n s) := by
  unfold disablePair
  repeat' with_reducible (first
    | exact h | assumption | apply stopPair_ev | apply setMailbox_ev | apply ite_ev | exact ⟨fun h => Memory.wf_write _ _ h, id⟩
    | exact ⟨fun h => Memory.wf_zero_all _ h, id⟩ | exact MailboxKeeps.same rfl rfl)

theorem writeCtl_ev {s0 s : State} {n who value} (h : Evolves qt bt s0 s) : Evolves qt bt s0 (writeCtl n who value s) := by
  unfold writeCtl
  repeat' with_reducible (first
    | exact h | assumption | apply foreignWrite_ev | apply setPair_ev | apply enablePair_ev | apply disablePair_ev | apply ite_ev)

theorem writeCmdDoorbell_ev {s0 s : State} {n value} (h : Evolves qt bt s0 s) : Evolves qt bt s0 (writeCmdDoorbell n value s) := by
  unfold writeCmdDoorbell
  repeat' with_reducible (first | exact h | assumption | apply ringError_ev | apply setPair_ev | apply ite_ev)

theorem writeCmpDoorbell_ev {s0 s : State} {n value} (h : Evolves qt bt s0 s) : Evolves qt bt s0 (writeCmpDoorbell n value s) := by
  unfold writeCmpDoorbell
  repeat' with_reducible (first | exact h | assumption | apply setPair_ev | apply ite_ev)

theorem writePlain_ev {s0 s : State} {n f} (h : Evolves qt bt s0 s) : Evolves qt bt s0 (writePlain n f s) := by
  unfold writePlain
  repeat' with_reducible (first | exact h | assumption | apply foreignWrite_ev | apply setPair_ev | apply ite_ev)

theorem writeRegister_ev {s0 s : State} {who offset value} (h : Evolves qt bt s0 s) : Evolves qt bt s0 (writeRegister who offset value s) := by
  unfold writeRegister
  repeat' with_reducible (first
    | exact h | assumption | apply touchZero_ev | apply foreignWrite_ev | apply disablePair_ev | apply writeCtl_ev
    | apply writePlain_ev | apply writeCmdDoorbell_ev | apply writeCmpDoorbell_ev | apply ite_ev
    | exact MailboxKeeps.same rfl rfl | exact rfl | exact TrustKeeps.refl _ | exact StacksKeep.refl _ | exact same9
    | exact lmap_length .. | exact List.length_map .. | exact List.length_modify .. | intro _ _ _ | intro _ _ | split)

theorem writeRing_ev {s0 s : State} {who offset bs} (h : Evolves qt bt s0 s) : Evolves qt bt s0 (writeRing who offset bs s) := by
  unfold writeRing
  repeat' with_reducible (first
    | exact h | assumption | apply touchZero_ev | apply foreignWrite_ev | apply setMailbox_ev | apply ite_ev
    | exact ⟨fun h => Memory.wf_write _ _ h, id⟩)

theorem pairWrite_ev {s0 s : State} {a pair r value} (h : Evolves qt bt s0 s) : Evolves qt bt s0 (pairWrite a pair r value s) := by
  unfold pairWrite
  repeat' with_reducible (first | exact h | assumption | apply writeRegister_ev | apply ite_ev)

theorem mdTake_ev {s0 s : State} {p effect} (h : Evolves qt bt s0 s) (hw : ∀ x s, Evolves qt bt s0 s → Evolves qt bt s0 (effect x s)) : Evolves qt bt s0 (mdTake p effect s) := by
  unfold mdTake
  repeat' with_reducible (first
    | exact h | assumption | apply hw | apply oweEcho_ev | apply bump_ev | apply ite_ev | exact MailboxKeeps.same rfl rfl
    | exact rfl | exact TrustKeeps.refl _ | exact StacksKeep.refl _ | exact same9 | exact lmap_length ..
    | exact List.length_map .. | exact List.length_modify .. | split | dsimp only
    | refine Evolves.update ?_ ?_ ?_ ?_ ?_ ?_ ?_ ?_ ?_ ?_ ?_ ?_)

theorem noteInBandPort_ev {s0 s : State} {rx} (h : Evolves qt bt s0 s) : Evolves qt bt s0 (noteInBandPort rx s) := by
  unfold noteInBandPort
  repeat' with_reducible (first
    | exact h | assumption | apply setMailbox_ev | apply ite_ev | exact ⟨fun h => Memory.wf_write _ _ h, id⟩
    | exact ⟨fun h => Memory.wf_zero_all _ h, id⟩ | exact MailboxKeeps.same rfl rfl)

theorem takeCommandFrame_ev {s0 s : State} {rx} (h : Evolves qt bt s0 s) : Evolves qt bt s0 (takeCommandFrame rx s) := by
  unfold takeCommandFrame
  repeat' with_reducible (first
    | exact h | assumption | apply foreignWrite_ev | apply bump_ev | apply noteInBandPort_ev | apply setMailbox_ev
    | apply setPair_ev | apply ite_ev | exact ⟨fun h => Memory.wf_write _ _ h, id⟩)

theorem regWrite_ev {s0 s : State} {f} (h : Evolves qt bt s0 s) : Evolves qt bt s0 (regWrite f s) := by
  unfold regWrite
  repeat' with_reducible (first
    | exact h | assumption | apply forEach_ev | apply writeRing_ev | apply writeRegister_ev | apply ite_ev | intro _ _ _)

theorem setStreamAt_ev {s0 s : State} {tb n f} (h : Evolves false bt s0 s) : Evolves false bt s0 (setStreamAt tb n f s) := by
  unfold setStreamAt
  repeat' with_reducible (first | exact h | assumption | apply setTimebase_ev)

theorem fireMember_ev {s0 s : State} {a admits t entry port first} (h : Evolves qt false s0 s) : Evolves qt false s0 (fireMember a admits t entry port first s) := by
  unfold fireMember
  repeat' with_reducible (first
    | exact h | assumption | apply yieldEvent_ev | apply setTraverse_ev | apply forEach_ev | apply layerRequest_ev | apply ite_ev
    | apply foldl_ev | apply foldl1_ev | apply foldl2_ev | apply foldl22_ev | exact MailboxKeeps.same rfl rfl | exact rfl
    | exact TrustKeeps.refl _ | exact StacksKeep.refl _ | exact same9 | exact lmap_length .. | exact List.length_map ..
    | exact List.length_modify .. | intro _ _ _ | intro _ _ | split)

theorem firePrefetch_ev {s0 s : State} {t k backward layers layer} (h : Evolves qt false s0 s) : Evolves qt false s0 (firePrefetch t k backward layers layer s) := by
  unfold firePrefetch
  repeat' with_reducible (first
    | exact h | assumption | apply layerRequest_ev | apply bump_ev | apply ite_ev | exact MailboxKeeps.same rfl rfl | exact rfl
    | exact TrustKeeps.refl _ | exact StacksKeep.refl _ | exact same9 | exact lmap_length .. | exact List.length_map ..
    | exact List.length_modify .. | intro _ _ _ | intro _ _ | split)

theorem fireHandover_ev {s0 s : State} {slot cmdSeq c} (h : Evolves qt bt s0 s) : Evolves qt bt s0 (fireHandover slot cmdSeq c s) := by
  unfold fireHandover
  repeat' with_reducible (first
    | exact h | assumption | apply ite_ev | exact MailboxKeeps.same rfl rfl | exact rfl | exact TrustKeeps.refl _
    | exact StacksKeep.refl _ | exact same9 | exact lmap_length .. | exact List.length_map .. | exact List.length_modify ..
    | split | dsimp only | refine Evolves.update ?_ ?_ ?_ ?_ ?_ ?_ ?_ ?_ ?_ ?_ ?_ ?_)

theorem performAction_ev {s0 s : State} {a c} (h : Evolves qt false s0 s) : Evolves qt false s0 (performAction a c s) := by
  unfold performAction
  repeat' with_reducible (first
    | exact h | assumption | apply selectPlat_ev | apply fireMember_ev | apply forEach_ev | apply exitIfDeep_ev
    | apply firePrefetch_ev | (refine startPoolAudit_ev' ?_ (by assumption)) | (refine startLedgerAudit_ev' ?_ (by assumption))
    | apply fireHandover_ev | apply ite_ev | apply getD_ev | (rename_i e; split at e) | intro _ _ _ | intro _ _ | split)

theorem fireAction_ev {s0 s : State} {m c a} (h : Evolves qt false s0 s) : Evolves qt false s0 (fireAction m c a s) := by
  unfold fireAction
  repeat' with_reducible (first
    | exact h | assumption | apply dropAction_ev | apply bump_ev | apply performAction_ev | apply ite_ev
    | exact MailboxKeeps.same rfl rfl | exact rfl | exact TrustKeeps.refl _ | exact StacksKeep.refl _ | exact same9
    | exact lmap_length .. | exact List.length_map .. | exact List.length_modify .. | intro _ _ _ | intro _ _ | split
    | dsimp only | refine Evolves.update ?_ ?_ ?_ ?_ ?_ ?_ ?_ ?_ ?_ ?_ ?_ ?_)

theorem holdActions_ev {s0 s : State} {n m c} (h : Evolves qt bt s0 s) : Evolves qt bt s0 (holdActions n m c s) := by
  unfold holdActions
  repeat' with_reducible (first
    | exact h | assumption | exact MailboxKeeps.same rfl rfl | exact rfl | exact TrustKeeps.refl _ | exact StacksKeep.refl _
    | exact same9 | exact lmap_length .. | exact List.length_map .. | exact List.length_modify .. | intro _ _ _ | intro _ _
    | dsimp only | refine Evolves.update ?_ ?_ ?_ ?_ ?_ ?_ ?_ ?_ ?_ ?_ ?_ ?_)

theorem issueHeld_ev {s0 s : State} (h : Evolves qt false s0 s) : Evolves qt false s0 (issueHeld s) := by
  unfold issueHeld
  repeat' with_reducible (first
    | exact h | assumption | apply forEach_ev | apply fireAction_ev | exact MailboxKeeps.same rfl rfl | exact rfl
    | exact TrustKeeps.refl _ | exact StacksKeep.refl _ | exact same9 | exact lmap_length .. | exact List.length_map ..
    | exact List.length_modify .. | intro _ _ _ | intro _ _ | split | dsimp only
    | refine Evolves.update ?_ ?_ ?_ ?_ ?_ ?_ ?_ ?_ ?_ ?_ ?_ ?_)

theorem sendNack_ev {s0 s : State} {tb n flow} (h : Evolves false bt s0 s) : Evolves false bt s0 (sendNack tb n flow s) := by
  unfold sendNack
  repeat' with_reducible (first | exact h | assumption | apply stageFrame_ev | apply setStream_ev | apply ite_ev)

theorem meetMark_ev {s0 s : State} {tb n flow source c m} (h : Evolves false false s0 s) : Evolves false false s0 (meetMark tb n flow source c m s) := by
  unfold meetMark
  repeat' with_reducible (first
    | exact h | assumption | apply setStreamAt_ev | apply holdActions_ev | apply sendNack_ev | apply stationEvent_ev
    | apply forEach_ev | apply fireAction_ev | apply ite_ev | exact MailboxKeeps.same rfl rfl | exact rfl
    | exact TrustKeeps.refl _ | exact StacksKeep.refl _ | exact off
    | exact TrustKeeps.same rfl rfl rfl rfl rfl rfl rfl rfl rfl id
    | exact TrustKeeps.wiped rfl rfl rfl rfl rfl rfl rfl rfl rfl id | exact commitImage_keeps _ _ | exact returned_keeps _
    | exact wdogMgmt_keeps _ | exact wdogSeq_keeps _ | exact wdogLane_keeps _ | exact wdogTb_keeps _ | exact lcErr_keeps _
    | exact lmap_length .. | exact List.length_map .. | exact List.length_modify .. | intro _ _ _ | intro _ _ | split
    | dsimp only | refine Evolves.update ?_ ?_ ?_ ?_ ?_ ?_ ?_ ?_ ?_ ?_ ?_ ?_)

theorem pinWord_ev {s0 s : State} {tb w} (h : Evolves false false s0 s) : Evolves false false s0 (pinWord tb w s) := by
  unfold pinWord
  repeat' with_reducible (first
    | exact h | assumption | apply meetMark_ev | apply setStreamAt_ev | apply ite_ev | exact MailboxKeeps.same rfl rfl
    | exact rfl | exact TrustKeeps.refl _ | exact StacksKeep.refl _ | exact off
    | exact TrustKeeps.same rfl rfl rfl rfl rfl rfl rfl rfl rfl id
    | exact TrustKeeps.wiped rfl rfl rfl rfl rfl rfl rfl rfl rfl id | exact commitImage_keeps _ _ | exact returned_keeps _
    | exact wdogMgmt_keeps _ | exact wdogSeq_keeps _ | exact wdogLane_keeps _ | exact wdogTb_keeps _ | exact lcErr_keeps _
    | exact lmap_length .. | exact List.length_map .. | exact List.length_modify .. | intro _ _ _ | intro _ _ | split)

theorem syncReplica_ev {s0 s : State} (h : Evolves false bt s0 s) : Evolves false bt s0 (syncReplica s) := by
  unfold syncReplica
  repeat' with_reducible (first
    | exact h | assumption | apply setStreamAt_ev | apply bump_ev | apply ite_ev | apply getD_ev
    | exact MailboxKeeps.same rfl rfl | exact rfl | exact TrustKeeps.refl _ | exact StacksKeep.refl _ | exact off
    | exact TrustKeeps.same rfl rfl rfl rfl rfl rfl rfl rfl rfl id
    | exact TrustKeeps.wiped rfl rfl rfl rfl rfl rfl rfl rfl rfl id | exact commitImage_keeps _ _ | exact returned_keeps _
    | exact wdogMgmt_keeps _ | exact wdogSeq_keeps _ | exact wdogLane_keeps _ | exact wdogTb_keeps _ | exact lcErr_keeps _
    | exact lmap_length .. | exact List.length_map .. | exact List.length_modify .. | intro _ _ _ | intro _ _ | split
    | dsimp only | refine Evolves.update ?_ ?_ ?_ ?_ ?_ ?_ ?_ ?_ ?_ ?_ ?_ ?_)

theorem unsetStream_ev {s0 s : State} {n} (h : Evolves false bt s0 s) : Evolves false bt s0 (unsetStream n s) := by
  unfold unsetStream
  repeat' with_reducible (first
    | exact h | assumption | apply renewStream_ev | apply setStream_ev | apply forEach_ev | apply exitIfDeep_ev
    | apply stationEvent_ev | apply ite_ev | exact MailboxKeeps.same rfl rfl | exact rfl | exact TrustKeeps.refl _
    | exact StacksKeep.refl _ | exact off | exact TrustKeeps.same rfl rfl rfl rfl rfl rfl rfl rfl rfl id
    | exact TrustKeeps.wiped rfl rfl rfl rfl rfl rfl rfl rfl rfl id | exact commitImage_keeps _ _ | exact returned_keeps _
    | exact wdogMgmt_keeps _ | exact wdogSeq_keeps _ | exact wdogLane_keeps _ | exact wdogTb_keeps _ | exact lcErr_keeps _
    | exact lmap_length .. | exact List.length_map .. | exact List.length_modify .. | intro _ _ _)

theorem loseReplica_ev {s0 s : State} {n bad} (h : Evolves false bt s0 s) : Evolves false bt s0 (loseReplica n bad s) := by
  unfold loseReplica
  repeat' with_reducible (first
    | exact h | assumption | apply unsetStream_ev | apply setStreamAt_ev | apply bump_ev | apply ite_ev | apply getD_ev
    | exact MailboxKeeps.same rfl rfl | exact rfl | exact TrustKeeps.refl _ | exact StacksKeep.refl _
    | exact off | exact TrustKeeps.same rfl rfl rfl rfl rfl rfl rfl rfl rfl id
    | exact TrustKeeps.wiped rfl rfl rfl rfl rfl rfl rfl rfl rfl id | exact commitImage_keeps _ _ | exact returned_keeps _
    | exact wdogMgmt_keeps _ | exact wdogSeq_keeps _ | exact wdogLane_keeps _ | exact wdogTb_keeps _ | exact lcErr_keeps _
    | exact lmap_length .. | exact List.length_map .. | exact List.length_modify .. | intro _ _ _ | intro _ _ | split
    | dsimp only)

theorem switchSlot_ev {s0 s : State} {slotB} (h : Evolves false bt s0 s) : Evolves false bt s0 (switchSlot slotB s) := by
  unfold switchSlot
  repeat' with_reducible (first
    | exact h | assumption | exact MailboxKeeps.same rfl rfl | exact rfl | exact TrustKeeps.refl _ | exact StacksKeep.refl _
    | exact off | exact TrustKeeps.same rfl rfl rfl rfl rfl rfl rfl rfl rfl id
    | exact TrustKeeps.wiped rfl rfl rfl rfl rfl rfl rfl rfl rfl id | exact commitImage_keeps _ _ | exact returned_keeps _
    | exact wdogMgmt_keeps _ | exact wdogSeq_keeps _ | exact wdogLane_keeps _ | exact wdogTb_keeps _ | exact lcErr_keeps _
    | exact lmap_length .. | exact List.length_map .. | exact List.length_modify .. | dsimp only
    | refine Evolves.update ?_ ?_ ?_ ?_ ?_ ?_ ?_ ?_ ?_ ?_ ?_ ?_)

theorem passActive_ev {s0 s : State} {tb} (h : Evolves false false s0 s) : Evolves false false s0 (passActive tb s) := by
  unfold passActive
  repeat' with_reducible (first
    | exact h | assumption | apply issueHeld_ev | apply ite_ev | apply getD_ev
    | exact MailboxKeeps.same rfl rfl | exact rfl | exact TrustKeeps.refl _ | exact StacksKeep.refl _ | exact off
    | exact TrustKeeps.same rfl rfl rfl rfl rfl rfl rfl rfl rfl id
    | exact TrustKeeps.wiped rfl rfl rfl rfl rfl rfl rfl rfl rfl id | exact commitImage_keeps _ _ | exact returned_keeps _
    | exact wdogMgmt_keeps _ | exact wdogSeq_keeps _ | exact wdogLane_keeps _ | exact wdogTb_keeps _ | exact lcErr_keeps _
    | exact lmap_length .. | exact List.length_map .. | exact List.length_modify .. | split
    | refine Evolves.update ?_ ?_ ?_ ?_ ?_ ?_ ?_ ?_ ?_ ?_ ?_ ?_)

theorem endHandover_ev {s0 s : State} {since cmdSeq slot die} (h : Evolves false false s0 s) : Evolves false false s0 (endHandover since cmdSeq slot die s) := by
  unfold endHandover
  repeat' with_reducible (first
    | exact h | assumption | apply switchSlot_ev | apply passActive_ev | apply journalEvent_ev | apply forEach_ev
    | apply postEvent_ev | apply postFirmware_ev | apply ite_ev | apply getD_ev
    | exact MailboxKeeps.same rfl rfl | exact rfl | exact TrustKeeps.refl _ | exact StacksKeep.refl _ | exact off
    | exact TrustKeeps.same rfl rfl rfl rfl rfl rfl rfl rfl rfl id
    | exact TrustKeeps.wiped rfl rfl rfl rfl rfl rfl rfl rfl rfl id | exact commitImage_keeps _ _ | exact returned_keeps _
    | exact wdogMgmt_keeps _ | exact wdogSeq_keeps _ | exact wdogLane_keeps _ | exact wdogTb_keeps _ | exact lcErr_keeps _
    | exact lmap_length .. | exact List.length_map .. | exact List.length_modify .. | intro _ _ _ | intro _ _ | split
    | dsimp only | refine Evolves.update ?_ ?_ ?_ ?_ ?_ ?_ ?_ ?_ ?_ ?_ ?_ ?_)

theorem clearPart_ev {s0 s : State} (h : Evolves false false s0 s) : Evolves false false s0 (clearPart s) := by
  refine h.trans ⟨rfl, ?_, ⟨rfl, rfl, rfl, rfl, Nat.le_refl _, BitVec.and_self, Nat.le_refl _, fun _ => rfl, id⟩, nofun, nofun⟩
  rw [inv_iff, inv_iff]
  rintro ⟨_, _, c⟩
  refine ⟨⟨rfl, rfl⟩, ⟨rfl, rfl, rfl, rfl, rfl, rfl, rfl, rfl, rfl⟩, ?_⟩
  revert c
  show s.trust.inBounds = true → Trust.inBounds { s.trust with lcErr := 0, wdogMgmt := 0, wdogSeq := 0, wdogLane := 0, wdogTb := 0, deadman := false, refclkLost := false } = true
  simp only [Trust.inBounds, Bool.and_eq_true, decide_eq_true_eq]
  omega

theorem failClosed_ev {s0 s : State} {code} (h : Evolves false false s0 s) : Evolves false false s0 (failClosed code s) := by
  unfold failClosed
  repeat' with_reducible (first
    | exact h | assumption | apply clearPart_ev | exact MailboxKeeps.same rfl rfl | exact rfl | exact TrustKeeps.refl _
    | exact StacksKeep.refl _ | exact off | exact TrustKeeps.same rfl rfl rfl rfl rfl rfl rfl rfl rfl id
    | exact TrustKeeps.wiped rfl rfl rfl rfl rfl rfl rfl rfl rfl id | exact commitImage_keeps _ _ | exact returned_keeps _
    | exact wdogMgmt_keeps _ | exact wdogSeq_keeps _ | exact wdogLane_keeps _ | exact wdogTb_keeps _ | exact lcErr_keeps _
    | exact lmap_length .. | exact List.length_map .. | exact List.length_modify .. | dsimp only
    | refine Evolves.update ?_ ?_ ?_ ?_ ?_ ?_ ?_ ?_ ?_ ?_ ?_ ?_)

theorem setRail_ev {s0 s : State} {r f} (h : Evolves false bt s0 s) : Evolves false bt s0 (State.setRail r f s) := by
  unfold State.setRail
  repeat' with_reducible (first
    | exact h | assumption | exact MailboxKeeps.same rfl rfl | exact rfl | exact TrustKeeps.refl _ | exact StacksKeep.refl _
    | exact off | exact TrustKeeps.same rfl rfl rfl rfl rfl rfl rfl rfl rfl id
    | exact TrustKeeps.wiped rfl rfl rfl rfl rfl rfl rfl rfl rfl id | exact commitImage_keeps _ _ | exact returned_keeps _
    | exact wdogMgmt_keeps _ | exact wdogSeq_keeps _ | exact wdogLane_keeps _ | exact wdogTb_keeps _ | exact lcErr_keeps _
    | exact lmap_length .. | exact List.length_map .. | exact List.length_modify ..
    | refine Evolves.update ?_ ?_ ?_ ?_ ?_ ?_ ?_ ?_ ?_ ?_ ?_ ?_)

theorem enterFault_ev {s0 s : State} {kind rail} (h : Evolves false false s0 s) : Evolves false false s0 (enterFault kind rail s) := by
  unfold enterFault
  repeat' with_reducible (first
    | exact h | assumption | apply clearPart_ev | apply ite_ev | exact MailboxKeeps.same rfl rfl | exact rfl
    | exact TrustKeeps.refl _ | exact StacksKeep.refl _ | exact off
    | exact TrustKeeps.same rfl rfl rfl rfl rfl rfl rfl rfl rfl id
    | exact TrustKeeps.wiped rfl rfl rfl rfl rfl rfl rfl rfl rfl id | exact commitImage_keeps _ _ | exact returned_keeps _
    | exact wdogMgmt_keeps _ | exact wdogSeq_keeps _ | exact wdogLane_keeps _ | exact wdogTb_keeps _ | exact lcErr_keeps _
    | exact lmap_length .. | exact List.length_map .. | exact List.length_modify .. | split | dsimp only
    | refine Evolves.update ?_ ?_ ?_ ?_ ?_ ?_ ?_ ?_ ?_ ?_ ?_ ?_)

theorem settleRails_ev {s0 s : State} (h : Evolves false bt s0 s) : Evolves false bt s0 (settleRails s) := by
  unfold settleRails
  repeat' with_reducible (first
    | exact h | assumption | apply ite_ev | exact MailboxKeeps.same rfl rfl | exact rfl | exact TrustKeeps.refl _
    | exact StacksKeep.refl _ | exact off | exact TrustKeeps.same rfl rfl rfl rfl rfl rfl rfl rfl rfl id
    | exact TrustKeeps.wiped rfl rfl rfl rfl rfl rfl rfl rfl rfl id | exact commitImage_keeps _ _ | exact returned_keeps _
    | exact wdogMgmt_keeps _ | exact wdogSeq_keeps _ | exact wdogLane_keeps _ | exact wdogTb_keeps _ | exact lcErr_keeps _
    | exact lmap_length .. | exact List.length_map .. | exact List.length_modify .. | split | dsimp only
    | refine Evolves.update ?_ ?_ ?_ ?_ ?_ ?_ ?_ ?_ ?_ ?_ ?_ ?_)

theorem riseTen_ev {s0 s : State} {r} (h : Evolves false false s0 s) : Evolves false false s0 (riseTen r s) := by
  unfold riseTen
  repeat' with_reducible (first | exact h | assumption | apply setRail_ev | apply enterFault_ev | apply ite_ev)

theorem riseNinety_ev {s0 s : State} {r} (h : Evolves false false s0 s) : Evolves false false s0 (riseNinety r s) := by
  unfold riseNinety
  repeat' with_reducible (first | exact h | assumption | apply setRail_ev | apply enterFault_ev | apply ite_ev)

theorem fallNinety_ev {s0 s : State} {r} (h : Evolves false false s0 s) : Evolves false false s0 (fallNinety r s) := by
  unfold fallNinety
  repeat' with_reducible (first | exact h | assumption | apply setRail_ev | apply enterFault_ev | apply ite_ev)

theorem loseAon_ev {s0 s : State} (h : Evolves false false s0 s) : Evolves false false s0 (loseAon s) := by
  unfold loseAon
  repeat' with_reducible (first
    | exact h | assumption | apply clearPart_ev | exact MailboxKeeps.same rfl rfl | exact rfl | exact TrustKeeps.refl _
    | exact StacksKeep.refl _ | exact off | exact TrustKeeps.same rfl rfl rfl rfl rfl rfl rfl rfl rfl id
    | exact TrustKeeps.wiped rfl rfl rfl rfl rfl rfl rfl rfl rfl id | exact commitImage_keeps _ _ | exact returned_keeps _
    | exact wdogMgmt_keeps _ | exact wdogSeq_keeps _ | exact wdogLane_keeps _ | exact wdogTb_keeps _ | exact lcErr_keeps _
    | exact lmap_length .. | exact List.length_map .. | exact List.length_modify .. | dsimp only
    | refine Evolves.update ?_ ?_ ?_ ?_ ?_ ?_ ?_ ?_ ?_ ?_ ?_ ?_)

theorem fallTen_ev {s0 s : State} {r} (h : Evolves false false s0 s) : Evolves false false s0 (fallTen r s) := by
  unfold fallTen
  repeat' with_reducible (first
    | exact h | assumption | apply setRail_ev | apply loseAon_ev | apply ite_ev | exact MailboxKeeps.same rfl rfl | exact rfl
    | exact TrustKeeps.refl _ | exact StacksKeep.refl _ | exact off
    | exact TrustKeeps.same rfl rfl rfl rfl rfl rfl rfl rfl rfl id
    | exact TrustKeeps.wiped rfl rfl rfl rfl rfl rfl rfl rfl rfl id | exact commitImage_keeps _ _ | exact returned_keeps _
    | exact wdogMgmt_keeps _ | exact wdogSeq_keeps _ | exact wdogLane_keeps _ | exact wdogTb_keeps _ | exact lcErr_keeps _
    | exact lmap_length .. | exact List.length_map .. | exact List.length_modify .. | intro _ _ _ | intro _ _ | split
    | dsimp only | refine Evolves.update ?_ ?_ ?_ ?_ ?_ ?_ ?_ ?_ ?_ ?_ ?_ ?_)

theorem outside_ev {s0 s : State} {kind r} (h : Evolves false false s0 s) : Evolves false false s0 (outside kind r s) := by
  unfold outside
  repeat' with_reducible (first | exact h | assumption | apply setRail_ev | apply enterFault_ev | apply ite_ev)

theorem unwatched_ev {s0 s : State} {r event} (h : Evolves false bt s0 s) : Evolves false bt s0 (unwatched r event s) := by
  unfold unwatched
  repeat' with_reducible (first | exact h | assumption | apply setRail_ev | apply ite_ev)

theorem announceIdle_ev {s0 s : State} {before} (h : Evolves qt bt s0 s) : Evolves qt bt s0 (announceIdle before s) := by
  unfold announceIdle
  repeat' with_reducible (first
    | exact h | assumption | apply forEach_ev | apply setLink_ev | exact MailboxKeeps.same rfl rfl | exact rfl
    | exact TrustKeeps.refl _ | exact StacksKeep.refl _ | exact same9 | exact lmap_length .. | exact List.length_map ..
    | exact List.length_modify .. | intro _ _ _)

theorem finishWipe_ev {s0 s : State} (h : Evolves false bt s0 s) : Evolves false bt s0 (finishWipe s).1 := by
  unfold finishWipe
  repeat' with_reducible (first
    | exact h | assumption | apply draw_ev | apply ite_ev | exact MailboxKeeps.same rfl rfl | exact rfl | exact TrustKeeps.refl _
    | exact StacksKeep.refl _ | exact off | exact TrustKeeps.same rfl rfl rfl rfl rfl rfl rfl rfl rfl id
    | exact TrustKeeps.wiped rfl rfl rfl rfl rfl rfl rfl rfl rfl id | exact commitImage_keeps _ _ | exact returned_keeps _
    | exact wdogMgmt_keeps _ | exact wdogSeq_keeps _ | exact wdogLane_keeps _ | exact wdogTb_keeps _ | exact lcErr_keeps _
    | exact lmap_length .. | exact List.length_map .. | exact List.length_modify .. | split | dsimp only
    | refine Evolves.update ?_ ?_ ?_ ?_ ?_ ?_ ?_ ?_ ?_ ?_ ?_ ?_)
theorem finishWipe_ev' {s0 s : State} {o1 o2} (h : Evolves false bt s0 s) (e : finishWipe s = (o1, o2)) : Evolves false bt s0 o1 := by
  have := finishWipe_ev (s0 := s0) (s := s) h
  rw [e] at this
  exact this

theorem giveIdentity_ev {s0 s : State} (h : Evolves false bt s0 s) : Evolves false bt s0 (giveIdentity s) := by
  unfold giveIdentity
  repeat' with_reducible (first
    | exact h | assumption | apply draw_ev | apply ite_ev | exact MailboxKeeps.same rfl rfl | exact rfl | exact TrustKeeps.refl _
    | exact StacksKeep.refl _ | exact off | exact TrustKeeps.same rfl rfl rfl rfl rfl rfl rfl rfl rfl id
    | exact TrustKeeps.wiped rfl rfl rfl rfl rfl rfl rfl rfl rfl id | exact commitImage_keeps _ _ | exact returned_keeps _
    | exact wdogMgmt_keeps _ | exact wdogSeq_keeps _ | exact wdogLane_keeps _ | exact wdogTb_keeps _ | exact lcErr_keeps _
    | exact lmap_length .. | exact List.length_map .. | exact List.length_modify .. | split
    | refine Evolves.update ?_ ?_ ?_ ?_ ?_ ?_ ?_ ?_ ?_ ?_ ?_ ?_)

theorem applyTests_ev {s0 s : State} {r} (h : Evolves false bt s0 s) : Evolves false bt s0 (applyTests r s) := by
  unfold applyTests
  repeat' with_reducible (first
    | exact h | assumption | apply setXbar_ev | apply forEach_ev | apply setStack_ev | apply setDie_ev | apply ite_ev
    | apply getD_ev | exact fun _ => addErrors_keeps
    | exact fun _ => ⟨fun h => Memory.wf_write _ _ h, off⟩ | exact fun _ => ⟨id, fun _ => rfl⟩ | exact fun _ => touchChecks_keeps
    | exact fun _ => findFailing_keeps | exact fun _ => flushChecks_keeps | exact MailboxKeeps.same rfl rfl | exact rfl
    | exact TrustKeeps.refl _ | exact StacksKeep.refl _ | exact off
    | exact TrustKeeps.same rfl rfl rfl rfl rfl rfl rfl rfl rfl id
    | exact TrustKeeps.wiped rfl rfl rfl rfl rfl rfl rfl rfl rfl id | exact commitImage_keeps _ _ | exact returned_keeps _
    | exact wdogMgmt_keeps _ | exact wdogSeq_keeps _ | exact wdogLane_keeps _ | exact wdogTb_keeps _ | exact lcErr_keeps _
    | exact lmap_length .. | exact List.length_map .. | exact List.length_modify .. | intro _ _ _ | intro _ _ | split
    | dsimp only | refine Evolves.update ?_ ?_ ?_ ?_ ?_ ?_ ?_ ?_ ?_ ?_ ?_ ?_)

theorem bootFails_ev {s0 s : State} {code} (h : Evolves qt bt s0 s) : Evolves qt bt s0 (bootFails code s) := by
  unfold bootFails
  repeat' with_reducible (first
    | exact h | assumption | exact MailboxKeeps.same rfl rfl | exact rfl | exact TrustKeeps.refl _ | exact StacksKeep.refl _
    | exact same9 | exact lmap_length .. | exact List.length_map .. | exact List.length_modify ..
    | refine Evolves.update ?_ ?_ ?_ ?_ ?_ ?_ ?_ ?_ ?_ ?_ ?_ ?_)

theorem noteCode_ev {s0 s : State} {slotB code} (h : Evolves qt bt s0 s) : Evolves qt bt s0 (noteCode slotB code s) := by
  unfold noteCode
  repeat' with_reducible (first
    | exact h | assumption | apply ite_ev | exact MailboxKeeps.same rfl rfl | exact rfl | exact TrustKeeps.refl _
    | exact StacksKeep.refl _ | exact same9 | exact lmap_length .. | exact List.length_map .. | exact List.length_modify ..
    | split | refine Evolves.update ?_ ?_ ?_ ?_ ?_ ?_ ?_ ?_ ?_ ?_ ?_ ?_)

theorem startFirmware_ev {s0 s : State} {slotB} (h : Evolves qt bt s0 s) : Evolves qt bt s0 (startFirmware slotB s) := by
  unfold startFirmware
  repeat' with_reducible (first
    | exact h | assumption | apply setMailbox_ev | apply forEach_ev | apply enterIdle_ev
    | exact ⟨fun h => Memory.wf_write _ _ h, id⟩ | exact ⟨fun h => Memory.wf_zero_all _ h, id⟩ | exact MailboxKeeps.same rfl rfl
    | exact rfl | exact TrustKeeps.refl _ | exact StacksKeep.refl _ | exact same9 | exact lmap_length ..
    | exact List.length_map .. | exact List.length_modify .. | intro _ _ _ | intro _ _ | dsimp only
    | refine Evolves.update ?_ ?_ ?_ ?_ ?_ ?_ ?_ ?_ ?_ ?_ ?_ ?_)

theorem zeroSoon_ev {s0 s : State} {i} (h : Evolves qt bt s0 s) : Evolves qt bt s0 (zeroSoon i s) := by
  unfold zeroSoon
  repeat' with_reducible (first
    | exact h | assumption | apply setStack_ev | exact fun _ => addErrors_keeps
    | exact fun _ => ⟨fun h => Memory.wf_write _ _ h, off⟩ | exact fun _ => ⟨id, fun _ => rfl⟩)

theorem startInBand_ev {s0 s : State} {part port} (h : Evolves qt bt s0 s) : Evolves qt bt s0 (startInBand part port s) := by
  unfold startInBand
  repeat' with_reducible (first
    | exact h | assumption | apply draw_ev | apply activatePair_ev | apply setPair_ev | apply ite_ev)

theorem idlePort_ev {s0 s : State} {p} (h : Evolves false false s0 s) : Evolves false false s0 (idlePort p s) := by
  unfold idlePort
  repeat' with_reducible (first | exact h | assumption | apply portDown_ev | apply enterIdle_ev | apply ite_ev)

theorem stopForwarding_ev {s0 s : State} (h : Evolves false false s0 s) : Evolves false false s0 (stopForwarding s) := by
  unfold stopForwarding
  repeat' with_reducible (first
    | exact h | assumption | apply forEach_ev | apply idlePort_ev | apply setXbar_ev | exact MailboxKeeps.same rfl rfl
    | exact rfl | exact TrustKeeps.refl _ | exact StacksKeep.refl _ | exact off
    | exact TrustKeeps.same rfl rfl rfl rfl rfl rfl rfl rfl rfl id
    | exact TrustKeeps.wiped rfl rfl rfl rfl rfl rfl rfl rfl rfl id | exact commitImage_keeps _ _ | exact returned_keeps _
    | exact wdogMgmt_keeps _ | exact wdogSeq_keeps _ | exact wdogLane_keeps _ | exact wdogTb_keeps _ | exact lcErr_keeps _
    | exact lmap_length .. | exact List.length_map .. | exact List.length_modify .. | intro _ _ _)

theorem cutSending_ev {s0 s : State} {xd} (h : Evolves qt bt s0 s) : Evolves qt bt s0 (cutSending xd s) := by
  unfold cutSending
  repeat' with_reducible (first
    | exact h | assumption | apply forEach_ev | apply bump_ev | apply sendOut_ev | apply setXbar_ev | apply ite_ev
    | exact MailboxKeeps.same rfl rfl | exact rfl | exact TrustKeeps.refl _ | exact StacksKeep.refl _ | exact same9
    | exact lmap_length .. | exact List.length_map .. | exact List.length_modify .. | intro _ _ _ | intro _ _ | split)

theorem dropHeld_ev {s0 s : State} {place} (h : Evolves qt bt s0 s) : Evolves qt bt s0 (dropHeld place s) := by
  unfold dropHeld
  repeat' with_reducible (first | exact h | assumption | apply setReseq_ev | apply bumpBy_ev | apply ite_ev)

theorem emptyBuffer_ev {s0 s : State} (h : Evolves qt bt s0 s) : Evolves qt bt s0 (emptyBuffer s) := by
  unfold emptyBuffer
  repeat' with_reducible (first
    | exact h | assumption | apply forEach_ev | apply flightDown_ev | apply setXbar_ev | apply dropHeld_ev
    | exact MailboxKeeps.same rfl rfl | exact rfl | exact TrustKeeps.refl _ | exact StacksKeep.refl _ | exact same9
    | exact lmap_length .. | exact List.length_map .. | exact List.length_modify .. | intro _ _ _)

theorem failCrossbar_ev {s0 s : State} {xd} (h : Evolves false false s0 s) : Evolves false false s0 (failCrossbar xd s) := by
  unfold failCrossbar
  repeat' with_reducible (first
    | exact h | assumption | apply stopForwarding_ev | apply setXbar_ev | apply settleBroadcasts_ev | apply emptyBuffer_ev
    | apply cutSending_ev | apply forEach_ev | apply startCinit_ev | apply journalEvent_ev | apply ite_ev
    | exact MailboxKeeps.same rfl rfl | exact rfl | exact TrustKeeps.refl _ | exact StacksKeep.refl _ | exact off
    | exact TrustKeeps.same rfl rfl rfl rfl rfl rfl rfl rfl rfl id
    | exact TrustKeeps.wiped rfl rfl rfl rfl rfl rfl rfl rfl rfl id | exact commitImage_keeps _ _ | exact returned_keeps _
    | exact wdogMgmt_keeps _ | exact wdogSeq_keeps _ | exact wdogLane_keeps _ | exact wdogTb_keeps _ | exact lcErr_keeps _
    | exact lmap_length .. | exact List.length_map .. | exact List.length_modify .. | intro _ _ _)

theorem failMd_ev {s0 s : State} (h : Evolves qt bt s0 s) : Evolves qt bt s0 (failMd s) := by
  unfold failMd
  repeat' with_reducible (first
    | exact h | assumption | exact MailboxKeeps.same rfl rfl | exact rfl | exact TrustKeeps.refl _ | exact StacksKeep.refl _
    | exact same9 | exact lmap_length .. | exact List.length_map .. | exact List.length_modify ..
    | refine Evolves.update ?_ ?_ ?_ ?_ ?_ ?_ ?_ ?_ ?_ ?_ ?_ ?_)

theorem spoilHandover_ev {s0 s : State} {die} (h : Evolves qt bt s0 s) : Evolves qt bt s0 (spoilHandover die s) := by
  unfold spoilHandover
  repeat' with_reducible (first
    | exact h | assumption | apply ite_ev | exact MailboxKeeps.same rfl rfl | exact rfl | exact TrustKeeps.refl _
    | exact StacksKeep.refl _ | exact same9 | exact lmap_length .. | exact List.length_map .. | exact List.length_modify ..
    | split | refine Evolves.update ?_ ?_ ?_ ?_ ?_ ?_ ?_ ?_ ?_ ?_ ?_ ?_)

theorem mendBook_ev {s0 s : State} (h : Evolves qt bt s0 s) : Evolves qt bt s0 (mendBook s) := by
  unfold mendBook
  repeat' with_reducible (first
    | exact h | assumption | apply forEach_ev | apply ite_ev | exact MailboxKeeps.same rfl rfl | exact rfl
    | exact TrustKeeps.refl _ | exact StacksKeep.refl _ | exact same9 | exact lmap_length .. | exact List.length_map ..
    | exact List.length_modify .. | intro _ _ _ | intro _ _ | split | dsimp only
    | refine Evolves.update ?_ ?_ ?_ ?_ ?_ ?_ ?_ ?_ ?_ ?_ ?_ ?_)

theorem rewriteCompletions_ev {s0 s : State} (h : Evolves qt bt s0 s) : Evolves qt bt s0 (rewriteCompletions s) := by
  unfold rewriteCompletions
  repeat' with_reducible (first
    | exact h | assumption | apply forEach_ev | apply putCompletion_ev | apply draw_ev | apply ite_ev | intro _ _ _)

theorem restartMd_ev {s0 s : State} (h : Evolves qt bt s0 s) : Evolves qt bt s0 (restartMd s) := by
  unfold restartMd
  repeat' with_reducible (first
    | exact h | assumption | apply spoilHandover_ev | apply failMd_ev | apply setMailbox_ev | apply rewriteCompletions_ev
    | apply mendBook_ev | apply journalEvent_ev | apply postFirmware_ev | apply ite_ev
    | exact ⟨fun h => Memory.wf_write _ _ h, id⟩ | exact ⟨fun h => Memory.wf_zero_all _ h, id⟩ | exact MailboxKeeps.same rfl rfl
    | exact rfl | exact TrustKeeps.refl _ | exact StacksKeep.refl _ | exact same9 | exact lmap_length ..
    | exact List.length_map .. | exact List.length_modify .. | intro _ _ _ | intro _ _ | split | dsimp only
    | refine Evolves.update ?_ ?_ ?_ ?_ ?_ ?_ ?_ ?_ ?_ ?_ ?_ ?_)

theorem retrain_ev {s0 s : State} {p} (h : Evolves qt bt s0 s) : Evolves qt bt s0 (retrain p s) := by
  unfold retrain
  repeat' with_reducible (first | exact h | assumption | apply enterIdle_ev | apply ite_ev)

theorem stopTimebase_ev {s0 s : State} {tb} (h : Evolves false bt s0 s) : Evolves false bt s0 (stopTimebase tb s) := by
  unfold stopTimebase
  repeat' with_reducible (first | exact h | assumption | apply setTimebase_ev)

theorem withTap_ev {s0 s : State} {ir work} (h : Evolves false bt s0 s) (hw : ∀ s, Evolves false bt s0 s → Evolves false bt s0 (work s)) : Evolves false bt s0 (withTap ir work s) := by
  unfold withTap
  repeat' with_reducible (first
    | exact h | assumption | apply hw | apply ite_ev | exact MailboxKeeps.same rfl rfl | exact rfl | exact TrustKeeps.refl _
    | exact StacksKeep.refl _ | exact off | exact TrustKeeps.same rfl rfl rfl rfl rfl rfl rfl rfl rfl id
    | exact TrustKeeps.wiped rfl rfl rfl rfl rfl rfl rfl rfl rfl id | exact commitImage_keeps _ _ | exact returned_keeps _
    | exact wdogMgmt_keeps _ | exact wdogSeq_keeps _ | exact wdogLane_keeps _ | exact wdogTb_keeps _ | exact lcErr_keeps _
    | exact lmap_length .. | exact List.length_map .. | exact List.length_modify .. | split
    | refine Evolves.update ?_ ?_ ?_ ?_ ?_ ?_ ?_ ?_ ?_ ?_ ?_ ?_)

theorem shiftOut_ev {s0 s : State} {bits value} (h : Evolves false bt s0 s) : Evolves false bt s0 (shiftOut bits value s) := by
  unfold shiftOut
  repeat' with_reducible (first
    | exact h | assumption | exact MailboxKeeps.same rfl rfl | exact rfl | exact TrustKeeps.refl _ | exact StacksKeep.refl _
    | exact off | exact TrustKeeps.same rfl rfl rfl rfl rfl rfl rfl rfl rfl id
    | exact TrustKeeps.wiped rfl rfl rfl rfl rfl rfl rfl rfl rfl id | exact commitImage_keeps _ _ | exact returned_keeps _
    | exact wdogMgmt_keeps _ | exact wdogSeq_keeps _ | exact wdogLane_keeps _ | exact wdogTb_keeps _ | exact lcErr_keeps _
    | exact lmap_length .. | exact List.length_map .. | exact List.length_modify ..
    | refine Evolves.update ?_ ?_ ?_ ?_ ?_ ?_ ?_ ?_ ?_ ?_ ?_ ?_)

theorem letGo_ev {s0 s : State} (h : Evolves false bt s0 s) : Evolves false bt s0 (letGo s) := by
  unfold letGo
  repeat' with_reducible (first
    | exact h | assumption | exact MailboxKeeps.same rfl rfl | exact rfl | exact TrustKeeps.refl _ | exact StacksKeep.refl _
    | exact off | exact TrustKeeps.same rfl rfl rfl rfl rfl rfl rfl rfl rfl id
    | exact TrustKeeps.wiped rfl rfl rfl rfl rfl rfl rfl rfl rfl id | exact commitImage_keeps _ _ | exact returned_keeps _
    | exact wdogMgmt_keeps _ | exact wdogSeq_keeps _ | exact wdogLane_keeps _ | exact wdogTb_keeps _ | exact lcErr_keeps _
    | exact lmap_length .. | exact List.length_map .. | exact List.length_modify ..
    | refine Evolves.update ?_ ?_ ?_ ?_ ?_ ?_ ?_ ?_ ?_ ?_ ?_ ?_)

theorem beginWipe_ev {s0 s : State} (h : Evolves false bt s0 s) : Evolves false bt s0 (beginWipe s) := by
  unfold beginWipe
  repeat' with_reducible (first
    | exact h | assumption | (refine finishWipe_ev' ?_ (by assumption)) | apply finishWipe_ev | exact MailboxKeeps.same rfl rfl
    | exact rfl | exact TrustKeeps.refl _ | exact StacksKeep.refl _ | exact off
    | exact TrustKeeps.same rfl rfl rfl rfl rfl rfl rfl rfl rfl id
    | exact TrustKeeps.wiped rfl rfl rfl rfl rfl rfl rfl rfl rfl id | exact commitImage_keeps _ _ | exact returned_keeps _
    | exact wdogMgmt_keeps _ | exact wdogSeq_keeps _ | exact wdogLane_keeps _ | exact wdogTb_keeps _ | exact lcErr_keeps _
    | exact lmap_length .. | exact List.length_map .. | exact List.length_modify ..
    | refine Evolves.update ?_ ?_ ?_ ?_ ?_ ?_ ?_ ?_ ?_ ?_ ?_ ?_)

theorem transit_ev' {s0 s : State} {r out} (h : Evolves false bt s0 s) (e : transit r s = some out) : Evolves false bt s0 out := by
  unfold transit at e
  dsimp only at e
  split at e
  · rename_i hl _
    simp only [Option.ite_none_right_eq_some, Option.some.injEq] at e
    rw [← e.2]
    exact .update h (provisioned_keeps hl) (.refl _) (.refl _) rfl rfl rfl rfl rfl rfl rfl nofun
  · rename_i hl _
    simp only [Option.ite_none_right_eq_some, Option.some.injEq] at e
    rw [← e.2]
    exact .update h (deployed_keeps hl) (.refl _) (.refl _) rfl rfl rfl rfl rfl rfl rfl nofun
  · simp only [Option.ite_none_right_eq_some, Option.some.injEq] at e
    exact e.2 ▸ beginWipe_ev h
  · simp only [Option.ite_none_right_eq_some, Option.some.injEq] at e
    exact e.2 ▸ beginWipe_ev h
  · cases e

theorem enterDebug_ev {s0 s : State} (h : Evolves false bt s0 s) : Evolves false bt s0 (enterDebug s) := by
  unfold enterDebug
  repeat' with_reducible (first | exact h | assumption | apply settleDebug_ev | apply closeDebug_ev | apply ite_ev)

theorem onDieId_ev {s0 s : State} {d work} (h : Evolves qt bt s0 s) (hw : ∀ s, Evolves qt bt s0 s → Evolves qt bt s0 (work s)) : Evolves qt bt s0 (onDieId d work s) := by
  unfold onDieId
  repeat' with_reducible (first | exact h | assumption | apply hw | apply onGroup_ev | split)

theorem poke_ev {s0 s : State} {d a b} (h : Evolves qt bt s0 s) : Evolves qt bt s0 (poke d a b s) := by
  unfold poke
  repeat' with_reducible (first
    | exact h | assumption | exact MailboxKeeps.same rfl rfl | exact rfl | exact TrustKeeps.refl _ | exact StacksKeep.refl _
    | exact same9 | exact lmap_length .. | exact List.length_map .. | exact List.length_modify .. | intro _ _ _ | intro _ _
    | refine Evolves.update ?_ ?_ ?_ ?_ ?_ ?_ ?_ ?_ ?_ ?_ ?_ ?_)

theorem pokeStack_ev {s0 s : State} {i a b} (h : Evolves qt false s0 s) : Evolves qt false s0 (pokeStack i a b s) := by
  unfold pokeStack
  repeat' with_reducible (first
    | exact h | assumption | apply setStack_ev | apply storeSector_ev | apply poke_ev | apply ite_ev
    | exact fun _ => addErrors_keeps | exact fun _ => ⟨fun h => Memory.wf_write _ _ h, off⟩ | exact fun _ => ⟨id, fun _ => rfl⟩)

theorem debugWrite_ev {s0 s : State} {space a b} (h : Evolves qt false s0 s) : Evolves qt false s0 (debugWrite space a b s) := by
  unfold debugWrite
  repeat' with_reducible (first
    | exact h | assumption | apply bumpNondet_ev | apply setDie_ev | apply pokeStack_ev | apply poke_ev | apply ite_ev
    | exact MailboxKeeps.same rfl rfl | exact rfl | exact TrustKeeps.refl _ | exact StacksKeep.refl _ | exact same9
    | exact lmap_length .. | exact List.length_map .. | exact List.length_modify .. | intro _ _ _ | intro _ _ | split)

theorem debugControl_ev {s0 s : State} {d n action} (h : Evolves false bt s0 s) : Evolves false bt s0 (debugControl d n action s) := by
  unfold debugControl
  repeat' with_reducible (first
    | exact h | assumption | apply bumpNondet_ev | apply shiftOut_ev | apply draw_ev | apply ite_ev
    | exact MailboxKeeps.same rfl rfl | exact rfl | exact TrustKeeps.refl _ | exact StacksKeep.refl _ | exact off
    | exact TrustKeeps.same rfl rfl rfl rfl rfl rfl rfl rfl rfl id
    | exact TrustKeeps.wiped rfl rfl rfl rfl rfl rfl rfl rfl rfl id | exact commitImage_keeps _ _ | exact returned_keeps _
    | exact wdogMgmt_keeps _ | exact wdogSeq_keeps _ | exact wdogLane_keeps _ | exact wdogTb_keeps _ | exact lcErr_keeps _
    | exact lmap_length .. | exact List.length_map .. | exact List.length_modify .. | intro _ _ _ | intro _ _ | split
    | dsimp only | refine Evolves.update ?_ ?_ ?_ ?_ ?_ ?_ ?_ ?_ ?_ ?_ ?_ ?_)

end Sys2Proof.Laws
end

