-- ==== Sys2Proof/Laws/Meanings.lean ====
section
/-! SUPPORT. Each command keeps the relation of Evolves.lean: one lemma for each opcode verdict and one for each meaning. -/
namespace Sys2Proof.Laws
open Sys2Proof.Machine

variable {qt bt : Bool}

/-- A command's outcome: where it answers a next state, the state has evolved. -/
def OutcomeKeeps (qt bt : Bool) (s : State) (o : Host.Outcome State Fault Refusal) : Prop := ∀ t, o = .next t → Evolves qt bt s t

theorem next_ev {s0 s : State} (h : Evolves qt bt s0 s) : OutcomeKeeps qt bt s0 (.next s) := by
  intro t ht; cases ht; exact h
theorem guardUnit_ev {s0 s : State} {ok} (h : Evolves qt bt s0 s) : OutcomeKeeps qt bt s0 (guardUnit ok s) := by
  intro t ht
  cases ok with
  | false => cases ht
  | true => cases ht; exact h

/-- What a verdict does: a read's write and an acceptance's effect keep the relation. -/
def VerdictKeeps (qt bt : Bool) : CmdVerdict → Prop
  | .reject _ _ => True
  | .read _ _ _ w => ∀ s0 s, Evolves qt bt s0 s → Evolves qt bt s0 (w s)
  | .accept a => ∀ q s0 s, Evolves qt bt s0 s → Evolves qt bt s0 (a.effect q s)

theorem reject_ev {a b} : VerdictKeeps qt bt (.reject a b) := trivial
theorem read_ev {a b c w} (h : ∀ s0 s, Evolves qt bt s0 s → Evolves qt bt s0 (w s)) : VerdictKeeps qt bt (.read a b c w) := h
theorem accept_ev {o b v x r e rd f} (h : ∀ q s0 s, Evolves qt bt s0 s → Evolves qt bt s0 (f q s)) :
    VerdictKeeps qt bt (.accept (Accepted.mk o b v x r e rd f)) := h
theorem iteV_ev {c : Prop} [Decidable c] {a b} (ha : VerdictKeeps qt bt a) (hb : VerdictKeeps qt bt b) : VerdictKeeps qt bt (if c then a else b) := by
  split <;> assumption
theorem verdictOf_ev {l v} (h : VerdictKeeps qt bt v) : VerdictKeeps qt bt (verdictOf l v) := by
  induction l with
  | nil => exact h
  | cons x xs ih => exact iteV_ev trivial ih

theorem settleVerdict_ev {s0 s : State} {c i v} (h : Evolves qt bt s0 s) (hv : VerdictKeeps qt bt v) : Evolves qt bt s0 (settleVerdict c i v s) := by
  cases v with
  | reject a b => exact completeAtOnce_ev h
  | read a b c w => exact completeAtOnce_ev (hv _ _ h)
  | accept a => exact hv _ _ _ (workPairs_ev (journalCommand_ev h))

/-- A command whose opcode's verdict keeps the relation keeps it. -/
theorem runCommand_ev {form own c} {s : State} (hv : ∀ d s, VerdictKeeps qt bt (own d s)) : OutcomeKeeps qt bt s (runCommand form own c s) := by
  unfold runCommand
  exact guardUnit_ev (ite_ev (.refl s) (settleVerdict_ev (takeCommand_ev (.refl s)) (verdictOf_ev (hv _ _))))


theorem queryVerdict_ev {c s} : VerdictKeeps qt bt (queryVerdict c s) := by
  unfold queryVerdict
  repeat' with_reducible (first
    | exact reject_ev | apply iteV_ev | apply verdictOf_ev | refine accept_ev ?_ | refine read_ev ?_ | assumption
    | apply putHost_ev | apply ite_ev | apply getD_ev | intro _ _ _ _ | intro _ _ _ | intro _ _
    | split)

theorem fieldbookVerdict_ev {c s} : VerdictKeeps qt bt (fieldbookVerdict c s) := by
  unfold fieldbookVerdict
  repeat' with_reducible (first
    | exact reject_ev | apply iteV_ev | apply verdictOf_ev | refine accept_ev ?_ | refine read_ev ?_ | assumption
    | apply putHost_ev | apply forEach_ev | apply decodeCount_ev | apply ite_ev | exact MailboxKeeps.same rfl rfl | exact rfl
    | exact TrustKeeps.refl _ | exact StacksKeep.refl _ | exact same9 | exact lmap_length .. | exact List.length_map ..
    | exact List.length_modify .. | intro _ _ _ _ | intro _ _ _ | intro _ _ | split | dsimp only)

theorem parcelVerdict_ev {c s} : VerdictKeeps false bt (parcelVerdict c s) := by
  unfold parcelVerdict
  repeat' with_reducible (first
    | exact reject_ev | apply iteV_ev | apply verdictOf_ev | refine accept_ev ?_ | refine read_ev ?_ | assumption
    | apply grantPairs_ev | apply settleDebug_ev | apply setParcel_ev | apply ite_ev | apply getD_ev
    | exact MailboxKeeps.same rfl rfl | exact rfl | exact TrustKeeps.refl _ | exact StacksKeep.refl _ | exact off
    | exact TrustKeeps.same rfl rfl rfl rfl rfl rfl rfl rfl rfl id
    | exact TrustKeeps.wiped rfl rfl rfl rfl rfl rfl rfl rfl rfl id | exact commitImage_keeps _ _ | exact returned_keeps _
    | exact wdogMgmt_keeps _ | exact wdogSeq_keeps _ | exact wdogLane_keeps _ | exact wdogTb_keeps _ | exact lcErr_keeps _
    | exact lmap_length .. | exact List.length_map .. | exact List.length_modify .. | intro _ _ _ _ | intro _ _ _ | intro _ _
    | split | dsimp only | refine Evolves.update ?_ ?_ ?_ ?_ ?_ ?_ ?_ ?_ ?_ ?_ ?_ ?_)

theorem phaseVerdict_ev {c s} : VerdictKeeps qt bt (phaseVerdict c s) := by
  unfold phaseVerdict
  repeat' with_reducible (first
    | exact reject_ev | apply iteV_ev | apply verdictOf_ev | refine accept_ev ?_ | refine read_ev ?_ | assumption
    | apply setParcel_ev | apply getD_ev | exact MailboxKeeps.same rfl rfl | exact rfl
    | exact TrustKeeps.refl _ | exact StacksKeep.refl _ | exact same9 | exact lmap_length .. | exact List.length_map ..
    | exact List.length_modify .. | intro _ _ _ _)

theorem selectVerdict_ev {c s} : VerdictKeeps qt bt (selectVerdict c s) := by
  unfold selectVerdict
  repeat' with_reducible (first
    | exact reject_ev | apply iteV_ev | apply verdictOf_ev | refine accept_ev ?_ | refine read_ev ?_ | assumption
    | apply dropAction_ev | apply addAction_ev | apply selectPlat_ev | apply ite_ev | apply getD_ev
    | exact MailboxKeeps.same rfl rfl | exact rfl | exact TrustKeeps.refl _ | exact StacksKeep.refl _ | exact same9
    | exact lmap_length .. | exact List.length_map .. | exact List.length_modify .. | intro _ _ _ _ | intro _ _ _ | intro _ _
    | split)

theorem stageVerdict_ev {c s} : VerdictKeeps qt bt (stageVerdict c s) := by
  unfold stageVerdict
  repeat' with_reducible (first
    | exact reject_ev | apply iteV_ev | apply verdictOf_ev | refine accept_ev ?_ | refine read_ev ?_ | assumption
    | apply setRoutes_ev | apply ite_ev | apply foldl_ev | apply foldl1_ev | apply foldl2_ev | apply foldl22_ev
    | exact MailboxKeeps.same rfl rfl | exact rfl | exact TrustKeeps.refl _ | exact StacksKeep.refl _ | exact same9
    | exact lmap_length .. | exact List.length_map .. | exact List.length_modify .. | intro _ _ _ _)

theorem commitVerdict_ev {c s} : VerdictKeeps qt bt (commitVerdict c s) := by
  unfold commitVerdict
  repeat' with_reducible (first
    | exact reject_ev | apply iteV_ev | apply verdictOf_ev | refine accept_ev ?_ | refine read_ev ?_ | assumption
    | apply joinNew_ev | apply setRoutes_ev | intro _ _ _ _)

theorem mirrorVerdict_ev {c s} : VerdictKeeps qt bt (mirrorVerdict c s) := by
  unfold mirrorVerdict
  repeat' with_reducible (first
    | exact reject_ev | apply iteV_ev | apply verdictOf_ev | refine accept_ev ?_ | refine read_ev ?_ | assumption | apply ite_ev
    | apply getD_ev | exact MailboxKeeps.same rfl rfl | exact rfl | exact TrustKeeps.refl _
    | exact StacksKeep.refl _ | exact same9 | exact lmap_length .. | exact List.length_map .. | exact List.length_modify ..
    | intro _ _ _ _ | intro _ _ _ | intro _ _ | split | dsimp only | refine Evolves.update ?_ ?_ ?_ ?_ ?_ ?_ ?_ ?_ ?_ ?_ ?_ ?_)

theorem budgetVerdict_ev {c s} : VerdictKeeps false bt (budgetVerdict c s) := by
  unfold budgetVerdict
  repeat' with_reducible (first
    | exact reject_ev | apply iteV_ev | apply verdictOf_ev | refine accept_ev ?_ | refine read_ev ?_ | assumption
    | apply setParcel_ev | apply addAction_ev | apply settleDebug_ev | apply forEach_ev | apply exitIfDeep_ev
    | apply dropWakes_ev | apply ite_ev | apply foldl_ev | apply foldl1_ev | apply foldl2_ev | apply foldl22_ev | apply getD_ev
    | exact MailboxKeeps.same rfl rfl | exact rfl | exact TrustKeeps.refl _ | exact StacksKeep.refl _
    | exact off | exact TrustKeeps.same rfl rfl rfl rfl rfl rfl rfl rfl rfl id
    | exact TrustKeeps.wiped rfl rfl rfl rfl rfl rfl rfl rfl rfl id | exact commitImage_keeps _ _ | exact returned_keeps _
    | exact wdogMgmt_keeps _ | exact wdogSeq_keeps _ | exact wdogLane_keeps _ | exact wdogTb_keeps _ | exact lcErr_keeps _
    | exact lmap_length .. | exact List.length_map .. | exact List.length_modify .. | intro _ _ _ _ | intro _ _ _)

theorem sourceVerdict_ev {c s} : VerdictKeeps false bt (sourceVerdict c s) := by
  unfold sourceVerdict
  repeat' with_reducible (first
    | exact reject_ev | apply iteV_ev | apply verdictOf_ev | refine accept_ev ?_ | refine read_ev ?_ | assumption
    | apply setStream_ev | apply renewStream_ev | apply stationEvent_ev | apply forEach_ev | apply exitIfDeep_ev | apply ite_ev
    | intro _ _ _ _ | intro _ _ _)

theorem fwStageVerdict_ev {c s} : VerdictKeeps qt bt (fwStageVerdict c s) := by
  unfold fwStageVerdict
  repeat' with_reducible (first
    | exact reject_ev | apply iteV_ev | apply verdictOf_ev | refine accept_ev ?_ | refine read_ev ?_ | assumption
    | exact MailboxKeeps.same rfl rfl | exact rfl | exact TrustKeeps.refl _ | exact StacksKeep.refl _ | exact same9
    | exact lmap_length .. | exact List.length_map .. | exact List.length_modify .. | intro _ _ _ _ | intro _ _ _ | intro _ _
    | split | dsimp only | refine Evolves.update ?_ ?_ ?_ ?_ ?_ ?_ ?_ ?_ ?_ ?_ ?_ ?_)

theorem handoverVerdict_ev {c s} : VerdictKeeps qt bt (handoverVerdict c s) := by
  unfold handoverVerdict
  repeat' with_reducible (first
    | exact reject_ev | apply iteV_ev | apply verdictOf_ev | refine accept_ev ?_ | refine read_ev ?_ | assumption
    | apply dropAction_ev | apply addAction_ev | apply ite_ev | exact MailboxKeeps.same rfl rfl | exact rfl
    | exact TrustKeeps.refl _ | exact StacksKeep.refl _ | exact same9 | exact lmap_length .. | exact List.length_map ..
    | exact List.length_modify .. | intro _ _ _ _ | intro _ _ _ | intro _ _ | split | dsimp only
    | refine Evolves.update ?_ ?_ ?_ ?_ ?_ ?_ ?_ ?_ ?_ ?_ ?_ ?_)

theorem debugVerdict_ev {c s} : VerdictKeeps false bt (debugVerdict c s) := by
  unfold debugVerdict
  repeat' with_reducible (first
    | exact reject_ev | apply iteV_ev | apply verdictOf_ev | refine accept_ev ?_ | refine read_ev ?_ | assumption
    | apply closeDebug_ev | apply ite_ev | apply getD_ev | exact MailboxKeeps.same rfl rfl | exact rfl
    | exact TrustKeeps.refl _ | exact StacksKeep.refl _ | exact off
    | exact TrustKeeps.same rfl rfl rfl rfl rfl rfl rfl rfl rfl id
    | exact TrustKeeps.wiped rfl rfl rfl rfl rfl rfl rfl rfl rfl id | exact commitImage_keeps _ _ | exact returned_keeps _
    | exact wdogMgmt_keeps _ | exact wdogSeq_keeps _ | exact wdogLane_keeps _ | exact wdogTb_keeps _ | exact lcErr_keeps _
    | exact lmap_length .. | exact List.length_map .. | exact List.length_modify .. | intro _ _ _ _ | intro _ _ _ | intro _ _
    | split | dsimp only | refine Evolves.update ?_ ?_ ?_ ?_ ?_ ?_ ?_ ?_ ?_ ?_ ?_ ?_)

theorem openVerdict_ev {c s} : VerdictKeeps qt bt (openVerdict c s) := by
  unfold openVerdict
  repeat' with_reducible (first
    | exact reject_ev | apply iteV_ev | apply verdictOf_ev | refine accept_ev ?_ | refine read_ev ?_ | assumption
    | apply setTraverse_ev | apply getD_ev | exact MailboxKeeps.same rfl rfl | exact rfl
    | exact TrustKeeps.refl _ | exact StacksKeep.refl _ | exact same9 | exact lmap_length .. | exact List.length_map ..
    | exact List.length_modify .. | intro _ _ _ _ | intro _ _ _ | intro _ _ | split | dsimp only
    | refine Evolves.update ?_ ?_ ?_ ?_ ?_ ?_ ?_ ?_ ?_ ?_ ?_ ?_)

theorem closeVerdict_ev {c s} : VerdictKeeps qt bt (closeVerdict c s) := by
  unfold closeVerdict
  repeat' with_reducible (first
    | exact reject_ev | apply iteV_ev | apply verdictOf_ev | refine accept_ev ?_ | refine read_ev ?_ | assumption
    | apply closeTraverse_ev | exact MailboxKeeps.same rfl rfl | exact rfl | exact TrustKeeps.refl _ | exact StacksKeep.refl _
    | exact same9 | exact lmap_length .. | exact List.length_map .. | exact List.length_modify .. | intro _ _ _ _ | intro _ _ _
    | intro _ _ | split | dsimp only)

theorem genOpenVerdict_ev {c s} : VerdictKeeps qt false (genOpenVerdict c s) := by
  unfold genOpenVerdict
  repeat' with_reducible (first
    | exact reject_ev | apply iteV_ev | apply verdictOf_ev | refine accept_ev ?_ | refine read_ev ?_ | assumption
    | apply openOne_ev | apply ite_ev | exact MailboxKeeps.same rfl rfl | exact rfl | exact TrustKeeps.refl _
    | exact StacksKeep.refl _ | exact same9 | exact lmap_length .. | exact List.length_map .. | exact List.length_modify ..
    | intro _ _ _ _ | intro _ _ _ | intro _ _ | split | dsimp only)

theorem tallyVerdict_ev {c s} : VerdictKeeps qt bt (tallyVerdict c s) := by
  unfold tallyVerdict
  repeat' with_reducible (first
    | exact reject_ev | apply iteV_ev | apply verdictOf_ev | refine accept_ev ?_ | refine read_ev ?_ | assumption
    | apply changeTally_ev | apply ite_ev | apply getD_ev | exact MailboxKeeps.same rfl rfl
    | exact rfl | exact TrustKeeps.refl _ | exact StacksKeep.refl _ | exact same9 | exact lmap_length ..
    | exact List.length_map .. | exact List.length_modify .. | intro _ _ _ _ | intro _ _ _ | intro _ _ | split | dsimp only
    | refine Evolves.update ?_ ?_ ?_ ?_ ?_ ?_ ?_ ?_ ?_ ?_ ?_ ?_)

theorem memberVerdict_ev {c s} : VerdictKeeps qt bt (memberVerdict c s) := by
  unfold memberVerdict
  repeat' with_reducible (first
    | exact reject_ev | apply iteV_ev | apply verdictOf_ev | refine accept_ev ?_ | refine read_ev ?_ | assumption
    | apply addAction_ev | apply setTraverse_ev | apply ite_ev | exact MailboxKeeps.same rfl rfl | exact rfl
    | exact TrustKeeps.refl _ | exact StacksKeep.refl _ | exact same9 | exact lmap_length .. | exact List.length_map ..
    | exact List.length_modify .. | intro _ _ _ _ | intro _ _ _ | intro _ _ | split | dsimp only)

theorem basisVerdict_ev {c s} : VerdictKeeps false bt (basisVerdict c s) := by
  unfold basisVerdict
  repeat' with_reducible (first
    | exact reject_ev | apply iteV_ev | apply verdictOf_ev | refine accept_ev ?_ | refine read_ev ?_ | assumption | apply bind_ev
    | apply startBasis_ev | apply ite_ev | apply getD_ev | exact MailboxKeeps.same rfl rfl | exact rfl
    | exact TrustKeeps.refl _ | exact StacksKeep.refl _ | exact off
    | exact TrustKeeps.same rfl rfl rfl rfl rfl rfl rfl rfl rfl id
    | exact TrustKeeps.wiped rfl rfl rfl rfl rfl rfl rfl rfl rfl id | exact commitImage_keeps _ _ | exact returned_keeps _
    | exact wdogMgmt_keeps _ | exact wdogSeq_keeps _ | exact wdogLane_keeps _ | exact wdogTb_keeps _ | exact lcErr_keeps _
    | exact lmap_length .. | exact List.length_map .. | exact List.length_modify .. | intro _ _ _ _ | intro _ _ _ | intro _ _
    | split | dsimp only)

theorem normVerdict_ev {c s} : VerdictKeeps qt false (normVerdict c s) := by
  unfold normVerdict
  repeat' with_reducible (first
    | exact reject_ev | apply iteV_ev | apply verdictOf_ev | refine accept_ev ?_ | refine read_ev ?_ | assumption
    | apply contributeNorm_ev | apply dropKept_ev | apply ite_ev | exact MailboxKeeps.same rfl rfl | exact rfl
    | exact TrustKeeps.refl _ | exact StacksKeep.refl _ | exact same9 | exact lmap_length .. | exact List.length_map ..
    | exact List.length_modify .. | intro _ _ _ _ | intro _ _ _ | intro _ _ | split | dsimp only)

theorem serveVerdict_ev {c s} : VerdictKeeps qt bt (serveVerdict c s) := by
  unfold serveVerdict
  repeat' with_reducible (first
    | exact reject_ev | apply iteV_ev | apply verdictOf_ev | refine accept_ev ?_ | refine read_ev ?_ | assumption
    | apply dropAction_ev | apply addAction_ev | apply ite_ev | exact MailboxKeeps.same rfl rfl | exact rfl
    | exact TrustKeeps.refl _ | exact StacksKeep.refl _ | exact same9 | exact lmap_length .. | exact List.length_map ..
    | exact List.length_modify .. | intro _ _ _ _ | intro _ _ _ | intro _ _ | split)

theorem allocVerdict_ev {c s} : VerdictKeeps false bt (allocVerdict c s) := by
  unfold allocVerdict
  repeat' with_reducible (first
    | exact reject_ev | apply iteV_ev | apply verdictOf_ev | refine accept_ev ?_ | refine read_ev ?_ | assumption
    | apply freeExtents_ev | apply draw_ev | apply takeRegion_ev | apply setRegion_ev | apply ite_ev | apply getD_ev
    | exact MailboxKeeps.same rfl rfl | exact rfl | exact TrustKeeps.refl _ | exact StacksKeep.refl _
    | exact off | exact TrustKeeps.same rfl rfl rfl rfl rfl rfl rfl rfl rfl id
    | exact TrustKeeps.wiped rfl rfl rfl rfl rfl rfl rfl rfl rfl id | exact commitImage_keeps _ _ | exact returned_keeps _
    | exact wdogMgmt_keeps _ | exact wdogSeq_keeps _ | exact wdogLane_keeps _ | exact wdogTb_keeps _ | exact lcErr_keeps _
    | exact lmap_length .. | exact List.length_map .. | exact List.length_modify .. | intro _ _ _ _ | intro _ _ _ | intro _ _
    | split | dsimp only | refine Evolves.update ?_ ?_ ?_ ?_ ?_ ?_ ?_ ?_ ?_ ?_ ?_ ?_)

theorem loadVerdict_ev {c s} : VerdictKeeps qt bt (loadVerdict c s) := by
  unfold loadVerdict
  repeat' with_reducible (first
    | exact reject_ev | apply iteV_ev | apply verdictOf_ev | refine accept_ev ?_ | refine read_ev ?_ | assumption
    | apply takeRegion_ev | apply setRegion_ev | apply ite_ev | exact MailboxKeeps.same rfl rfl | exact rfl
    | exact TrustKeeps.refl _ | exact StacksKeep.refl _ | exact same9 | exact lmap_length .. | exact List.length_map ..
    | exact List.length_modify .. | intro _ _ _ _ | intro _ _ _ | intro _ _ | split | dsimp only)

theorem saveVerdict_ev {c s} : VerdictKeeps qt bt (saveVerdict c s) := by
  unfold saveVerdict
  repeat' with_reducible (first
    | exact reject_ev | apply iteV_ev | apply verdictOf_ev | refine accept_ev ?_ | refine read_ev ?_ | assumption
    | apply bumpNondet_ev | apply setRegion_ev | apply takeRegion_ev | apply ite_ev | exact MailboxKeeps.same rfl rfl | exact rfl
    | exact TrustKeeps.refl _ | exact StacksKeep.refl _ | exact same9 | exact lmap_length .. | exact List.length_map ..
    | exact List.length_modify .. | intro _ _ _ _ | intro _ _ _ | intro _ _ | split | dsimp only)

theorem applyVerdict_ev {c s} : VerdictKeeps qt bt (applyVerdict c s) := by
  unfold applyVerdict
  repeat' with_reducible (first
    | exact reject_ev | apply iteV_ev | apply verdictOf_ev | refine accept_ev ?_ | refine read_ev ?_ | assumption
    | apply takeRegion_ev | apply setRegion_ev | apply ite_ev | exact MailboxKeeps.same rfl rfl | exact rfl
    | exact TrustKeeps.refl _ | exact StacksKeep.refl _ | exact same9 | exact lmap_length .. | exact List.length_map ..
    | exact List.length_modify .. | intro _ _ _ _ | intro _ _ _ | intro _ _ | split | dsimp only)

theorem easementVerdict_ev {c s} : VerdictKeeps qt bt (easementVerdict c s) := by
  unfold easementVerdict
  repeat' with_reducible (first
    | exact reject_ev | apply iteV_ev | apply verdictOf_ev | refine accept_ev ?_ | refine read_ev ?_ | assumption
    | apply takeRegion_ev | apply setRegion_ev | apply ite_ev | apply getD_ev
    | exact MailboxKeeps.same rfl rfl | exact rfl | exact TrustKeeps.refl _ | exact StacksKeep.refl _ | exact same9
    | exact lmap_length .. | exact List.length_map .. | exact List.length_modify .. | intro _ _ _ _ | intro _ _ _ | intro _ _
    | split | dsimp only)

theorem auditVerdict_ev {c s} : VerdictKeeps qt bt (auditVerdict c s) := by
  unfold auditVerdict
  repeat' with_reducible (first
    | exact reject_ev | apply iteV_ev | apply verdictOf_ev | refine accept_ev ?_ | refine read_ev ?_ | assumption
    | apply addAction_ev | (refine startLedgerAudit_ev' ?_ (by assumption)) | (refine startPoolAudit_ev' ?_ (by assumption))
    | apply ledgerAudit_ev | (refine poolAudit_ev' ?_ (by assumption)) | apply poolAudit_ev | apply ite_ev | apply getD_ev
    | intro _ _ _ _ | intro _ _ _ | intro _ _)

theorem execLedgerFrameReceive_ev {die} {s : State} : OutcomeKeeps qt false s (execLedgerFrameReceive die s) := by
  unfold execLedgerFrameReceive
  repeat' with_reducible (first
    | refine guardUnit_ev ?_ | refine next_ev ?_ | exact Evolves.refl _ | assumption | apply onDie_ev | apply chainRow_ev
    | apply ite_ev | split | dsimp only | exact List.length_set .. | apply id_ev | exact fun _ => noteFaults_keeps | intro _ _ _
    | intro _ _)

theorem execSurveyFrame_ev {die} {s : State} : OutcomeKeeps qt false s (execSurveyFrame die s) := by
  unfold execSurveyFrame
  repeat' with_reducible (first
    | refine guardUnit_ev ?_ | refine next_ev ?_ | exact Evolves.refl _ | assumption | apply controlRow_ev
    | apply surveyEffect_ev | exact List.length_set .. | apply id_ev | exact fun _ => noteFaults_keeps | intro _ _ _)

theorem execOpenFrame_ev {die} {s : State} : OutcomeKeeps qt false s (execOpenFrame die s) := by
  unfold execOpenFrame
  repeat' with_reducible (first
    | refine guardUnit_ev ?_ | refine next_ev ?_ | exact Evolves.refl _ | assumption | apply controlRow_ev | apply openEffect_ev
    | exact List.length_set .. | apply id_ev | exact fun _ => noteFaults_keeps | intro _ _ _)

theorem execDatumFrame_ev {die} {s : State} : OutcomeKeeps qt false s (execDatumFrame die s) := by
  unfold execDatumFrame
  repeat' with_reducible (first
    | refine guardUnit_ev ?_ | refine next_ev ?_ | exact Evolves.refl _ | assumption | apply controlRow_ev | apply datumEffect_ev
    | exact List.length_set .. | apply id_ev | exact fun _ => noteFaults_keeps | intro _ _ _)

theorem execDoneFrame_ev {die} {s : State} : OutcomeKeeps qt false s (execDoneFrame die s) := by
  unfold execDoneFrame
  repeat' with_reducible (first
    | refine guardUnit_ev ?_ | refine next_ev ?_ | exact Evolves.refl _ | assumption | apply controlRow_ev | apply doneEffect_ev
    | apply ite_ev | split | dsimp only | exact List.length_set .. | apply id_ev | exact fun _ => noteFaults_keeps | intro _ _ _)

theorem execAbortCommonFrame_ev {die} {s : State} : OutcomeKeeps qt false s (execAbortCommonFrame die s) := by
  unfold execAbortCommonFrame
  repeat' with_reducible (first
    | refine guardUnit_ev ?_ | refine next_ev ?_ | exact Evolves.refl _ | assumption | apply controlRow_ev
    | apply abortCommonEffect_ev | exact List.length_set .. | apply id_ev | exact fun _ => noteFaults_keeps | intro _ _ _)

theorem execAbortReqFrame_ev {die} {s : State} : OutcomeKeeps qt false s (execAbortReqFrame die s) := by
  unfold execAbortReqFrame
  repeat' with_reducible (first
    | refine guardUnit_ev ?_ | refine next_ev ?_ | exact Evolves.refl _ | assumption | apply controlRow_ev
    | apply abortReqEffect_ev | exact List.length_set .. | apply id_ev | exact fun _ => noteFaults_keeps | intro _ _ _)

theorem execVerdictQueryFrame_ev {die} {s : State} : OutcomeKeeps qt bt s (execVerdictQueryFrame die s) := by
  unfold execVerdictQueryFrame
  repeat' with_reducible (first
    | refine guardUnit_ev ?_ | refine next_ev ?_ | exact Evolves.refl _ | assumption | apply controlRow_ev
    | apply verdictQueryEffect_ev | exact List.length_set .. | apply id_ev | exact fun _ => noteFaults_keeps | intro _ _ _)

theorem execReleaseQueryFrame_ev {die} {s : State} : OutcomeKeeps qt bt s (execReleaseQueryFrame die s) := by
  unfold execReleaseQueryFrame
  repeat' with_reducible (first
    | refine guardUnit_ev ?_ | refine next_ev ?_ | exact Evolves.refl _ | assumption | apply controlRow_ev
    | apply releaseQueryEffect_ev | exact List.length_set .. | apply id_ev | exact fun _ => noteFaults_keeps | intro _ _ _)

theorem execResultFrame_ev {s : State} : OutcomeKeeps qt false s (execResultFrame s) := by
  unfold execResultFrame
  repeat' with_reducible (first
    | refine guardUnit_ev ?_ | refine next_ev ?_ | exact Evolves.refl _ | assumption | apply ingressCredits_ev
    | apply resultEffect_ev | apply setXbar_ev | exact MailboxKeeps.same rfl rfl | exact rfl | exact TrustKeeps.refl _
    | exact StacksKeep.refl _ | exact same9 | exact lmap_length .. | exact List.length_map .. | exact List.length_modify ..
    | split)

theorem execServeRequest_ev {die} {s : State} : OutcomeKeeps qt false s (execServeRequest die s) := by
  unfold execServeRequest
  repeat' with_reducible (first
    | refine guardUnit_ev ?_ | refine next_ev ?_ | exact Evolves.refl _ | assumption | apply onDie_ev | apply serveEffect_ev
    | apply takeHead_ev | split | dsimp only | exact List.length_set .. | apply id_ev | exact fun _ => noteFaults_keeps
    | intro _ _ _ | intro _ _)

theorem execLayerGenerationOpen_ev {traverse} {s : State} : OutcomeKeeps qt false s (execLayerGenerationOpen traverse s) := by
  unfold execLayerGenerationOpen
  repeat' with_reducible (first
    | refine guardUnit_ev ?_ | refine next_ev ?_ | exact Evolves.refl _ | assumption | apply openOne_ev | apply setTraverse_ev
    | apply ite_ev | exact MailboxKeeps.same rfl rfl | exact rfl | exact TrustKeeps.refl _ | exact StacksKeep.refl _
    | exact same9 | exact lmap_length .. | exact List.length_map .. | exact List.length_modify .. | split)

theorem execGenMemberTimeout_ev {traverse gen entry} {s : State} : OutcomeKeeps qt bt s (execGenMemberTimeout traverse gen entry s) := by
  unfold execGenMemberTimeout
  repeat' with_reducible (first
    | refine guardUnit_ev ?_ | refine next_ev ?_ | exact Evolves.refl _ | assumption | apply reach_ev | apply abortGen_ev
    | apply ite_ev | apply getD_ev | exact MailboxKeeps.same rfl rfl | exact rfl
    | exact TrustKeeps.refl _ | exact StacksKeep.refl _ | exact same9 | exact lmap_length .. | exact List.length_map ..
    | exact List.length_modify .. | split)

theorem execBroadcastMemberTimeout_ev {traverse gen entry} {s : State} : OutcomeKeeps qt bt s (execBroadcastMemberTimeout traverse gen entry s) := by
  unfold execBroadcastMemberTimeout
  repeat' with_reducible (first
    | refine guardUnit_ev ?_ | refine next_ev ?_ | exact Evolves.refl _ | assumption | apply abortGen_ev | apply reach_ev
    | apply ite_ev | apply foldl_ev | apply foldl1_ev | apply foldl2_ev | apply foldl22_ev | apply getD_ev
    | exact MailboxKeeps.same rfl rfl | exact rfl | exact TrustKeeps.refl _ | exact StacksKeep.refl _
    | exact same9 | exact lmap_length .. | exact List.length_map .. | exact List.length_modify .. | split)

theorem execVerdictWaitTimeout_ev {tally index gen} {s : State} : OutcomeKeeps qt bt s (execVerdictWaitTimeout tally index gen s) := by
  unfold execVerdictWaitTimeout
  repeat' with_reducible (first
    | refine guardUnit_ev ?_ | refine next_ev ?_ | exact Evolves.refl _ | assumption | apply reach_ev | apply sendControl_ev
    | apply setTally_ev | apply setGen_ev | apply ite_ev | exact MailboxKeeps.same rfl rfl | exact rfl | exact TrustKeeps.refl _
    | exact StacksKeep.refl _ | exact same9 | exact lmap_length .. | exact List.length_map .. | exact List.length_modify ..
    | split)

theorem execContextDrop_ev {traverse} {s : State} : OutcomeKeeps qt bt s (execContextDrop traverse s) := by
  unfold execContextDrop
  repeat' with_reducible (first
    | refine guardUnit_ev ?_ | refine next_ev ?_ | exact Evolves.refl _ | assumption | apply setTraverse_ev)

theorem execBindingPrevClear_ev {traverse} {s : State} : OutcomeKeeps qt bt s (execBindingPrevClear traverse s) := by
  unfold execBindingPrevClear
  repeat' with_reducible (first
    | refine guardUnit_ev ?_ | refine next_ev ?_ | exact Evolves.refl _ | assumption | apply ite_ev
    | exact MailboxKeeps.same rfl rfl | exact rfl | exact TrustKeeps.refl _ | exact StacksKeep.refl _ | exact same9
    | exact lmap_length .. | exact List.length_map .. | exact List.length_modify .. | split | dsimp only
    | refine Evolves.update ?_ ?_ ?_ ?_ ?_ ?_ ?_ ?_ ?_ ?_ ?_ ?_)

theorem execTallyArrival_ev {die} {s : State} : OutcomeKeeps qt bt s (execTallyArrival die s) := by
  unfold execTallyArrival
  repeat' with_reducible (first
    | refine guardUnit_ev ?_ | refine next_ev ?_ | exact Evolves.refl _ | assumption | apply controlRow_ev
    | apply arrivalEffect_ev | exact List.length_set .. | apply id_ev | exact fun _ => noteFaults_keeps | intro _ _ _)

theorem execTallyRelease_ev {die} {s : State} : OutcomeKeeps qt bt s (execTallyRelease die s) := by
  unfold execTallyRelease
  repeat' with_reducible (first
    | refine guardUnit_ev ?_ | refine next_ev ?_ | exact Evolves.refl _ | assumption | apply controlRow_ev
    | apply releaseEffect_ev | exact List.length_set .. | apply id_ev | exact fun _ => noteFaults_keeps | intro _ _ _)

theorem execTallyMemberLate_ev {tally} {s : State} : OutcomeKeeps qt bt s (execTallyMemberLate tally s) := by
  unfold execTallyMemberLate
  repeat' with_reducible (first
    | refine guardUnit_ev ?_ | refine next_ev ?_ | exact Evolves.refl _ | assumption | apply reach_ev | apply releaseBarrier_ev
    | apply sendControl_ev | apply setTally_ev | apply ite_ev | apply foldl_ev | apply foldl1_ev | apply foldl2_ev
    | apply foldl22_ev | exact MailboxKeeps.same rfl rfl | exact rfl | exact TrustKeeps.refl _ | exact StacksKeep.refl _
    | exact same9 | exact lmap_length .. | exact List.length_map .. | exact List.length_modify .. | split | dsimp only)

theorem execTimeoutReqFrame_ev {die} {s : State} : OutcomeKeeps qt bt s (execTimeoutReqFrame die s) := by
  unfold execTimeoutReqFrame
  repeat' with_reducible (first
    | refine guardUnit_ev ?_ | refine next_ev ?_ | exact Evolves.refl _ | assumption | apply controlRow_ev
    | apply timeoutReqEffect_ev | exact List.length_set .. | apply id_ev | exact fun _ => noteFaults_keeps | intro _ _ _)

theorem execReseqFrameArrival_ev {die} {s : State} : OutcomeKeeps qt bt s (execReseqFrameArrival die s) := by
  unfold execReseqFrameArrival
  repeat' with_reducible (first
    | refine guardUnit_ev ?_ | refine next_ev ?_ | exact Evolves.refl _ | assumption | apply onPlace_ev | apply arrive_ev
    | exact List.length_set .. | apply id_ev | exact fun _ => noteFaults_keeps | intro _ _ _ | intro _ _)

theorem execHoleSkip_ev {die srcPart srcPort flow} {s : State} : OutcomeKeeps qt bt s (execHoleSkip die srcPart srcPort flow s) := by
  unfold execHoleSkip
  repeat' with_reducible (first
    | refine guardUnit_ev ?_ | refine next_ev ?_ | exact Evolves.refl _ | assumption | apply onPlace_ev | apply skipHole_ev
    | exact List.length_set .. | apply id_ev | exact fun _ => noteFaults_keeps | intro _ _ _ | intro _ _)

theorem execSeqFlowRetire_ev {die srcPart srcPort flow} {s : State} : OutcomeKeeps qt bt s (execSeqFlowRetire die srcPart srcPort flow s) := by
  unfold execSeqFlowRetire
  repeat' with_reducible (first
    | refine guardUnit_ev ?_ | refine next_ev ?_ | exact Evolves.refl _ | assumption | apply reach_ev | apply setReseq_ev
    | apply ite_ev | split)

theorem execEgReseqFrameArrival_ev {chiplet} {s : State} : OutcomeKeeps qt bt s (execEgReseqFrameArrival chiplet s) := by
  unfold execEgReseqFrameArrival
  repeat' with_reducible (first
    | refine guardUnit_ev ?_ | refine next_ev ?_ | exact Evolves.refl _ | assumption | apply onPlace_ev | apply arrive_ev
    | dsimp only | exact List.length_set .. | apply id_ev | exact fun _ => noteFaults_keeps | intro _ _ _ | intro _ _)

theorem execEgHoleSkip_ev {chiplet srcPart srcPort flow} {s : State} : OutcomeKeeps qt bt s (execEgHoleSkip chiplet srcPart srcPort flow s) := by
  unfold execEgHoleSkip
  repeat' with_reducible (first
    | refine guardUnit_ev ?_ | refine next_ev ?_ | exact Evolves.refl _ | assumption | apply onPlace_ev | apply skipHole_ev
    | dsimp only | exact List.length_set .. | apply id_ev | exact fun _ => noteFaults_keeps | intro _ _ _ | intro _ _)

theorem execLaneFrameIngress_ev {port rows} {s : State} : OutcomeKeeps false false s (execLaneFrameIngress port rows s) := by
  unfold execLaneFrameIngress
  repeat' with_reducible (first
    | refine guardUnit_ev ?_ | refine next_ev ?_ | exact Evolves.refl _ | assumption | apply forEach_ev | apply takeRow_ev
    | apply onGroup_ev | apply ite_ev | split | exact List.length_set .. | apply id_ev | exact fun _ => noteFaults_keeps
    | intro _ _ _)

theorem execAllocRetry_ev {input vc} {s : State} : OutcomeKeeps qt bt s (execAllocRetry input vc s) := by
  unfold execAllocRetry
  repeat' with_reducible (first
    | refine guardUnit_ev ?_ | refine next_ev ?_ | exact Evolves.refl _ | assumption | apply askCells_ev | apply ite_ev)

theorem execCellSlot_ev {s : State} : OutcomeKeeps qt bt s (execCellSlot s) := by
  unfold execCellSlot
  repeat' with_reducible (first
    | refine guardUnit_ev ?_ | refine next_ev ?_ | exact Evolves.refl _ | assumption | apply sendRows_ev | apply onGroup_ev
    | apply crossbarSlot_ev | apply ite_ev)

theorem execOutputFrameStart_ev {output} {s : State} : OutcomeKeeps qt bt s (execOutputFrameStart output s) := by
  unfold execOutputFrameStart
  repeat' with_reducible (first
    | refine guardUnit_ev ?_ | refine next_ev ?_ | exact Evolves.refl _ | assumption | apply onGroup_ev | apply beginCopy_ev
    | apply ite_ev | exact MailboxKeeps.same rfl rfl | exact rfl | exact TrustKeeps.refl _ | exact StacksKeep.refl _
    | exact same9 | exact lmap_length .. | exact List.length_map .. | exact List.length_modify .. | split | dsimp only
    | refine Evolves.update ?_ ?_ ?_ ?_ ?_ ?_ ?_ ?_ ?_ ?_ ?_ ?_ | exact List.length_set .. | apply id_ev
    | exact fun _ => noteFaults_keeps | intro _ _ _ | intro _ _)

theorem execOutputFrameEnd_ev {output readError} {s : State} : OutcomeKeeps qt false s (execOutputFrameEnd output readError s) := by
  unfold execOutputFrameEnd
  repeat' with_reducible (first
    | refine guardUnit_ev ?_ | refine next_ev ?_ | exact Evolves.refl _ | assumption | apply cellError_ev
    | apply settleBroadcasts_ev | apply finishCopy_ev | apply ite_ev | apply getD_ev
    | exact MailboxKeeps.same rfl rfl | exact rfl | exact TrustKeeps.refl _ | exact StacksKeep.refl _ | exact same9
    | exact lmap_length .. | exact List.length_map .. | exact List.length_modify .. | split)

theorem execEpochDrained_ev {s : State} : OutcomeKeeps qt bt s (execEpochDrained s) := by
  unfold execEpochDrained
  repeat' with_reducible (first
    | refine guardUnit_ev ?_ | refine next_ev ?_ | exact Evolves.refl _ | assumption | apply setRoutes_ev)

theorem execSprayJoin_ev {port} {s : State} : OutcomeKeeps qt bt s (execSprayJoin port s) := by
  unfold execSprayJoin
  repeat' with_reducible (first
    | refine guardUnit_ev ?_ | refine next_ev ?_ | exact Evolves.refl _ | assumption | apply setXbar_ev | apply ite_ev
    | exact MailboxKeeps.same rfl rfl | exact rfl | exact TrustKeeps.refl _ | exact StacksKeep.refl _ | exact same9
    | exact lmap_length .. | exact List.length_map .. | exact List.length_modify .. | split)

theorem execDescriptorAgeDrop_ev {queue} {s : State} : OutcomeKeeps qt false s (execDescriptorAgeDrop queue s) := by
  unfold execDescriptorAgeDrop
  repeat' with_reducible (first
    | refine guardUnit_ev ?_ | refine next_ev ?_ | exact Evolves.refl _ | assumption | apply reach_ev | apply setXbar_ev
    | apply settleBroadcasts_ev | apply releaseRef_ev | apply bump_ev | apply ite_ev | exact MailboxKeeps.same rfl rfl
    | exact rfl | exact TrustKeeps.refl _ | exact StacksKeep.refl _ | exact same9 | exact lmap_length ..
    | exact List.length_map .. | exact List.length_modify .. | split)

theorem execBufferThresholdUpdate_ev {s : State} : OutcomeKeeps qt bt s (execBufferThresholdUpdate s) := by
  unfold execBufferThresholdUpdate
  repeat' with_reducible (first
    | refine guardUnit_ev ?_ | refine next_ev ?_ | exact Evolves.refl _ | assumption | apply reach_ev | apply setXbar_ev)

theorem execTelemetryPeriod_ev {s : State} : OutcomeKeeps qt bt s (execTelemetryPeriod s) := by
  unfold execTelemetryPeriod
  repeat' with_reducible (first
    | refine guardUnit_ev ?_ | refine next_ev ?_ | exact Evolves.refl _ | assumption | apply reach_ev | apply forEach_ev
    | apply sendTelemetry_ev | apply ite_ev | exact MailboxKeeps.same rfl rfl | exact rfl | exact TrustKeeps.refl _
    | exact StacksKeep.refl _ | exact same9 | exact lmap_length .. | exact List.length_map .. | exact List.length_modify ..
    | split | dsimp only | refine Evolves.update ?_ ?_ ?_ ?_ ?_ ?_ ?_ ?_ ?_ ?_ ?_ ?_ | exact List.length_set .. | apply id_ev
    | exact fun _ => noteFaults_keeps | intro _ _ _)

theorem execLinkControlWord_ev {port overhead} {s : State} : OutcomeKeeps false false s (execLinkControlWord port overhead s) := by
  unfold execLinkControlWord
  repeat' with_reducible (first
    | refine guardUnit_ev ?_ | refine next_ev ?_ | exact Evolves.refl _ | assumption | apply countBlocks_ev | apply goodWord_ev
    | apply badWord_ev | apply ite_ev)

theorem execRateRecovery_ev {port} {s : State} : OutcomeKeeps qt bt s (execRateRecovery port s) := by
  unfold execRateRecovery
  repeat' with_reducible (first
    | refine guardUnit_ev ?_ | refine next_ev ?_ | exact Evolves.refl _ | assumption | apply reach_ev | apply setLink_ev
    | apply ite_ev)

theorem execGoingIdleExpiry_ev {port} {s : State} : OutcomeKeeps false false s (execGoingIdleExpiry port s) := by
  unfold execGoingIdleExpiry
  repeat' with_reducible (first
    | refine guardUnit_ev ?_ | refine next_ev ?_ | exact Evolves.refl _ | assumption | apply portDown_ev | apply reach_ev
    | apply ite_ev | split)

theorem execBringupIdleEnd_ev {port} {s : State} : OutcomeKeeps qt bt s (execBringupIdleEnd port s) := by
  unfold execBringupIdleEnd
  repeat' with_reducible (first
    | refine guardUnit_ev ?_ | refine next_ev ?_ | exact Evolves.refl _ | assumption | apply nextStep_ev | apply reach_ev
    | apply setPort_ev | apply ite_ev)

theorem execCkWindowSwitch_ev {port} {s : State} : OutcomeKeeps qt bt s (execCkWindowSwitch port s) := by
  unfold execCkWindowSwitch
  repeat' with_reducible (first
    | refine guardUnit_ev ?_ | refine next_ev ?_ | exact Evolves.refl _ | assumption | apply reach_ev | apply setPort_ev
    | apply ite_ev)

theorem execCkLock_ev {port} {s : State} : OutcomeKeeps qt bt s (execCkLock port s) := by
  unfold execCkLock
  repeat' with_reducible (first
    | refine guardUnit_ev ?_ | refine next_ev ?_ | exact Evolves.refl _ | assumption | apply nextStep_ev | apply setPort_ev
    | apply ite_ev)

theorem execLosCheckPass_ev {port} {s : State} : OutcomeKeeps qt bt s (execLosCheckPass port s) := by
  unfold execLosCheckPass
  repeat' with_reducible (first
    | refine guardUnit_ev ?_ | refine next_ev ?_ | exact Evolves.refl _ | assumption | apply nextStep_ev | apply reach_ev
    | apply ite_ev)

theorem execTrainingRow_ev {port row} {s : State} : OutcomeKeeps false false s (execTrainingRow port row s) := by
  unfold execTrainingRow
  repeat' with_reducible (first
    | refine guardUnit_ev ?_ | refine next_ev ?_ | exact Evolves.refl _ | assumption | apply countBlocks_ev
    | apply polarityRow_ev | apply laneRow_ev | apply deskewRow_ev | apply identRow_ev | apply ite_ev)

theorem execBringupStepTimeout_ev {port} {s : State} : OutcomeKeeps qt bt s (execBringupStepTimeout port s) := by
  unfold execBringupStepTimeout
  repeat' with_reducible (first
    | refine guardUnit_ev ?_ | refine next_ev ?_ | exact Evolves.refl _ | assumption | apply failBringup_ev | apply reach_ev
    | apply ite_ev | exact MailboxKeeps.same rfl rfl | exact rfl | exact TrustKeeps.refl _ | exact StacksKeep.refl _
    | exact same9 | exact lmap_length .. | exact List.length_map .. | exact List.length_modify .. | split | dsimp only)

theorem execLosAssert_ev {port position} {s : State} : OutcomeKeeps false false s (execLosAssert port position s) := by
  unfold execLosAssert
  repeat' with_reducible (first
    | refine guardUnit_ev ?_ | refine next_ev ?_ | exact Evolves.refl _ | assumption | apply bumpPort_ev | apply setPort_ev
    | apply portDown_ev | apply ite_ev)

theorem execLosClear_ev {port position} {s : State} : OutcomeKeeps qt bt s (execLosClear port position s) := by
  unfold execLosClear
  repeat' with_reducible (first
    | refine guardUnit_ev ?_ | refine next_ev ?_ | exact Evolves.refl _ | assumption | apply setPort_ev | apply ite_ev)

theorem execLossOfLock_ev {port position} {s : State} : OutcomeKeeps false false s (execLossOfLock port position s) := by
  unfold execLossOfLock
  repeat' with_reducible (first
    | refine guardUnit_ev ?_ | refine next_ev ?_ | exact Evolves.refl _ | assumption | apply loseLock_ev)

theorem execLockRegained_ev {port} {s : State} : OutcomeKeeps qt bt s (execLockRegained port s) := by
  unfold execLockRegained
  repeat' with_reducible (first
    | refine guardUnit_ev ?_ | refine next_ev ?_ | exact Evolves.refl _ | assumption | apply setPort_ev)

theorem execPowerStateEntry_ev {group} {s : State} : OutcomeKeeps qt bt s (execPowerStateEntry group s) := by
  unfold execPowerStateEntry
  repeat' with_reducible (first
    | refine guardUnit_ev ?_ | refine next_ev ?_ | exact Evolves.refl _ | assumption | apply setGroup_ev | apply reach_ev
    | apply ite_ev | exact MailboxKeeps.same rfl rfl | exact rfl | exact TrustKeeps.refl _ | exact StacksKeep.refl _
    | exact same9 | exact lmap_length .. | exact List.length_map .. | exact List.length_modify .. | split | dsimp only)

theorem execPowerStateEntryDone_ev {group} {s : State} : OutcomeKeeps false false s (execPowerStateEntryDone group s) := by
  unfold execPowerStateEntryDone
  repeat' with_reducible (first
    | refine guardUnit_ev ?_ | refine next_ev ?_ | exact Evolves.refl _ | assumption | apply applyState_ev | apply reach_ev
    | apply setGroup_ev | exact MailboxKeeps.same rfl rfl | exact rfl | exact TrustKeeps.refl _ | exact StacksKeep.refl _
    | exact off | exact TrustKeeps.same rfl rfl rfl rfl rfl rfl rfl rfl rfl id
    | exact TrustKeeps.wiped rfl rfl rfl rfl rfl rfl rfl rfl rfl id | exact commitImage_keeps _ _ | exact returned_keeps _
    | exact wdogMgmt_keeps _ | exact wdogSeq_keeps _ | exact wdogLane_keeps _ | exact wdogTb_keeps _ | exact lcErr_keeps _
    | exact lmap_length .. | exact List.length_map .. | exact List.length_modify .. | split)

theorem execPowerExitDone_ev {group} {s : State} : OutcomeKeeps false false s (execPowerExitDone group s) := by
  unfold execPowerExitDone
  repeat' with_reducible (first
    | refine guardUnit_ev ?_ | refine next_ev ?_ | exact Evolves.refl _ | assumption | apply reach_ev | apply emitAll_ev
    | apply applyState_ev | apply setGroup_ev | exact MailboxKeeps.same rfl rfl | exact rfl | exact TrustKeeps.refl _
    | exact StacksKeep.refl _ | exact off | exact TrustKeeps.same rfl rfl rfl rfl rfl rfl rfl rfl rfl id
    | exact TrustKeeps.wiped rfl rfl rfl rfl rfl rfl rfl rfl rfl id | exact commitImage_keeps _ _ | exact returned_keeps _
    | exact wdogMgmt_keeps _ | exact wdogSeq_keeps _ | exact wdogLane_keeps _ | exact wdogTb_keeps _ | exact lcErr_keeps _
    | exact lmap_length .. | exact List.length_map .. | exact List.length_modify .. | split)

theorem execWakePoint_ev {group} {s : State} : OutcomeKeeps qt bt s (execWakePoint group s) := by
  unfold execWakePoint
  repeat' with_reducible (first
    | refine guardUnit_ev ?_ | refine next_ev ?_ | exact Evolves.refl _ | assumption | apply startExit_ev | apply reach_ev
    | apply ite_ev | exact MailboxKeeps.same rfl rfl | exact rfl | exact TrustKeeps.refl _ | exact StacksKeep.refl _
    | exact same9 | exact lmap_length .. | exact List.length_map .. | exact List.length_modify .. | split)

theorem execPowerLoopTick_ev {watts celsius} {s : State} : OutcomeKeeps false bt s (execPowerLoopTick watts celsius s) := by
  unfold execPowerLoopTick
  repeat' with_reducible (first
    | refine guardUnit_ev ?_ | refine next_ev ?_ | exact Evolves.refl _ | assumption | apply coolThrottles_ev | apply reach_ev
    | apply forEach_ev | apply powerStep_ev | apply thermalStep_ev | apply ite_ev | exact MailboxKeeps.same rfl rfl | exact rfl
    | exact TrustKeeps.refl _ | exact StacksKeep.refl _ | exact off
    | exact TrustKeeps.same rfl rfl rfl rfl rfl rfl rfl rfl rfl id
    | exact TrustKeeps.wiped rfl rfl rfl rfl rfl rfl rfl rfl rfl id | exact commitImage_keeps _ _ | exact returned_keeps _
    | exact wdogMgmt_keeps _ | exact wdogSeq_keeps _ | exact wdogLane_keeps _ | exact wdogTb_keeps _ | exact lcErr_keeps _
    | exact lmap_length .. | exact List.length_map .. | exact List.length_modify .. | split | dsimp only
    | refine Evolves.update ?_ ?_ ?_ ?_ ?_ ?_ ?_ ?_ ?_ ?_ ?_ ?_ | exact List.length_set .. | apply id_ev
    | exact fun _ => noteFaults_keeps | intro _ _ _)

theorem execHwThrottle_ev {die} {s : State} : OutcomeKeeps false bt s (execHwThrottle die s) := by
  unfold execHwThrottle
  repeat' with_reducible (first
    | refine guardUnit_ev ?_ | refine next_ev ?_ | exact Evolves.refl _ | assumption | apply setStack_ev | apply ite_ev
    | exact fun _ => addErrors_keeps | exact fun _ => ⟨fun h => Memory.wf_write _ _ h, off⟩ | exact fun _ => ⟨id, fun _ => rfl⟩
    | exact fun _ => touchChecks_keeps | exact fun _ => findFailing_keeps | exact fun _ => flushChecks_keeps
    | exact MailboxKeeps.same rfl rfl | exact rfl | exact TrustKeeps.refl _ | exact StacksKeep.refl _ | exact off
    | exact TrustKeeps.same rfl rfl rfl rfl rfl rfl rfl rfl rfl id
    | exact TrustKeeps.wiped rfl rfl rfl rfl rfl rfl rfl rfl rfl id | exact commitImage_keeps _ _ | exact returned_keeps _
    | exact wdogMgmt_keeps _ | exact wdogSeq_keeps _ | exact wdogLane_keeps _ | exact wdogTb_keeps _ | exact lcErr_keeps _
    | exact lmap_length .. | exact List.length_map .. | exact List.length_modify .. | split | dsimp only
    | refine Evolves.update ?_ ?_ ?_ ?_ ?_ ?_ ?_ ?_ ?_ ?_ ?_ ?_)

theorem execSpillStart_ev {die} {s : State} : OutcomeKeeps qt bt s (execSpillStart die s) := by
  refine guardUnit_ev (onDie_ev (.refl s) fun s h => ?_)
  split
  · exact h
  · split
    · exact elim_ev h fun _ => abortGen_ev h
    · exact setAcc_ev (setStack_ev h fun _ => ⟨id, fun _ => rfl⟩)

theorem execSpillAck_ev {die traverse gen chain} {s : State} : OutcomeKeeps qt bt s (execSpillAck die traverse gen chain s) := by
  unfold execSpillAck
  repeat' with_reducible (first
    | refine guardUnit_ev ?_ | refine next_ev ?_ | exact Evolves.refl _ | assumption | apply setAcc_ev)

theorem execFillDone_ev {die traverse gen chain} {s : State} : OutcomeKeeps qt false s (execFillDone die traverse gen chain s) := by
  unfold execFillDone
  repeat' with_reducible (first
    | refine guardUnit_ev ?_ | refine next_ev ?_ | exact Evolves.refl _ | assumption | apply forEach_ev | apply decodeCount_ev
    | apply declareDue_ev | apply loseAcc_ev | apply setAcc_ev | apply freeAcc_ev | apply settleGen_ev | apply ite_ev
    | exact MailboxKeeps.same rfl rfl | exact rfl | exact TrustKeeps.refl _ | exact StacksKeep.refl _ | exact same9
    | exact lmap_length .. | exact List.length_map .. | exact List.length_modify .. | split | dsimp only
    | refine Evolves.update ?_ ?_ ?_ ?_ ?_ ?_ ?_ ?_ ?_ ?_ ?_ ?_ | exact List.length_set .. | apply id_ev
    | exact fun _ => noteFaults_keeps | intro _ _ _)

theorem execScatterAdd_ev {die} {s : State} : OutcomeKeeps qt false s (execScatterAdd die s) := by
  unfold execScatterAdd
  repeat' with_reducible (first
    | refine guardUnit_ev ?_ | refine next_ev ?_ | exact Evolves.refl _ | assumption | apply onDie_ev | apply takeHead_ev
    | apply bump_ev | apply loseSectors_ev | apply forEach_ev | apply addOne_ev | apply setRegion_ev | apply ite_ev
    | exact MailboxKeeps.same rfl rfl | exact rfl | exact TrustKeeps.refl _ | exact StacksKeep.refl _ | exact same9
    | exact lmap_length .. | exact List.length_map .. | exact List.length_modify .. | split | dsimp only
    | refine Evolves.update ?_ ?_ ?_ ?_ ?_ ?_ ?_ ?_ ?_ ?_ ?_ ?_ | exact List.length_set .. | apply id_ev
    | exact fun _ => noteFaults_keeps | intro _ _ _ | intro _ _)

theorem execPatrolScrubLine_ev {stack faults} {s : State} : OutcomeKeeps qt false s (execPatrolScrubLine stack faults s) := by
  unfold execPatrolScrubLine
  repeat' with_reducible (first
    | refine guardUnit_ev ?_ | refine next_ev ?_ | exact Evolves.refl _ | assumption | apply setStack_ev | apply decodeLine_ev
    | apply ite_ev | exact fun _ => addErrors_keeps | exact fun _ => ⟨fun h => Memory.wf_write _ _ h, off⟩
    | exact fun _ => ⟨id, fun _ => rfl⟩ | exact fun _ => touchChecks_keeps | exact fun _ => findFailing_keeps
    | exact fun _ => flushChecks_keeps | exact MailboxKeeps.same rfl rfl | exact rfl | exact TrustKeeps.refl _
    | exact StacksKeep.refl _ | exact same9 | exact lmap_length .. | exact List.length_map .. | exact List.length_modify ..
    | split | dsimp only | refine Evolves.update ?_ ?_ ?_ ?_ ?_ ?_ ?_ ?_ ?_ ?_ ?_ ?_ | exact List.length_set .. | apply id_ev
    | exact fun _ => noteFaults_keeps)

theorem execMapoutStart_ev {stack} {s : State} : OutcomeKeeps qt bt s (execMapoutStart stack s) := by
  unfold execMapoutStart
  repeat' with_reducible (first
    | refine guardUnit_ev ?_ | refine next_ev ?_ | exact Evolves.refl _ | assumption | apply forEach_ev | apply moveSpilled_ev
    | apply setStack_ev | apply ite_ev | exact fun _ => addErrors_keeps | exact fun _ => ⟨fun h => Memory.wf_write _ _ h, off⟩
    | exact fun _ => ⟨id, fun _ => rfl⟩ | exact fun _ => touchChecks_keeps | exact fun _ => findFailing_keeps
    | exact fun _ => flushChecks_keeps | exact MailboxKeeps.same rfl rfl | exact rfl | exact TrustKeeps.refl _
    | exact StacksKeep.refl _ | exact same9 | exact lmap_length .. | exact List.length_map .. | exact List.length_modify ..
    | split | dsimp only | refine Evolves.update ?_ ?_ ?_ ?_ ?_ ?_ ?_ ?_ ?_ ?_ ?_ ?_ | exact List.length_set .. | apply id_ev
    | exact fun _ => noteFaults_keeps | intro _ _ _)

theorem execMapoutDone_ev {stack faults} {s : State} : OutcomeKeeps qt false s (execMapoutDone stack faults s) := by
  unfold execMapoutDone
  repeat' with_reducible (first
    | refine guardUnit_ev ?_ | refine next_ev ?_ | exact Evolves.refl _ | assumption | apply reach_ev | apply forEach_ev
    | apply decodeLine_ev | apply loseMutedRest_ev | apply loseMuted_ev | apply setStack_ev | apply journalEvent_ev
    | apply ite_ev | exact fun _ => addErrors_keeps | exact fun _ => ⟨fun h => Memory.wf_write _ _ h, off⟩
    | exact fun _ => ⟨id, fun _ => rfl⟩ | exact fun _ => touchChecks_keeps | exact fun _ => findFailing_keeps
    | exact fun _ => flushChecks_keeps | exact MailboxKeeps.same rfl rfl | exact rfl | exact TrustKeeps.refl _
    | exact StacksKeep.refl _ | exact same9 | exact lmap_length .. | exact List.length_map .. | exact List.length_modify ..
    | split | dsimp only | refine Evolves.update ?_ ?_ ?_ ?_ ?_ ?_ ?_ ?_ ?_ ?_ ?_ ?_ | exact List.length_set .. | apply id_ev
    | exact fun _ => noteFaults_keeps | intro _ _ _)

theorem execZeroingLine_ev {stack} {s : State} : OutcomeKeeps qt false s (execZeroingLine stack s) := by
  unfold execZeroingLine
  repeat' with_reducible (first
    | refine guardUnit_ev ?_ | refine next_ev ?_ | exact Evolves.refl _ | assumption | apply storeZeros_ev | apply setStack_ev
    | apply ite_ev | exact fun _ => addErrors_keeps | exact fun _ => ⟨fun h => Memory.wf_write _ _ h, off⟩
    | exact fun _ => ⟨id, fun _ => rfl⟩ | exact fun _ => touchChecks_keeps | exact fun _ => findFailing_keeps
    | exact fun _ => flushChecks_keeps | exact MailboxKeeps.same rfl rfl | exact rfl | exact TrustKeeps.refl _
    | exact StacksKeep.refl _ | exact same9 | exact lmap_length .. | exact List.length_map .. | exact List.length_modify ..
    | split)

theorem execPoolAuditDone_ev {s : State} : OutcomeKeeps qt bt s (execPoolAuditDone s) := by
  unfold execPoolAuditDone
  repeat' with_reducible (first
    | refine guardUnit_ev ?_ | refine next_ev ?_ | exact Evolves.refl _ | assumption | (refine poolAudit_ev' ?_ (by assumption))
    | apply poolAudit_ev | apply writeHost_ev | apply auditReady_ev | apply ite_ev | exact MailboxKeeps.same rfl rfl | exact rfl
    | exact TrustKeeps.refl _ | exact StacksKeep.refl _ | exact same9 | exact lmap_length .. | exact List.length_map ..
    | exact List.length_modify .. | split)

theorem endLedgerWalk_ev {s0 s : State} (h : Evolves qt false s0 s) : Evolves qt false s0 (endLedgerWalk s) := by
  unfold endLedgerWalk
  repeat' with_reducible (first
    | exact h | assumption | apply ledgerAudit_ev | apply workPairs_ev | apply ite_ev | exact MailboxKeeps.same rfl rfl | exact rfl
    | exact TrustKeeps.refl _ | exact StacksKeep.refl _ | exact same9 | split | dsimp only
    | refine Evolves.update ?_ ?_ ?_ ?_ ?_ ?_ ?_ ?_ ?_ ?_ ?_ ?_)

theorem execLedgerAuditDone_ev {faults} {s : State} : OutcomeKeeps qt false s (execLedgerAuditDone faults s) :=
  guardUnit_ev (endLedgerWalk_ev (forEach_ev (Evolves.refl _) fun _ _ k => setStack_ev k fun _ => noteFaults_keeps))

theorem execArraySelftestDone_ev {die columns} {s : State} : OutcomeKeeps qt false s (execArraySelftestDone die columns s) := by
  unfold execArraySelftestDone
  repeat' with_reducible (first
    | refine guardUnit_ev ?_ | refine next_ev ?_ | exact Evolves.refl _ | assumption | apply setDie_ev | apply forEach_ev
    | apply settleGen_ev | apply ite_ev | split | dsimp only | exact List.length_set .. | apply id_ev
    | exact fun _ => noteFaults_keeps | intro _ _ _)

theorem execBasisReady_ev {slot} {s : State} : OutcomeKeeps false bt s (execBasisReady slot s) := by
  unfold execBasisReady
  repeat' with_reducible (first
    | refine guardUnit_ev ?_ | refine next_ev ?_ | exact Evolves.refl _ | assumption | apply writeStores_ev | apply setMailbox_ev
    | apply ite_ev | exact ⟨fun h => Memory.wf_write _ _ h, id⟩ | exact ⟨fun h => Memory.wf_zero_all _ h, id⟩ | apply getD_ev
    | exact MailboxKeeps.same rfl rfl | exact rfl | exact TrustKeeps.refl _ | exact StacksKeep.refl _
    | exact off | exact TrustKeeps.same rfl rfl rfl rfl rfl rfl rfl rfl rfl id
    | exact TrustKeeps.wiped rfl rfl rfl rfl rfl rfl rfl rfl rfl id | exact commitImage_keeps _ _ | exact returned_keeps _
    | exact wdogMgmt_keeps _ | exact wdogSeq_keeps _ | exact wdogLane_keeps _ | exact wdogTb_keeps _ | exact lcErr_keeps _
    | exact lmap_length .. | exact List.length_map .. | exact List.length_modify .. | split | dsimp only
    | refine Evolves.update ?_ ?_ ?_ ?_ ?_ ?_ ?_ ?_ ?_ ?_ ?_ ?_ | exact List.length_set ..)

theorem execQuery_ev {c} {s : State} : OutcomeKeeps qt bt s (execQuery c s) := runCommand_ev fun _ _ => queryVerdict_ev

theorem execFieldbookRead_ev {c} {s : State} : OutcomeKeeps qt bt s (execFieldbookRead c s) := runCommand_ev fun _ _ => fieldbookVerdict_ev

theorem execParcelCreate_ev {c} {s : State} : OutcomeKeeps false bt s (execParcelCreate c s) := runCommand_ev fun _ _ => parcelVerdict_ev

theorem execSetPlat_ev {c} {s : State} : OutcomeKeeps false bt s (execSetPlat c s) := runCommand_ev fun _ _ => parcelVerdict_ev

theorem execParcelRemove_ev {c} {s : State} : OutcomeKeeps false bt s (execParcelRemove c s) := runCommand_ev fun _ _ => parcelVerdict_ev

theorem execPlatSet_ev {c} {s : State} : OutcomeKeeps qt bt s (execPlatSet c s) := runCommand_ev fun _ _ => phaseVerdict_ev

theorem execMapSelectImmediate_ev {c} {s : State} : OutcomeKeeps qt bt s (execMapSelectImmediate c s) := runCommand_ev fun _ _ => selectVerdict_ev

theorem execMapSelectAction_ev {c} {s : State} : OutcomeKeeps qt bt s (execMapSelectAction c s) := runCommand_ev fun _ _ => selectVerdict_ev

theorem execMapSelectDelete_ev {c} {s : State} : OutcomeKeeps qt bt s (execMapSelectDelete c s) := runCommand_ev fun _ _ => selectVerdict_ev

theorem execRouteStage_ev {c} {s : State} : OutcomeKeeps qt bt s (execRouteStage c s) := runCommand_ev fun _ _ => stageVerdict_ev

theorem execRouteCommit_ev {c} {s : State} : OutcomeKeeps qt bt s (execRouteCommit c s) := runCommand_ev fun _ _ => commitVerdict_ev

theorem execMirrorSet_ev {c} {s : State} : OutcomeKeeps qt bt s (execMirrorSet c s) := runCommand_ev fun _ _ => mirrorVerdict_ev

theorem execMirrorSetPart_ev {c} {s : State} : OutcomeKeeps qt bt s (execMirrorSetPart c s) := runCommand_ev fun _ _ => mirrorVerdict_ev

theorem execBudgetSet_ev {c} {s : State} : OutcomeKeeps false bt s (execBudgetSet c s) := runCommand_ev fun _ _ => budgetVerdict_ev

theorem execStationSource_ev {c} {s : State} : OutcomeKeeps false bt s (execStationSource c s) := runCommand_ev fun _ _ => sourceVerdict_ev

theorem execStationSourceOff_ev {c} {s : State} : OutcomeKeeps false bt s (execStationSourceOff c s) := runCommand_ev fun _ _ => sourceVerdict_ev

theorem execFwStage_ev {c} {s : State} : OutcomeKeeps qt bt s (execFwStage c s) := runCommand_ev fun _ _ => fwStageVerdict_ev

theorem execFwHandover_ev {c} {s : State} : OutcomeKeeps qt bt s (execFwHandover c s) := runCommand_ev fun _ _ => handoverVerdict_ev

theorem execFwHandoverCancel_ev {c} {s : State} : OutcomeKeeps qt bt s (execFwHandoverCancel c s) := runCommand_ev fun _ _ => handoverVerdict_ev

theorem execDebugOpen_ev {c} {s : State} : OutcomeKeeps false bt s (execDebugOpen c s) := runCommand_ev fun _ _ => debugVerdict_ev

theorem execTraverseOpen_ev {c} {s : State} : OutcomeKeeps qt bt s (execTraverseOpen c s) := runCommand_ev fun _ _ => openVerdict_ev

theorem execTraverseClose_ev {c} {s : State} : OutcomeKeeps qt bt s (execTraverseClose c s) := runCommand_ev fun _ _ => closeVerdict_ev

theorem execTraverseCloseForce_ev {c} {s : State} : OutcomeKeeps qt bt s (execTraverseCloseForce c s) := runCommand_ev fun _ _ => closeVerdict_ev

theorem execGenOpen_ev {c} {s : State} : OutcomeKeeps qt false s (execGenOpen c s) := runCommand_ev fun _ _ => genOpenVerdict_ev

theorem execTallySet_ev {c} {s : State} : OutcomeKeeps qt bt s (execTallySet c s) := runCommand_ev fun _ _ => tallyVerdict_ev

theorem execTallySetFree_ev {c} {s : State} : OutcomeKeeps qt bt s (execTallySetFree c s) := runCommand_ev fun _ _ => tallyVerdict_ev

theorem execMemberRemap_ev {c} {s : State} : OutcomeKeeps qt bt s (execMemberRemap c s) := runCommand_ev fun _ _ => memberVerdict_ev

theorem execAdmitRestartOnly_ev {c} {s : State} : OutcomeKeeps qt bt s (execAdmitRestartOnly c s) := runCommand_ev fun _ _ => memberVerdict_ev

theorem execAdmitWarm_ev {c} {s : State} : OutcomeKeeps qt bt s (execAdmitWarm c s) := runCommand_ev fun _ _ => memberVerdict_ev

theorem execBasisLoad_ev {c} {s : State} : OutcomeKeeps false bt s (execBasisLoad c s) := runCommand_ev fun _ _ => basisVerdict_ev

theorem execBasisBind_ev {c} {s : State} : OutcomeKeeps false bt s (execBasisBind c s) := runCommand_ev fun _ _ => basisVerdict_ev

theorem execNormReadLocal_ev {c} {s : State} : OutcomeKeeps qt false s (execNormReadLocal c s) := runCommand_ev fun _ _ => normVerdict_ev

theorem execNormReadRead_ev {c} {s : State} : OutcomeKeeps qt false s (execNormReadRead c s) := runCommand_ev fun _ _ => normVerdict_ev

theorem execServeArm_ev {c} {s : State} : OutcomeKeeps qt bt s (execServeArm c s) := runCommand_ev fun _ _ => serveVerdict_ev

theorem execServeDisarm_ev {c} {s : State} : OutcomeKeeps qt bt s (execServeDisarm c s) := runCommand_ev fun _ _ => serveVerdict_ev

theorem execLedgerAllocCreate_ev {c} {s : State} : OutcomeKeeps false bt s (execLedgerAllocCreate c s) := runCommand_ev fun _ _ => allocVerdict_ev

theorem execLedgerAllocChange_ev {c} {s : State} : OutcomeKeeps false bt s (execLedgerAllocChange c s) := runCommand_ev fun _ _ => allocVerdict_ev

theorem execLedgerAllocFree_ev {c} {s : State} : OutcomeKeeps false bt s (execLedgerAllocFree c s) := runCommand_ev fun _ _ => allocVerdict_ev

theorem execLedgerLoad_ev {c} {s : State} : OutcomeKeeps qt bt s (execLedgerLoad c s) := runCommand_ev fun _ _ => loadVerdict_ev

theorem execLedgerLoadZero_ev {c} {s : State} : OutcomeKeeps qt bt s (execLedgerLoadZero c s) := runCommand_ev fun _ _ => loadVerdict_ev

theorem execLedgerSave_ev {c} {s : State} : OutcomeKeeps qt false s (execLedgerSave c s) := by
  intro t ht
  exact (decodeSave_ev (.refl s)).trans (runCommand_ev (fun _ _ => saveVerdict_ev) t ht)

theorem execApply_ev {c} {s : State} : OutcomeKeeps qt bt s (execApply c s) := runCommand_ev fun _ _ => applyVerdict_ev

theorem execApplyDiscard_ev {c} {s : State} : OutcomeKeeps qt bt s (execApplyDiscard c s) := runCommand_ev fun _ _ => applyVerdict_ev

theorem execEasementGrant_ev {c} {s : State} : OutcomeKeeps qt bt s (execEasementGrant c s) := runCommand_ev fun _ _ => easementVerdict_ev

theorem execEasementRevoke_ev {c} {s : State} : OutcomeKeeps qt bt s (execEasementRevoke c s) := runCommand_ev fun _ _ => easementVerdict_ev

theorem execAuditReadPool_ev {c} {s : State} : OutcomeKeeps qt bt s (execAuditReadPool c s) := runCommand_ev fun _ _ => auditVerdict_ev

theorem execAuditReadLedger_ev {c} {s : State} : OutcomeKeeps qt bt s (execAuditReadLedger c s) := runCommand_ev fun _ _ => auditVerdict_ev

theorem execAuditReadScheduled_ev {c} {s : State} : OutcomeKeeps qt bt s (execAuditReadScheduled c s) := runCommand_ev fun _ _ => auditVerdict_ev

theorem execCommandEffectEnd_ev {seq} {s : State} : OutcomeKeeps qt false s (execCommandEffectEnd seq s) := by
  unfold execCommandEffectEnd
  repeat' with_reducible (first
    | refine guardUnit_ev ?_ | refine next_ev ?_ | exact Evolves.refl _ | assumption
    | (refine performEnding_ev' ?_ (by assumption)) | apply performEnding_ev | apply completeRunning_ev | apply releaseRegion_ev
    | apply emitAll_ev | exact MailboxKeeps.same rfl rfl | exact rfl | exact TrustKeeps.refl _ | exact StacksKeep.refl _
    | exact same9 | exact lmap_length .. | exact List.length_map .. | exact List.length_modify .. | split)

theorem execPairEnable_ev {a pair value} {s : State} : OutcomeKeeps qt bt s (execPairEnable a pair value s) := by
  unfold execPairEnable
  repeat' with_reducible (first
    | refine guardUnit_ev ?_ | refine next_ev ?_ | exact Evolves.refl _ | assumption | apply pairWrite_ev | apply ite_ev)

theorem execPairDisable_ev {a pair value} {s : State} : OutcomeKeeps qt bt s (execPairDisable a pair value s) := by
  unfold execPairDisable
  repeat' with_reducible (first
    | refine guardUnit_ev ?_ | refine next_ev ?_ | exact Evolves.refl _ | assumption | apply pairWrite_ev | apply ite_ev)

theorem execCmdDoorbell_ev {a pair value} {s : State} : OutcomeKeeps qt bt s (execCmdDoorbell a pair value s) := by
  unfold execCmdDoorbell
  repeat' with_reducible (first
    | refine guardUnit_ev ?_ | refine next_ev ?_ | exact Evolves.refl _ | assumption | apply pairWrite_ev)

theorem execCmpDoorbell_ev {a pair value} {s : State} : OutcomeKeeps qt bt s (execCmpDoorbell a pair value s) := by
  unfold execCmpDoorbell
  repeat' with_reducible (first
    | refine guardUnit_ev ?_ | refine next_ev ?_ | exact Evolves.refl _ | assumption | apply pairWrite_ev)

theorem execRegisterWrite_ev {a offset value} {s : State} : OutcomeKeeps qt bt s (execRegisterWrite a offset value s) := by
  unfold execRegisterWrite
  repeat' with_reducible (first
    | refine guardUnit_ev ?_ | refine next_ev ?_ | exact Evolves.refl _ | assumption | apply writeRegister_ev | apply ite_ev)

theorem execRingMemoryWrite_ev {a offset bytes} {s : State} : OutcomeKeeps qt bt s (execRingMemoryWrite a offset bytes s) := by
  unfold execRingMemoryWrite
  repeat' with_reducible (first
    | refine guardUnit_ev ?_ | refine next_ev ?_ | exact Evolves.refl _ | assumption | apply writeRing_ev | apply ite_ev)

theorem execPairAbandoned_ev {s : State} : OutcomeKeeps qt bt s (execPairAbandoned s) := by
  unfold execPairAbandoned
  repeat' with_reducible (first
    | refine guardUnit_ev ?_ | refine next_ev ?_ | exact Evolves.refl _ | assumption | apply reach_ev | apply setMailbox_ev
    | apply ite_ev | exact ⟨fun h => Memory.wf_write _ _ h, id⟩ | exact ⟨fun h => Memory.wf_zero_all _ h, id⟩
    | exact MailboxKeeps.same rfl rfl)

theorem execMgmtCommandFrame_ev {s : State} : OutcomeKeeps qt bt s (execMgmtCommandFrame s) := by
  unfold execMgmtCommandFrame
  repeat' with_reducible (first
    | refine guardUnit_ev ?_ | refine next_ev ?_ | exact Evolves.refl _ | assumption | apply mdTake_ev
    | apply takeCommandFrame_ev | exact List.length_set .. | apply id_ev | exact fun _ => noteFaults_keeps | intro _ _ _)

theorem execMgmtRegRead_ev {s : State} : OutcomeKeeps qt bt s (execMgmtRegRead s) := by
  unfold execMgmtRegRead
  repeat' with_reducible (first
    | refine guardUnit_ev ?_ | refine next_ev ?_ | exact Evolves.refl _ | assumption | apply mdTake_ev | apply foreignWrite_ev
    | apply noteInBandPort_ev | apply touchZero_ev | apply mdSend_ev | apply ite_ev | split | dsimp only
    | exact List.length_set .. | apply id_ev | exact fun _ => noteFaults_keeps | intro _ _ _)

theorem execMgmtRegWrite_ev {s : State} : OutcomeKeeps qt bt s (execMgmtRegWrite s) := by
  unfold execMgmtRegWrite
  repeat' with_reducible (first
    | refine guardUnit_ev ?_ | refine next_ev ?_ | exact Evolves.refl _ | assumption | apply mdTake_ev | apply foreignWrite_ev
    | apply regWrite_ev | apply noteInBandPort_ev | apply ite_ev | split | dsimp only | exact List.length_set .. | apply id_ev
    | exact fun _ => noteFaults_keeps | intro _ _ _)

theorem takeMark_ev {tb} {s0 s : State} (h : Evolves false false s0 s) : Evolves false false s0 (takeMark tb s) := by
  unfold takeMark
  repeat' with_reducible (first
    | exact h | assumption | apply setTimebase_ev | apply bump_ev
    | apply meetMark_ev | apply ite_ev | apply getD_ev | exact MailboxKeeps.same rfl rfl | exact rfl
    | exact TrustKeeps.refl _ | exact StacksKeep.refl _ | exact off
    | exact TrustKeeps.same rfl rfl rfl rfl rfl rfl rfl rfl rfl id
    | exact TrustKeeps.wiped rfl rfl rfl rfl rfl rfl rfl rfl rfl id | exact commitImage_keeps _ _ | exact returned_keeps _
    | exact wdogMgmt_keeps _ | exact wdogSeq_keeps _ | exact wdogLane_keeps _ | exact wdogTb_keeps _ | exact lcErr_keeps _
    | exact lmap_length .. | exact List.length_map .. | exact List.length_modify .. | split)

theorem loseRecordsOf_ev {lost} {s0 s : State} (h : Evolves false bt s0 s) : Evolves false bt s0 (loseRecordsOf lost s) :=
  forEach_ev h fun _ _ k => loseReplica_ev k

theorem execStationMark_ev {mark} {s : State} : OutcomeKeeps false false s (execStationMark mark s) :=
  guardUnit_ev (takeMark_ev (loseRecordsOf_ev (Evolves.refl _)))

theorem execStationInWord_ev {word} {s : State} : OutcomeKeeps false false s (execStationInWord word s) := by
  unfold execStationInWord
  repeat' with_reducible (first
    | refine guardUnit_ev ?_ | refine next_ev ?_ | exact Evolves.refl _ | assumption | apply forEach_ev | apply pinWord_ev
    | apply getD_ev | exact List.length_set .. | apply id_ev | exact fun _ => noteFaults_keeps
    | intro _ _ _)

theorem execActionConfirm_ev {ordinal} {s : State} : OutcomeKeeps qt bt s (execActionConfirm ordinal s) := by
  unfold execActionConfirm
  repeat' with_reducible (first
    | refine guardUnit_ev ?_ | refine next_ev ?_ | exact Evolves.refl _ | assumption | exact MailboxKeeps.same rfl rfl
    | exact rfl | exact TrustKeeps.refl _ | exact StacksKeep.refl _ | exact same9 | exact lmap_length ..
    | exact List.length_map .. | exact List.length_modify .. | refine Evolves.update ?_ ?_ ?_ ?_ ?_ ?_ ?_ ?_ ?_ ?_ ?_ ?_)

theorem execReplicaSync_ev {s : State} : OutcomeKeeps false bt s (execReplicaSync s) := next_ev (syncReplica_ev (Evolves.refl _))

theorem execStationTimeout_ev {tb stream} {s : State} : OutcomeKeeps false bt s (execStationTimeout tb stream s) := by
  unfold execStationTimeout
  repeat' with_reducible (first
    | refine guardUnit_ev ?_ | refine next_ev ?_ | exact Evolves.refl _ | assumption | apply reach_ev | apply setStreamAt_ev
    | apply yieldEvent_ev | apply stationEvent_ev | apply forEach_ev | apply exitIfDeep_ev | apply ite_ev | apply getD_ev
    | exact MailboxKeeps.same rfl rfl | exact rfl | exact TrustKeeps.refl _ | exact StacksKeep.refl _
    | exact off | exact TrustKeeps.same rfl rfl rfl rfl rfl rfl rfl rfl rfl id
    | exact TrustKeeps.wiped rfl rfl rfl rfl rfl rfl rfl rfl rfl id | exact commitImage_keeps _ _ | exact returned_keeps _
    | exact wdogMgmt_keeps _ | exact wdogSeq_keeps _ | exact wdogLane_keeps _ | exact wdogTb_keeps _ | exact lcErr_keeps _
    | exact lmap_length .. | exact List.length_map .. | exact List.length_modify .. | split | dsimp only
    | refine Evolves.update ?_ ?_ ?_ ?_ ?_ ?_ ?_ ?_ ?_ ?_ ?_ ?_ | exact List.length_set .. | apply id_ev
    | exact fun _ => noteFaults_keeps | intro _ _ _)

theorem execHandoverEnd_ev {outcome} {s : State} : OutcomeKeeps false false s (execHandoverEnd outcome s) := by
  unfold execHandoverEnd
  repeat' with_reducible (first
    | refine guardUnit_ev ?_ | refine next_ev ?_ | exact Evolves.refl _ | assumption | apply endHandover_ev
    | exact MailboxKeeps.same rfl rfl | exact rfl | exact TrustKeeps.refl _ | exact StacksKeep.refl _ | exact off
    | exact TrustKeeps.same rfl rfl rfl rfl rfl rfl rfl rfl rfl id
    | exact TrustKeeps.wiped rfl rfl rfl rfl rfl rfl rfl rfl rfl id | exact commitImage_keeps _ _ | exact returned_keeps _
    | exact wdogMgmt_keeps _ | exact wdogSeq_keeps _ | exact wdogLane_keeps _ | exact wdogTb_keeps _ | exact lcErr_keeps _
    | exact lmap_length .. | exact List.length_map .. | exact List.length_modify .. | split)

theorem execSupplyRailEvent_ev {rail event} {s : State} : OutcomeKeeps false false s (execSupplyRailEvent rail event s) := by
  unfold execSupplyRailEvent
  repeat' with_reducible (first
    | refine guardUnit_ev ?_ | refine next_ev ?_ | exact Evolves.refl _ | assumption | apply unwatched_ev | apply settleRails_ev
    | apply riseTen_ev | apply riseNinety_ev | apply fallNinety_ev | apply fallTen_ev | apply outside_ev | apply setRail_ev
    | apply ite_ev | exact MailboxKeeps.same rfl rfl | exact rfl | exact TrustKeeps.refl _ | exact StacksKeep.refl _ | exact off
    | exact TrustKeeps.same rfl rfl rfl rfl rfl rfl rfl rfl rfl id
    | exact TrustKeeps.wiped rfl rfl rfl rfl rfl rfl rfl rfl rfl id | exact commitImage_keeps _ _ | exact returned_keeps _
    | exact wdogMgmt_keeps _ | exact wdogSeq_keeps _ | exact wdogLane_keeps _ | exact wdogTb_keeps _ | exact lcErr_keeps _
    | exact lmap_length .. | exact List.length_map .. | exact List.length_modify .. | split)

theorem execVddAonRise_ev {s : State} : OutcomeKeeps false false s (execVddAonRise s) := by
  unfold execVddAonRise
  repeat' with_reducible (first
    | refine guardUnit_ev ?_ | refine next_ev ?_ | exact Evolves.refl _ | assumption | apply loseAon_ev | apply setRail_ev
    | apply enterFault_ev | apply ite_ev | exact MailboxKeeps.same rfl rfl | exact rfl | exact TrustKeeps.refl _
    | exact StacksKeep.refl _ | exact off | exact TrustKeeps.same rfl rfl rfl rfl rfl rfl rfl rfl rfl id
    | exact TrustKeeps.wiped rfl rfl rfl rfl rfl rfl rfl rfl rfl id | exact commitImage_keeps _ _ | exact returned_keeps _
    | exact wdogMgmt_keeps _ | exact wdogSeq_keeps _ | exact wdogLane_keeps _ | exact wdogTb_keeps _ | exact lcErr_keeps _
    | exact lmap_length .. | exact List.length_map .. | exact List.length_modify .. | split | dsimp only
    | refine Evolves.update ?_ ?_ ?_ ?_ ?_ ?_ ?_ ?_ ?_ ?_ ?_ ?_)

theorem execResetNAssert_ev {lowNs} {s : State} : OutcomeKeeps false false s (execResetNAssert lowNs s) := by
  unfold execResetNAssert
  repeat' with_reducible (first
    | refine guardUnit_ev ?_ | refine next_ev ?_ | exact Evolves.refl _ | assumption | apply announceIdle_ev | apply clearPart_ev
    | apply ite_ev | exact MailboxKeeps.same rfl rfl | exact rfl | exact TrustKeeps.refl _ | exact StacksKeep.refl _ | exact off
    | exact TrustKeeps.same rfl rfl rfl rfl rfl rfl rfl rfl rfl id
    | exact TrustKeeps.wiped rfl rfl rfl rfl rfl rfl rfl rfl rfl id | exact commitImage_keeps _ _ | exact returned_keeps _
    | exact wdogMgmt_keeps _ | exact wdogSeq_keeps _ | exact wdogLane_keeps _ | exact wdogTb_keeps _ | exact lcErr_keeps _
    | exact lmap_length .. | exact List.length_map .. | exact List.length_modify .. | split | dsimp only
    | refine Evolves.update ?_ ?_ ?_ ?_ ?_ ?_ ?_ ?_ ?_ ?_ ?_ ?_)

theorem execResetNRelease_ev {s : State} : OutcomeKeeps false bt s (execResetNRelease s) := by
  unfold execResetNRelease
  repeat' with_reducible (first
    | refine guardUnit_ev ?_ | refine next_ev ?_ | exact Evolves.refl _ | assumption | apply ite_ev
    | exact MailboxKeeps.same rfl rfl | exact rfl | exact TrustKeeps.refl _ | exact StacksKeep.refl _ | exact off
    | exact TrustKeeps.same rfl rfl rfl rfl rfl rfl rfl rfl rfl id
    | exact TrustKeeps.wiped rfl rfl rfl rfl rfl rfl rfl rfl rfl id | exact commitImage_keeps _ _ | exact returned_keeps _
    | exact wdogMgmt_keeps _ | exact wdogSeq_keeps _ | exact wdogLane_keeps _ | exact wdogTb_keeps _ | exact lcErr_keeps _
    | exact lmap_length .. | exact List.length_map .. | exact List.length_modify .. | split | dsimp only
    | refine Evolves.update ?_ ?_ ?_ ?_ ?_ ?_ ?_ ?_ ?_ ?_ ?_ ?_)

theorem execResetReleaseEffective_ev {tests} {s : State} : OutcomeKeeps false bt s (execResetReleaseEffective tests s) := by
  unfold execResetReleaseEffective
  repeat' with_reducible (first
    | refine guardUnit_ev ?_ | refine next_ev ?_ | exact Evolves.refl _ | assumption | apply reach_ev
    | (refine finishWipe_ev' ?_ (by assumption)) | apply finishWipe_ev | apply giveIdentity_ev | apply applyTests_ev
    | apply ite_ev | apply getD_ev | exact MailboxKeeps.same rfl rfl | exact rfl
    | exact TrustKeeps.refl _ | exact StacksKeep.refl _ | exact off
    | exact TrustKeeps.same rfl rfl rfl rfl rfl rfl rfl rfl rfl id
    | exact TrustKeeps.wiped rfl rfl rfl rfl rfl rfl rfl rfl rfl id | exact commitImage_keeps _ _ | exact returned_keeps _
    | exact wdogMgmt_keeps _ | exact wdogSeq_keeps _ | exact wdogLane_keeps _ | exact wdogTb_keeps _ | exact lcErr_keeps _
    | exact lmap_length .. | exact List.length_map .. | exact List.length_modify .. | split | dsimp only
    | refine Evolves.update ?_ ?_ ?_ ?_ ?_ ?_ ?_ ?_ ?_ ?_ ?_ ?_)

theorem execBootVerifyDone_ev {flashFound selfTest} {s : State} : OutcomeKeeps qt bt s (execBootVerifyDone flashFound selfTest s) := by
  unfold execBootVerifyDone
  repeat' with_reducible (first
    | refine guardUnit_ev ?_ | refine next_ev ?_ | exact Evolves.refl _ | assumption | apply bootFails_ev | apply noteCode_ev
    | apply startFirmware_ev | apply ite_ev | exact MailboxKeeps.same rfl rfl | exact rfl | exact TrustKeeps.refl _
    | exact StacksKeep.refl _ | exact same9 | exact lmap_length .. | exact List.length_map .. | exact List.length_modify ..
    | split | dsimp only | refine Evolves.update ?_ ?_ ?_ ?_ ?_ ?_ ?_ ?_ ?_ ?_ ?_ ?_)

theorem execBootReady_ev {s : State} : OutcomeKeeps false bt s (execBootReady s) := by
  unfold execBootReady
  repeat' with_reducible (first
    | refine guardUnit_ev ?_ | refine next_ev ?_ | exact Evolves.refl _ | assumption | apply forEach_ev | apply zeroSoon_ev
    | apply journalEvent_ev | apply startInBand_ev | apply postFirmware_ev | apply ite_ev | exact MailboxKeeps.same rfl rfl
    | exact rfl | exact TrustKeeps.refl _ | exact StacksKeep.refl _ | exact off
    | exact TrustKeeps.same rfl rfl rfl rfl rfl rfl rfl rfl rfl id
    | exact TrustKeeps.wiped rfl rfl rfl rfl rfl rfl rfl rfl rfl id | exact commitImage_keeps _ _ | exact returned_keeps _
    | exact wdogMgmt_keeps _ | exact wdogSeq_keeps _ | exact wdogLane_keeps _ | exact wdogTb_keeps _ | exact lcErr_keeps _
    | exact lmap_length .. | exact List.length_map .. | exact List.length_modify .. | split | dsimp only
    | refine Evolves.update ?_ ?_ ?_ ?_ ?_ ?_ ?_ ?_ ?_ ?_ ?_ ?_ | exact List.length_set .. | apply id_ev
    | exact fun _ => noteFaults_keeps | intro _ _ _)

theorem execMpPerstAssert_ev {endpoint} {s : State} : OutcomeKeeps qt bt s (execMpPerstAssert endpoint s) := by
  unfold execMpPerstAssert
  repeat' with_reducible (first
    | refine guardUnit_ev ?_ | refine next_ev ?_ | exact Evolves.refl _ | assumption | apply setMailbox_ev
    | exact ⟨fun h => Memory.wf_write _ _ h, id⟩ | exact ⟨fun h => Memory.wf_zero_all _ h, id⟩ | exact MailboxKeeps.same rfl rfl)

theorem execMpPerstRelease_ev {endpoint} {s : State} : OutcomeKeeps qt bt s (execMpPerstRelease endpoint s) := by
  unfold execMpPerstRelease
  repeat' with_reducible (first
    | refine guardUnit_ev ?_ | refine next_ev ?_ | exact Evolves.refl _ | assumption | apply setMailbox_ev
    | exact ⟨fun h => Memory.wf_write _ _ h, id⟩ | exact ⟨fun h => Memory.wf_zero_all _ h, id⟩ | exact MailboxKeeps.same rfl rfl)

theorem execThermtrip_ev {die} {s : State} : OutcomeKeeps false false s (execThermtrip die s) := by
  unfold execThermtrip
  repeat' with_reducible (first
    | refine guardUnit_ev ?_ | refine next_ev ?_ | exact Evolves.refl _ | assumption | apply clearPart_ev | apply getD_ev
    | exact MailboxKeeps.same rfl rfl | exact rfl | exact TrustKeeps.refl _ | exact StacksKeep.refl _
    | exact off | exact TrustKeeps.same rfl rfl rfl rfl rfl rfl rfl rfl rfl id
    | exact TrustKeeps.wiped rfl rfl rfl rfl rfl rfl rfl rfl rfl id | exact commitImage_keeps _ _ | exact returned_keeps _
    | exact wdogMgmt_keeps _ | exact wdogSeq_keeps _ | exact wdogLane_keeps _ | exact wdogTb_keeps _ | exact lcErr_keeps _
    | exact lmap_length .. | exact List.length_map .. | exact List.length_modify .. | dsimp only
    | refine Evolves.update ?_ ?_ ?_ ?_ ?_ ?_ ?_ ?_ ?_ ?_ ?_ ?_)

theorem execRefclkInputLost_ev {input} {s : State} : OutcomeKeeps false false s (execRefclkInputLost input s) := by
  unfold execRefclkInputLost
  repeat' with_reducible (first
    | refine guardUnit_ev ?_ | refine next_ev ?_ | exact Evolves.refl _ | assumption | apply bump_ev | apply stopForwarding_ev
    | apply ite_ev | apply getD_ev | exact MailboxKeeps.same rfl rfl | exact rfl
    | exact TrustKeeps.refl _ | exact StacksKeep.refl _ | exact off
    | exact TrustKeeps.same rfl rfl rfl rfl rfl rfl rfl rfl rfl id
    | exact TrustKeeps.wiped rfl rfl rfl rfl rfl rfl rfl rfl rfl id | exact commitImage_keeps _ _ | exact returned_keeps _
    | exact wdogMgmt_keeps _ | exact wdogSeq_keeps _ | exact wdogLane_keeps _ | exact wdogTb_keeps _ | exact lcErr_keeps _
    | exact lmap_length .. | exact List.length_map .. | exact List.length_modify .. | split | dsimp only
    | refine Evolves.update ?_ ?_ ?_ ?_ ?_ ?_ ?_ ?_ ?_ ?_ ?_ ?_)

theorem execRefclkInputReturn_ev {input} {s : State} : OutcomeKeeps false bt s (execRefclkInputReturn input s) := by
  unfold execRefclkInputReturn
  repeat' with_reducible (first
    | refine guardUnit_ev ?_ | refine next_ev ?_ | exact Evolves.refl _ | assumption | apply ite_ev | apply getD_ev
    | exact MailboxKeeps.same rfl rfl | exact rfl | exact TrustKeeps.refl _ | exact StacksKeep.refl _
    | exact off | exact TrustKeeps.same rfl rfl rfl rfl rfl rfl rfl rfl rfl id
    | exact TrustKeeps.wiped rfl rfl rfl rfl rfl rfl rfl rfl rfl id | exact commitImage_keeps _ _ | exact returned_keeps _
    | exact wdogMgmt_keeps _ | exact wdogSeq_keeps _ | exact wdogLane_keeps _ | exact wdogTb_keeps _ | exact lcErr_keeps _
    | exact lmap_length .. | exact List.length_map .. | exact List.length_modify .. | split
    | refine Evolves.update ?_ ?_ ?_ ?_ ?_ ?_ ?_ ?_ ?_ ?_ ?_ ?_)

theorem execXdHeartbeatMiss_ev {failure} {s : State} : OutcomeKeeps false false s (execXdHeartbeatMiss failure s) := by
  unfold execXdHeartbeatMiss
  repeat' with_reducible (first
    | refine guardUnit_ev ?_ | refine next_ev ?_ | exact Evolves.refl _ | assumption | apply failCrossbar_ev | apply ite_ev)

theorem execLedgerHeartbeatMiss_ev {pair stackSilent} {s : State} : OutcomeKeeps qt false s (execLedgerHeartbeatMiss pair stackSilent s) := by
  unfold execLedgerHeartbeatMiss
  repeat' with_reducible (first
    | refine guardUnit_ev ?_ | refine next_ev ?_ | exact Evolves.refl _ | assumption | apply failPair_ev | apply ite_ev)

theorem execMdHeartbeatMiss_ev {s : State} : OutcomeKeeps qt bt s (execMdHeartbeatMiss s) := by
  unfold execMdHeartbeatMiss
  repeat' with_reducible (first
    | refine guardUnit_ev ?_ | refine next_ev ?_ | exact Evolves.refl _ | assumption | apply failMd_ev | apply ite_ev)

theorem execMdFirmwareFault_ev {s : State} : OutcomeKeeps qt bt s (execMdFirmwareFault s) := by
  unfold execMdFirmwareFault
  repeat' with_reducible (first
    | refine guardUnit_ev ?_ | refine next_ev ?_ | exact Evolves.refl _ | assumption | apply restartMd_ev | apply ite_ev)

theorem execMgmtWatchdogExpiry_ev {core} {s : State} : OutcomeKeeps false bt s (execMgmtWatchdogExpiry core s) := by
  unfold execMgmtWatchdogExpiry
  repeat' with_reducible (first
    | refine guardUnit_ev ?_ | refine next_ev ?_ | exact Evolves.refl _ | assumption | apply restartMd_ev | apply ite_ev
    | exact MailboxKeeps.same rfl rfl | exact rfl | exact TrustKeeps.refl _ | exact StacksKeep.refl _ | exact off
    | exact TrustKeeps.same rfl rfl rfl rfl rfl rfl rfl rfl rfl id
    | exact TrustKeeps.wiped rfl rfl rfl rfl rfl rfl rfl rfl rfl id | exact commitImage_keeps _ _ | exact returned_keeps _
    | exact wdogMgmt_keeps _ | exact wdogSeq_keeps _ | exact wdogLane_keeps _ | exact wdogTb_keeps _ | exact lcErr_keeps _
    | exact lmap_length .. | exact List.length_map .. | exact List.length_modify .. | split
    | refine Evolves.update ?_ ?_ ?_ ?_ ?_ ?_ ?_ ?_ ?_ ?_ ?_ ?_)

theorem execSeqWatchdogExpiry_ev {die} {s : State} : OutcomeKeeps false false s (execSeqWatchdogExpiry die s) := by
  unfold execSeqWatchdogExpiry
  repeat' with_reducible (first
    | refine guardUnit_ev ?_ | refine next_ev ?_ | exact Evolves.refl _ | assumption | apply spoilHandover_ev | apply setDie_ev
    | apply failPair_ev | apply ite_ev | exact MailboxKeeps.same rfl rfl | exact rfl | exact TrustKeeps.refl _
    | exact StacksKeep.refl _ | exact off | exact TrustKeeps.same rfl rfl rfl rfl rfl rfl rfl rfl rfl id
    | exact TrustKeeps.wiped rfl rfl rfl rfl rfl rfl rfl rfl rfl id | exact commitImage_keeps _ _ | exact returned_keeps _
    | exact wdogMgmt_keeps _ | exact wdogSeq_keeps _ | exact wdogLane_keeps _ | exact wdogTb_keeps _ | exact lcErr_keeps _
    | exact lmap_length .. | exact List.length_map .. | exact List.length_modify .. | split | dsimp only
    | refine Evolves.update ?_ ?_ ?_ ?_ ?_ ?_ ?_ ?_ ?_ ?_ ?_ ?_)

theorem execLaneWatchdogExpiry_ev {chiplet} {s : State} : OutcomeKeeps false false s (execLaneWatchdogExpiry chiplet s) := by
  unfold execLaneWatchdogExpiry
  repeat' with_reducible (first
    | refine guardUnit_ev ?_ | refine next_ev ?_ | exact Evolves.refl _ | assumption | apply spoilHandover_ev | apply forEach_ev
    | apply idlePort_ev | apply setPort_ev | apply retrain_ev | apply ite_ev | apply getD_ev
    | exact MailboxKeeps.same rfl rfl | exact rfl | exact TrustKeeps.refl _ | exact StacksKeep.refl _ | exact off
    | exact TrustKeeps.same rfl rfl rfl rfl rfl rfl rfl rfl rfl id
    | exact TrustKeeps.wiped rfl rfl rfl rfl rfl rfl rfl rfl rfl id | exact commitImage_keeps _ _ | exact returned_keeps _
    | exact wdogMgmt_keeps _ | exact wdogSeq_keeps _ | exact wdogLane_keeps _ | exact wdogTb_keeps _ | exact lcErr_keeps _
    | exact lmap_length .. | exact List.length_map .. | exact List.length_modify .. | split | dsimp only
    | refine Evolves.update ?_ ?_ ?_ ?_ ?_ ?_ ?_ ?_ ?_ ?_ ?_ ?_ | exact List.length_set .. | apply id_ev
    | exact fun _ => noteFaults_keeps | intro _ _ _)

theorem execTimebaseWatchdogExpiry_ev {tb} {s : State} : OutcomeKeeps false false s (execTimebaseWatchdogExpiry tb s) := by
  unfold execTimebaseWatchdogExpiry
  repeat' with_reducible (first
    | refine guardUnit_ev ?_ | refine next_ev ?_ | exact Evolves.refl _ | assumption | apply spoilHandover_ev
    | apply setTimebase_ev | apply passActive_ev | apply stopTimebase_ev | apply ite_ev | apply getD_ev
    | exact MailboxKeeps.same rfl rfl | exact rfl | exact TrustKeeps.refl _ | exact StacksKeep.refl _
    | exact off | exact TrustKeeps.same rfl rfl rfl rfl rfl rfl rfl rfl rfl id
    | exact TrustKeeps.wiped rfl rfl rfl rfl rfl rfl rfl rfl rfl id | exact commitImage_keeps _ _ | exact returned_keeps _
    | exact wdogMgmt_keeps _ | exact wdogSeq_keeps _ | exact wdogLane_keeps _ | exact wdogTb_keeps _ | exact lcErr_keeps _
    | exact lmap_length .. | exact List.length_map .. | exact List.length_modify .. | split | dsimp only
    | refine Evolves.update ?_ ?_ ?_ ?_ ?_ ?_ ?_ ?_ ?_ ?_ ?_ ?_)

theorem execTimebaseHeartbeatMiss_ev {tb} {s : State} : OutcomeKeeps false false s (execTimebaseHeartbeatMiss tb s) := by
  unfold execTimebaseHeartbeatMiss
  repeat' with_reducible (first
    | refine guardUnit_ev ?_ | refine next_ev ?_ | exact Evolves.refl _ | assumption | apply stopTimebase_ev
    | apply passActive_ev | apply ite_ev)

theorem execDeadmanExpiry_ev {s : State} : OutcomeKeeps false false s (execDeadmanExpiry s) := by
  unfold execDeadmanExpiry
  repeat' with_reducible (first
    | refine guardUnit_ev ?_ | refine next_ev ?_ | exact Evolves.refl _ | assumption | apply failClosed_ev | apply ite_ev
    | exact MailboxKeeps.same rfl rfl | exact rfl | exact TrustKeeps.refl _ | exact StacksKeep.refl _ | exact off
    | exact TrustKeeps.same rfl rfl rfl rfl rfl rfl rfl rfl rfl id
    | exact TrustKeeps.wiped rfl rfl rfl rfl rfl rfl rfl rfl rfl id | exact commitImage_keeps _ _ | exact returned_keeps _
    | exact wdogMgmt_keeps _ | exact wdogSeq_keeps _ | exact wdogLane_keeps _ | exact wdogTb_keeps _ | exact lcErr_keeps _
    | exact lmap_length .. | exact List.length_map .. | exact List.length_modify .. | split | dsimp only
    | refine Evolves.update ?_ ?_ ?_ ?_ ?_ ?_ ?_ ?_ ?_ ?_ ?_ ?_)

theorem execExtest_ev {shiftIn} {s : State} : OutcomeKeeps false bt s (execExtest shiftIn s) := by
  unfold execExtest
  repeat' with_reducible (first
    | refine guardUnit_ev ?_ | refine next_ev ?_ | exact Evolves.refl _ | assumption | apply withTap_ev | apply draw_ev
    | apply shiftOut_ev | exact MailboxKeeps.same rfl rfl | exact rfl | exact TrustKeeps.refl _ | exact StacksKeep.refl _
    | exact off | exact TrustKeeps.same rfl rfl rfl rfl rfl rfl rfl rfl rfl id
    | exact TrustKeeps.wiped rfl rfl rfl rfl rfl rfl rfl rfl rfl id | exact commitImage_keeps _ _ | exact returned_keeps _
    | exact wdogMgmt_keeps _ | exact wdogSeq_keeps _ | exact wdogLane_keeps _ | exact wdogTb_keeps _ | exact lcErr_keeps _
    | exact lmap_length .. | exact List.length_map .. | exact List.length_modify ..
    | refine Evolves.update ?_ ?_ ?_ ?_ ?_ ?_ ?_ ?_ ?_ ?_ ?_ ?_ | exact List.length_set .. | apply id_ev
    | exact fun _ => noteFaults_keeps | intro _ _ _ | intro _ _)

theorem execSamplePreload_ev {pins shiftIn} {s : State} : OutcomeKeeps false bt s (execSamplePreload pins shiftIn s) := by
  unfold execSamplePreload
  repeat' with_reducible (first
    | refine guardUnit_ev ?_ | refine next_ev ?_ | exact Evolves.refl _ | assumption | apply withTap_ev | apply shiftOut_ev
    | exact MailboxKeeps.same rfl rfl | exact rfl | exact TrustKeeps.refl _ | exact StacksKeep.refl _ | exact off
    | exact TrustKeeps.same rfl rfl rfl rfl rfl rfl rfl rfl rfl id
    | exact TrustKeeps.wiped rfl rfl rfl rfl rfl rfl rfl rfl rfl id | exact commitImage_keeps _ _ | exact returned_keeps _
    | exact wdogMgmt_keeps _ | exact wdogSeq_keeps _ | exact wdogLane_keeps _ | exact wdogTb_keeps _ | exact lcErr_keeps _
    | exact lmap_length .. | exact List.length_map .. | exact List.length_modify ..
    | refine Evolves.update ?_ ?_ ?_ ?_ ?_ ?_ ?_ ?_ ?_ ?_ ?_ ?_ | exact List.length_set .. | apply id_ev
    | exact fun _ => noteFaults_keeps | intro _ _ _ | intro _ _)

theorem execIdcode_ev {s : State} : OutcomeKeeps false bt s (execIdcode s) := by
  unfold execIdcode
  repeat' with_reducible (first
    | refine guardUnit_ev ?_ | refine next_ev ?_ | exact Evolves.refl _ | assumption | apply withTap_ev | apply shiftOut_ev
    | apply letGo_ev | exact List.length_set .. | apply id_ev | exact fun _ => noteFaults_keeps | intro _ _ _ | intro _ _)

theorem execClamp_ev {s : State} : OutcomeKeeps false bt s (execClamp s) := by
  unfold execClamp
  repeat' with_reducible (first
    | refine guardUnit_ev ?_ | refine next_ev ?_ | exact Evolves.refl _ | assumption | apply withTap_ev | apply shiftOut_ev
    | exact MailboxKeeps.same rfl rfl | exact rfl | exact TrustKeeps.refl _ | exact StacksKeep.refl _ | exact off
    | exact TrustKeeps.same rfl rfl rfl rfl rfl rfl rfl rfl rfl id
    | exact TrustKeeps.wiped rfl rfl rfl rfl rfl rfl rfl rfl rfl id | exact commitImage_keeps _ _ | exact returned_keeps _
    | exact wdogMgmt_keeps _ | exact wdogSeq_keeps _ | exact wdogLane_keeps _ | exact wdogTb_keeps _ | exact lcErr_keeps _
    | exact lmap_length .. | exact List.length_map .. | exact List.length_modify ..
    | refine Evolves.update ?_ ?_ ?_ ?_ ?_ ?_ ?_ ?_ ?_ ?_ ?_ ?_ | exact List.length_set .. | apply id_ev
    | exact fun _ => noteFaults_keeps | intro _ _ _ | intro _ _)

theorem execHighz_ev {s : State} : OutcomeKeeps false bt s (execHighz s) := by
  unfold execHighz
  repeat' with_reducible (first
    | refine guardUnit_ev ?_ | refine next_ev ?_ | exact Evolves.refl _ | assumption | apply withTap_ev | apply shiftOut_ev
    | exact MailboxKeeps.same rfl rfl | exact rfl | exact TrustKeeps.refl _ | exact StacksKeep.refl _ | exact off
    | exact TrustKeeps.same rfl rfl rfl rfl rfl rfl rfl rfl rfl id
    | exact TrustKeeps.wiped rfl rfl rfl rfl rfl rfl rfl rfl rfl id | exact commitImage_keeps _ _ | exact returned_keeps _
    | exact wdogMgmt_keeps _ | exact wdogSeq_keeps _ | exact wdogLane_keeps _ | exact wdogTb_keeps _ | exact lcErr_keeps _
    | exact lmap_length .. | exact List.length_map .. | exact List.length_modify ..
    | refine Evolves.update ?_ ?_ ?_ ?_ ?_ ?_ ?_ ?_ ?_ ?_ ?_ ?_ | exact List.length_set .. | apply id_ev
    | exact fun _ => noteFaults_keeps | intro _ _ _ | intro _ _)

theorem execBypass_ev {code shiftIn} {s : State} : OutcomeKeeps false bt s (execBypass code shiftIn s) := by
  unfold execBypass
  repeat' with_reducible (first
    | refine guardUnit_ev ?_ | refine next_ev ?_ | exact Evolves.refl _ | assumption | apply withTap_ev | apply shiftOut_ev
    | apply letGo_ev | apply ite_ev | split | exact List.length_set .. | apply id_ev | exact fun _ => noteFaults_keeps
    | intro _ _ _ | intro _ _)

theorem execTapReset_ev {s : State} : OutcomeKeeps false bt s (execTapReset s) := by
  unfold execTapReset
  repeat' with_reducible (first
    | refine guardUnit_ev ?_ | refine next_ev ?_ | exact Evolves.refl _ | assumption | apply withTap_ev | apply shiftOut_ev
    | apply letGo_ev | exact List.length_set .. | apply id_ev | exact fun _ => noteFaults_keeps | intro _ _ _ | intro _ _)

theorem execSupplyRec_ev {s : State} : OutcomeKeeps false bt s (execSupplyRec s) := by
  unfold execSupplyRec
  repeat' with_reducible (first
    | refine guardUnit_ev ?_ | refine next_ev ?_ | exact Evolves.refl _ | assumption | apply withTap_ev | apply shiftOut_ev
    | apply letGo_ev | exact List.length_set .. | apply id_ev | exact fun _ => noteFaults_keeps | intro _ _ _ | intro _ _)

theorem execTdState_ev {s : State} : OutcomeKeeps false bt s (execTdState s) := by
  unfold execTdState
  repeat' with_reducible (first
    | refine guardUnit_ev ?_ | refine next_ev ?_ | exact Evolves.refl _ | assumption | apply withTap_ev | apply shiftOut_ev
    | apply letGo_ev | exact List.length_set .. | apply id_ev | exact fun _ => noteFaults_keeps | intro _ _ _ | intro _ _)

theorem execBootLog_ev {s : State} : OutcomeKeeps false bt s (execBootLog s) := by
  unfold execBootLog
  repeat' with_reducible (first
    | refine guardUnit_ev ?_ | refine next_ev ?_ | exact Evolves.refl _ | assumption | apply withTap_ev | apply shiftOut_ev
    | apply letGo_ev | exact List.length_set .. | apply id_ev | exact fun _ => noteFaults_keeps | intro _ _ _ | intro _ _)

theorem execMonumentRead_ev {s : State} : OutcomeKeeps false bt s (execMonumentRead s) := by
  unfold execMonumentRead
  repeat' with_reducible (first
    | refine guardUnit_ev ?_ | refine next_ev ?_ | exact Evolves.refl _ | assumption | apply withTap_ev | apply shiftOut_ev
    | apply letGo_ev | dsimp only | exact List.length_set .. | apply id_ev | exact fun _ => noteFaults_keeps | intro _ _ _
    | intro _ _)

theorem execAttest_ev {nonce} {s : State} : OutcomeKeeps false bt s (execAttest nonce s) := by
  unfold execAttest
  repeat' with_reducible (first
    | refine guardUnit_ev ?_ | refine next_ev ?_ | exact Evolves.refl _ | assumption | apply withTap_ev | apply shiftOut_ev
    | apply letGo_ev | exact List.length_set .. | apply id_ev | exact fun _ => noteFaults_keeps | intro _ _ _ | intro _ _)

theorem execLcTransition_ev {record} {s : State} : OutcomeKeeps false bt s (execLcTransition record s) := by
  refine next_ev (withTap_ev (.refl s) fun s h => ?_)
  have hs := shiftOut_ev (bits := 0) (value := 0) (letGo_ev h)
  dsimp only
  generalize shiftOut 0 0 (letGo s) = u at hs
  refine ite_ev hs ?_
  split
  · rename_i e
    obtain ⟨r, _, e⟩ := Option.bind_eq_some_iff.mp e
    exact transit_ev' hs e
  · exact .update hs (lcErr_keeps _) (.refl _) (.refl _) rfl rfl rfl rfl rfl rfl rfl nofun

theorem execDbgTrace_ev {dieId} {s : State} : OutcomeKeeps false bt s (execDbgTrace dieId s) := by
  unfold execDbgTrace
  repeat' with_reducible (first
    | refine guardUnit_ev ?_ | refine next_ev ?_ | exact Evolves.refl _ | assumption | apply withTap_ev | apply enterDebug_ev
    | apply letGo_ev | apply shiftOut_ev | apply draw_ev | apply ite_ev | exact MailboxKeeps.same rfl rfl | exact rfl
    | exact TrustKeeps.refl _ | exact StacksKeep.refl _ | exact off
    | exact TrustKeeps.same rfl rfl rfl rfl rfl rfl rfl rfl rfl id
    | exact TrustKeeps.wiped rfl rfl rfl rfl rfl rfl rfl rfl rfl id | exact commitImage_keeps _ _ | exact returned_keeps _
    | exact wdogMgmt_keeps _ | exact wdogSeq_keeps _ | exact wdogLane_keeps _ | exact wdogTb_keeps _ | exact lcErr_keeps _
    | exact lmap_length .. | exact List.length_map .. | exact List.length_modify .. | split | dsimp only
    | refine Evolves.update ?_ ?_ ?_ ?_ ?_ ?_ ?_ ?_ ?_ ?_ ?_ ?_ | exact List.length_set .. | apply id_ev
    | exact fun _ => noteFaults_keeps | intro _ _ _ | intro _ _)

theorem execDbgMem_ev {space address write} {s : State} : OutcomeKeeps false false s (execDbgMem space address write s) := by
  unfold execDbgMem
  repeat' with_reducible (first
    | refine guardUnit_ev ?_ | refine next_ev ?_ | exact Evolves.refl _ | assumption | apply withTap_ev | apply shiftOut_ev
    | apply enterDebug_ev | apply letGo_ev | apply onDieId_ev | apply debugWrite_ev | apply draw_ev | apply ite_ev
    | exact MailboxKeeps.same rfl rfl | exact rfl | exact TrustKeeps.refl _ | exact StacksKeep.refl _ | exact off
    | exact TrustKeeps.same rfl rfl rfl rfl rfl rfl rfl rfl rfl id
    | exact TrustKeeps.wiped rfl rfl rfl rfl rfl rfl rfl rfl rfl id | exact commitImage_keeps _ _ | exact returned_keeps _
    | exact wdogMgmt_keeps _ | exact wdogSeq_keeps _ | exact wdogLane_keeps _ | exact wdogTb_keeps _ | exact lcErr_keeps _
    | exact lmap_length .. | exact List.length_map .. | exact List.length_modify .. | split | dsimp only
    | refine Evolves.update ?_ ?_ ?_ ?_ ?_ ?_ ?_ ?_ ?_ ?_ ?_ ?_ | exact List.length_set .. | apply id_ev
    | exact fun _ => noteFaults_keeps | intro _ _ _ | intro _ _)

theorem execDbgCtrl_ev {dieId processor action} {s : State} : OutcomeKeeps false bt s (execDbgCtrl dieId processor action s) := by
  unfold execDbgCtrl
  repeat' with_reducible (first
    | refine guardUnit_ev ?_ | refine next_ev ?_ | exact Evolves.refl _ | assumption | apply withTap_ev | apply shiftOut_ev
    | apply enterDebug_ev | apply letGo_ev | apply onDieId_ev | apply debugControl_ev | apply ite_ev | split | dsimp only
    | exact List.length_set .. | apply id_ev | exact fun _ => noteFaults_keeps | intro _ _ _ | intro _ _)

end Sys2Proof.Laws
end

