-- ==== Sys2Proof/Laws/Tables.lean ====
section
/-! SUPPORT. Laws of the sparse tables and of the counters of Ops.lean: what a read gives after an update. -/
namespace Sys2Proof.Laws
open Sys2Proof.Machine

/-- A search for a key is not changed by leaving out entries of other keys. -/
theorem find_key_filter {α : Type} {p : Nat × α → Bool} {x : Nat} (hp : ∀ e : Nat × α, e.1 = x → p e = true) (l : List (Nat × α)) :
    ((l.filter p).find? fun e => e.1 == x) = l.find? fun e => e.1 == x := by
  induction l with
  | nil => rfl
  | cons e r ih =>
    by_cases he : e.1 = x
    · rw [List.filter_cons, if_pos (hp e he), List.find?_cons, List.find?_cons, show (e.1 == x) = true by simpa using he]
    · rw [List.filter_cons, List.find?_cons, show (e.1 == x) = false by simpa using he]
      split
      · rw [List.find?_cons, show (e.1 == x) = false by simpa using he]; exact ih
      · exact ih

/-- A search among entries of other keys finds none. -/
theorem find_key_none {α : Type} {p : Nat × α → Bool} {x : Nat} (hp : ∀ e : Nat × α, e.1 = x → p e = false) (l : List (Nat × α)) :
    ((l.filter p).find? fun e => e.1 == x) = none := by
  rw [List.find?_eq_none]
  intro e he
  have := (List.mem_filter.mp he).2
  intro hx
  rw [hp e (by simpa using hx)] at this
  cases this

theorem tget_tset_same {α : Type} (k : Nat) (v : α) (l : List (Nat × α)) : tget k (tset k v l) = some v := by
  unfold tget tset
  rw [List.find?_append, find_key_none (fun e he => by simp [he]), Option.none_or, List.find?_cons]
  simp

theorem tget_tset_other {α : Type} {j k : Nat} (h : j ≠ k) (v : α) (l : List (Nat × α)) : tget j (tset k v l) = tget j l := by
  unfold tget tset
  rw [List.find?_append, List.find?_cons, show ((k, v).1 == j) = false by simpa using Ne.symm h]
  congr 1
  rcases Nat.lt_or_gt_of_ne h with h | h
  · rw [find_key_filter (fun e he => by simpa [he] using h), find_key_none (fun e he => by simp [he]; omega), Option.or_none]
  · rw [find_key_none (fun e he => by simp [he]; omega), find_key_filter (fun e he => by simpa [he] using h), Option.none_or]

theorem tget_tdel_same {α : Type} (k : Nat) (l : List (Nat × α)) : tget k (tdel k l) = none := by
  unfold tget tdel
  rw [find_key_none (fun e he => by simp [he])]
  rfl

theorem tget_tdel_other {α : Type} {j k : Nat} (h : j ≠ k) (l : List (Nat × α)) : tget j (tdel k l) = tget j l := by
  unfold tget tdel
  rw [find_key_filter (fun e he => by simpa [he] using h)]

theorem tget_tmap_same {α : Type} (k : Nat) (f : α → α) (l : List (Nat × α)) : tget k (tmap k f l) = (tget k l).map f := by
  unfold tget tmap
  induction l with
  | nil => rfl
  | cons e r ih =>
    by_cases he : e.1 = k
    · simp [he]
    · have hb : (e.1 == k) = false := by simpa using he
      simp only [List.map_cons, hb, Bool.false_eq_true, ↓reduceIte, List.find?_cons]
      exact ih

theorem tget_tmap_other {α : Type} {j k : Nat} (h : j ≠ k) (f : α → α) (l : List (Nat × α)) : tget j (tmap k f l) = tget j l := by
  unfold tget tmap
  induction l with
  | nil => rfl
  | cons e r ih =>
    by_cases he : e.1 = k
    · have hj : (e.1 == j) = false := by simp [he, Ne.symm h]
      simp only [List.map_cons, show (e.1 == k) = true by simpa using he, ↓reduceIte, List.find?_cons, hj]
      exact ih
    · simp only [List.map_cons, show (e.1 == k) = false by simpa using he, Bool.false_eq_true, ↓reduceIte, List.find?_cons]
      cases (e.1 == j)
      · exact ih
      · rfl

/-- The element an update by index reaches, and the others. -/
theorem getD_lmap {α : Type} {i j : Nat} {f : α → α} {l : List α} {d : α} (h : i < l.length) :
    (lmap i f l).getD j d = if j = i then f (l.getD j d) else l.getD j d := by
  unfold lmap
  rw [List.getD_eq_getElem?_getD, List.getElem?_modify, List.getD_eq_getElem?_getD]
  by_cases hj : j = i
  · subst hj
    simp [List.getElem?_eq_getElem h]
  · rw [if_neg hj]
    cases h' : l[j]? with
    | none => rfl
    | some x => simp [Ne.symm hj]

/-- A counter that has been raised. -/
theorem counter_bumpBy_same (n number inst : Nat) (s : State) :
    (s.bumpBy n number inst).counter number inst = (s.counter number inst + n) % 2 ^ 64 := by
  unfold State.bumpBy State.counter counterSet
  dsimp only
  split
  · rename_i h0
    rw [h0]
    rw [List.find?_eq_none.mpr (by
      intro e he
      have := (List.mem_filter.mp he).2
      simpa using this)]
    rfl
  · rw [List.find?_cons]
    simp

theorem counter_bump_same (number inst : Nat) (s : State) :
    (s.bump number inst).counter number inst = (s.counter number inst + 1) % 2 ^ 64 := counter_bumpBy_same 1 number inst s

end Sys2Proof.Laws
end

