-- ==== Sys2Proof/Tests/Slice0.lean ====
section
/-! SUPPORT. The model's own tests. For each statement, one witness theorem: states and operands that meet the
premises of each of its clauses together; then well-formedness, with a term that each check refuses; then the worked examples of the spec. A
signature in a test was computed outside Lean from FIPS 186-5 with private scalar 1. -/
open Sys2Proof Sys2Proof.Machine
namespace Sys2Proof.Tests
set_option Elab.async false

/-! ### Small states -/

/-- A part that runs firmware, with a book kept and a usable pair. -/
def ready : State :=
  { State.reset with
    boot := { State.reset.boot with stage := .ready }
    supply := { State.reset.supply with inReset := false, held := false }
    trust := { State.reset.trust with lifecycle := .deployed }
    book := { State.reset.book with copy0 := true, copy1 := true }
    placement := { usable := [0, 1] } }

/-- Pair 0 of the state active, with command entry `e` in the slot it offers next: rings of one slot at bytes 0 and 4,096. -/
def ringed (e : Nat) (s : State) : State :=
  { s with mailbox := { s.mailbox with
      ring := Memory.write 0 (leBytes 256 e) []
      pairs := s.mailbox.pairs.set 0 { parcel := 0, active := true, enable := true, cmdTail := 1, cmpBase := 1,
                                       owner := some (.requester 0 1) } } }

/-- A command of an opcode for a parcel: EXPECT, arguments, buffer and data, with the CRC of its buffer. -/
def cmd (op parcel expect args : Nat) (buffer data : Bytes) : Command :=
  { pair := 0, buffer := buffer, bufferOk := true, data := data, dataOk := true
    entry := BitVec.ofNat 2048 (packFields [(0, 8, op), (16, 16, parcel), (32, 32, expect), (192, 17, buffer.length),
      (224, 32, crc32c buffer)] + args <<< 256) }

/-- The state with the command in pair 0's slot. -/
def asked (c : Command) (s : State) : State := ringed c.entry.toNat s

/-- A row of this form and these checks takes the command and accepts it. -/
def accepts (form : Cmd → Bool) (own : Cmd → State → CmdVerdict) (c : Command) (s : State) : Bool :=
  c.pair < 64 && s.takes c && form (s.loaded c) && (match verdictOf (commonChecks (s.loaded c) s) (own (s.loaded c) s) with
    | .accept _ => true
    | _ => false)

/-- What `accepts` decides is the premise of the completion statements. -/
theorem accepts_accepts {form own c} {s : State} (h : accepts form own c s = true) : ∃ a, Accepts form own c s a := by
  simp only [accepts, Bool.and_eq_true, decide_eq_true_eq] at h
  obtain ⟨⟨⟨h1, h2⟩, h3⟩, h4⟩ := h
  cases e : verdictOf (commonChecks (s.loaded c) s) (own (s.loaded c) s) with
  | accept a => exact ⟨a, h1, h2, h3, e⟩
  | reject a b => rw [e] at h4; cases h4
  | read a b v w => rw [e] at h4; cases h4

/-- A plat record that grants flow 1, port 1, basis slot 0 and some ledger. -/
def platRec : Bytes := leBytes 160 (packFields [(64, 64, 2), (128, 128, 2), (264, 8, 1), (288, 32, 8), (320, 16, 4), (336, 16, 4), (352, 16, 4)])

/-- The public key of the private scalar 1, and a consent record for parcel 1 with its signature under that key (computed from
FIPS 186-5 outside Lean), each half little-endian as R6 has the fields of a record. -/
def keyOne : Bytes := beBytes 96 0xaa87ca22be8b05378eb1c71ef320ad746e1d3b628ba79b9859f741e082542a385502f25dbf55296c3a545e3872760ab73617de4a96262c6f5d9e98bf9292dc29f8f41dbd289a147ce9da3113b5f0b8c00a60b1ce1d7e819d7a431d7c90ea0e5f
/-- The same halves with their least significant bytes first. -/
def little (bs : Bytes) : Bytes := (bs.take 48).reverse ++ (bs.drop 48).reverse
def consent : Bytes := leBytes 128 (packFields [(64, 16, 1), (96, 32, 1), (192, 64, 2 ^ 40)]) ++
  little (beBytes 96 0x283c1d7365ce4788f29f8ebf234edffead6fe997fbea5ffa2d58cc9dfa7b1c508b05526f55b9ebb2040f05b48fb6d0e1a61dc3ab7fb47e30c7215d021fe8b367d13928110ac4c640d184179152011451e374c226629f0e8d1819cebf785247d7)
def endpoint3 : Member := { port := 3, rankCount := 1 }
/-- A root REDUCE traverse of parcel 0 with one endpoint, at index 5. -/
def trav : Traverse := { ctx := { entries := [endpoint3] } }
def withTrav (v : Traverse) (s : State) : State := { s with traverses := [(5, v)] }
/-- The record that opens that traverse. -/
def ctxRec (first : Nat) : Bytes := leBytes 64 (packFields [(0, 12, 5), (14, 2, 2), (80, 8, 0xFF), (88, 8, 1), (96, 24, 1), (128, 32, 1), (224, 32, first)]) ++
  leBytes 16 (packFields [(0, 8, 3), (64, 32, 1)])
/-- A tally of parcel 0 with one endpoint, and its record. -/
def tally5 : Tally := { entries := [{ port := 3 }] }
def tallyRec : Bytes := leBytes 32 (packFields [(0, 12, 5), (32, 8, 0xFF), (48, 16, 1), (112, 24, 1), (160, 11, 16)]) ++ leBytes 16 3
/-- An action of parcel 0 with ordinal 9. -/
def withAction (k : ActionKind) (s : State) : State := { s with actions := [{ ordinal := 9, kind := k }] }
/-- Parcel 1 beside parcel 0. -/
def withParcel (s : State) : State := { s with parcels := s.parcels ++ [(1, { plat := { consentKey := BitVec.ofNat 768 (leNat (little keyOne)) } })] }
/-- Port 4 UP, long clean, an endpoint as its neighbour. -/
def port4Up (s : State) : State := { s with
  clock := 200000000, ports := s.ports.set 4 { state := .up, neighbour := BitVec.ofNat 192 (2 <<< 24) } }
def anyStep : Nat := 1 <<< 1544
def wParcelCreate := cmd 3 0 0 (0 + 1 <<< 16 + 4 <<< 64) platRec []
def wSetPlat := cmd 3 0 1 (1 + 1 <<< 16 + 4 <<< 64) platRec []
def wRemove := cmd 3 0 1 (2 + 1 <<< 16) [] []
def wPlat := cmd 4 0 1 1 (leBytes 528 (1 <<< 16)) []
def wSelect := cmd 0x10 0 1 0 [] []
def wSelectAction := cmd 0x10 0 1 (1 + 1 <<< 4 + anyStep) [] []
def wSelectDelete := cmd 0x10 0 1 (2 + 9 <<< 32) [] []
def wOpen := cmd 5 0 0 0 (ctxRec 0) []
def wOpenAgain := cmd 5 0 1 7 (ctxRec 7) []
def wClose := cmd 6 0 1 5 [] []
def wCloseForce := cmd 6 0 1 (5 + 2 ^ 12) [] []
def wGenOpen := cmd 7 0 1 (5 + 2 ^ 12 + 0x1FF <<< 16) [] []
def wRemap := cmd 0x16 0 1 (5 + 4 <<< 24) [] []
def wRestart := cmd 0x17 0 1 (5 + 4 <<< 24) [] []
def wWarm := cmd 0x17 0 1 (5 + 4 <<< 24 + 2 ^ 32 + 1 <<< 1584) [] []
def wTally := cmd 8 0 0 5 tallyRec []
def wTallyAgain := cmd 8 0 1 5 tallyRec []
def wTallyFree := cmd 8 0 1 (5 + 2 ^ 12) [] []
/-- Sixteen usable pairs whose stacks have zeroed space. -/
def wide (s : State) : State := { s with placement := { usable := List.range 16 } }
/-- A plain weight region of parcel 0 in slot 5, loaded, and the handle that names it. -/
def reg : Region := { loaded := [(0, 0)] }
def withRegion (r : Region) (s : State) : State := { s with regions := [(5, r)] }
def handle5 : Nat := 5 + 65536
/-- The same with a complete pending gradient of generation 3. -/
def regGrad : Region :=
  { kind := 1, gradValid := true, gradTraverse := 5, loaded := [(0, 0), (1, 0), (2, 0)], slot0 := some { gen := 3, complete := true } }
def regionRec : Bytes := leBytes 128 (packFields [(224, 40, 1)])
/-- A traverse whose member is the norm entry, and one with a kept accumulator. -/
def travNorm : Traverse := { ctx := { autoOpen := true, entries := [{ role := .region }] } }
def travKept : Traverse := { ctx := { entries := [endpoint3] }, kept := [(2, 0, {})] }
/-- A serve traverse. -/
def travServe : Traverse := { ctx := { kind := .broadcast, entries := [{ role := .region, region := handle5 }, endpoint3] } }
def travProject : Traverse := { ctx := { fmtIn := 3, fmtOut := 3, entries := [endpoint3] } }
def host (len : Nat) : Nat := len <<< 1760
def wAlloc := cmd 9 0 0 0 regionRec []
def wAllocChange := cmd 9 0 1 handle5 regionRec []
def wAllocFree := cmd 9 0 1 (handle5 + 2 ^ 32) [] []
def wLoad := cmd 0x0A 0 1 (handle5 + 1 <<< 96 + host 8192) [] []
def wLoadZero := cmd 0x0A 0 1 (handle5 + 2 ^ 34 + 1 <<< 96) [] []
def wSave := cmd 0x0B 0 1 (handle5 + 1 <<< 96 + host 8192) [] []
def wApply := cmd 0x0C 0 1 (handle5 + 3 <<< 64) [] []
def wDiscard := cmd 0x0C 0 1 (handle5 + 2 ^ 32 + 3 <<< 64) [] []
def wGrant := cmd 0x18 0 1 (handle5 + 1 <<< 32) [] []
def wRevoke := cmd 0x18 0 1 (handle5 + 1 <<< 32 + 2 ^ 48) [] []
def wNorm := cmd 0x0D 0 1 (5 <<< 16 + 2 <<< 32) [] []
def wNormRead := cmd 0x0D 0 1 (1 + 5 <<< 16 + 2 <<< 32) [] []
def wServe := cmd 0x0E 0 1 (5 + 1 <<< 16 + (2 ^ 6 + 2 ^ 8 + 2 ^ 9) <<< 1536) [] []
def wDisarm := cmd 0x0E 0 1 (5 + 2 ^ 12 + 9 <<< 64) [] []
def wBasis := cmd 0x0F 0 1 (16 <<< 8 + host 528) [] []
def wBind := cmd 0x0F 0 1 (1 + 5 <<< 16 + 2 ^ 28 + 2 ^ 29) [] []
def readyBasis (s : State) : State := { s with bases := s.bases.set 0 { state := .ready } }
def wStage := cmd 0x11 0 1 (1 <<< 16) (leBytes 32 (1 + 2 ^ (160 + 30))) []
def wCommit := cmd 0x12 0 1 0 [] []
def staged (s : State) : State := { s with routes := { s.routes with staged := [(0, { valid := true, internal := BitVec.ofNat 31 (2 ^ 30) })] } }
def wMirror := cmd 0x13 0 1 0 (leBytes 16 (2 ^ 4)) []
def wMirrorPart := cmd 0x13 0 1 (15 + 0xFF <<< 8) [] []
def wBudget := cmd 0x14 0 1 (2 ^ 19 + 1000 <<< 32 + 2 ^ 70) [] []
def wSource := cmd 0x15 0 1 (2 ^ 6 + 0xFF <<< 8 + 1 <<< 64) [] []
def wSourceOff := cmd 0x15 0 1 (2 ^ 7) [] []
def wFwStage := cmd 0x19 0 1 (1 + host 1025) [] []
def wHandover := cmd 0x1A 0 1 0 [] []
def wCancel := cmd 0x1A 0 1 (1 + 9 <<< 32) [] []
def wDebug := cmd 0x1B 0 0 1 [] []
def wDebugParcel := cmd 0x1B 0 0 (2 + 1 <<< 16) consent []
def wPool := cmd 0x1C 0 0 (host 3600) [] []
def wLedger := cmd 0x1C 0 1 (1 + handle5 <<< 32 + host 64) [] []
def wScheduled := cmd 0x1C 0 0 (4 + host 3600) [] []

/-! ### Witnesses: states and operands that meet every hypothesis of a statement's clauses together

`seen` asks a premise that the kernel decides; each clause of the named statement has its own line, in order. -/

set_option maxRecDepth 100000 in
/-- ParcelCommandsComplete. -/
theorem witness_parcelCommands :
    accepts (fun d => d.opcode = 3 ∧ (d.arg 0 2 = 0 ∨ d.arg 0 2 = 3)) parcelVerdict wParcelCreate (asked wParcelCreate ready) ∧
    accepts (fun d => d.opcode = 3 ∧ d.arg 0 2 = 1) parcelVerdict wSetPlat (asked wSetPlat (withParcel ready)) ∧
    accepts (fun d => d.opcode = 3 ∧ d.arg 0 2 = 2) parcelVerdict wRemove (asked wRemove (withParcel ready)) ∧
    accepts (fun d => d.opcode = 4) phaseVerdict wPlat (asked wPlat ready) ∧
    accepts (fun d => d.opcode = 0x10 ∧ (d.arg 0 2 = 0 ∨ d.arg 0 2 = 3)) selectVerdict wSelect (asked wSelect ready) ∧
    accepts (fun d => d.opcode = 0x10 ∧ d.arg 0 2 = 1) selectVerdict wSelectAction (asked wSelectAction ready) ∧
    accepts (fun d => d.opcode = 0x10 ∧ d.arg 0 2 = 2) selectVerdict wSelectDelete (asked wSelectDelete (withAction (.plat 0 1) ready)) := by
  decide +kernel

set_option maxRecDepth 100000 in
/-- TraverseAndTallyCommandsComplete. -/
theorem witness_traverseAndTallyCommands :
    (accepts (fun d => d.opcode = 5) openVerdict wOpen (asked wOpen ready) ∧ ctxIndex ((asked wOpen ready).loaded wOpen).buffer = 5) ∧
    (accepts (fun d => d.opcode = 5) openVerdict wOpenAgain (asked wOpenAgain (withTrav trav ready)) ∧
      (asked wOpenAgain (withTrav trav ready)).traverse (ctxIndex ((asked wOpenAgain (withTrav trav ready)).loaded wOpenAgain).buffer) = some trav) ∧
    accepts (fun d => d.opcode = 6 ∧ !d.flag 12) closeVerdict wClose (asked wClose (withTrav trav ready)) ∧
    accepts (fun d => d.opcode = 6 ∧ d.flag 12) closeVerdict wCloseForce (asked wCloseForce (withTrav trav ready)) ∧
    accepts (fun d => d.opcode = 7) genOpenVerdict wGenOpen (asked wGenOpen (withTrav trav ready)) ∧
    accepts (fun d => d.opcode = 0x16) memberVerdict wRemap (asked wRemap (port4Up (withTrav trav ready))) ∧
    accepts (fun d => d.opcode = 0x17 ∧ !d.flag 32) memberVerdict wRestart (asked wRestart (port4Up (withTrav trav ready))) ∧
    accepts (fun d => d.opcode = 0x17 ∧ d.flag 32) memberVerdict wWarm (asked wWarm (port4Up (withTrav trav ready))) ∧
    (accepts (fun d => d.opcode = 8 ∧ !d.flag 12) tallyVerdict wTally (asked wTally ready) ∧ (asked wTally ready).tally 5 = none) ∧
    accepts (fun d => d.opcode = 8 ∧ !d.flag 12) tallyVerdict wTallyAgain (asked wTallyAgain { ready with tallies := [(5, tally5)] }) ∧
    accepts (fun d => d.opcode = 8 ∧ d.flag 12) tallyVerdict wTallyFree (asked wTallyFree { ready with tallies := [(5, tally5)] }) := by
  decide +kernel

set_option maxRecDepth 100000 in
/-- LedgerCommandsComplete. -/
theorem witness_ledgerCommands :
    (accepts (fun d => d.opcode = 9 ∧ !d.flag 32 ∧ d.arg 0 32 = 0) allocVerdict wAlloc (asked wAlloc (wide ready)) ∧
      (allocExtents (asked wAlloc (wide ready)) ((regionOf regionRec).needs (asked wAlloc (wide ready)))).isLeft) ∧
    accepts (fun d => d.opcode = 9 ∧ !d.flag 32 ∧ d.arg 0 32 ≠ 0) allocVerdict wAllocChange (asked wAllocChange (withRegion reg ready)) ∧
    accepts (fun d => d.opcode = 9 ∧ d.flag 32) allocVerdict wAllocFree (asked wAllocFree (withRegion reg ready)) ∧
    (accepts (fun d => d.opcode = 0x0A ∧ !d.flag 34) loadVerdict wLoad (asked wLoad (withRegion reg ready)) ∧
      ready.reloadNeeds reg 0 0 1 = [] ∧ (allocExtents ready []).isLeft) ∧
    accepts (fun d => d.opcode = 0x0A ∧ d.flag 34) loadVerdict wLoadZero (asked wLoadZero (withRegion reg ready)) ∧
    accepts (fun d => d.opcode = 0x0B) saveVerdict wSave (decodeSave wSave (asked wSave (withRegion reg ready))) ∧
    accepts (fun d => d.opcode = 0x0C ∧ !d.flag 32) applyVerdict wApply (asked wApply (withRegion regGrad ready)) ∧
    (accepts (fun d => d.opcode = 0x0C ∧ d.flag 32) applyVerdict wDiscard (asked wDiscard (withRegion regGrad ready)) ∧ (regGrad.slotOf 3).isSome) ∧
    accepts (fun d => d.opcode = 0x18 ∧ !d.flag 48) easementVerdict wGrant (asked wGrant (withParcel (withRegion reg ready))) ∧
    accepts (fun d => d.opcode = 0x18 ∧ d.flag 48) easementVerdict wRevoke (asked wRevoke (withRegion { reg with grantees := [1] } ready)) := by
  decide +kernel

set_option maxRecDepth 100000 in
/-- NormServeBasisCommandsComplete. -/
theorem witness_normServeBasisCommands :
    accepts (fun d => d.opcode = 0x0D ∧ !d.flag 0) normVerdict wNorm (asked wNorm (withTrav travNorm ready)) ∧
    accepts (fun d => d.opcode = 0x0D ∧ d.flag 0) normVerdict wNormRead (asked wNormRead (withTrav travKept ready)) ∧
    accepts (fun d => d.opcode = 0x0E ∧ !d.flag 12) serveVerdict wServe (asked wServe (withTrav travServe ready)) ∧
    accepts (fun d => d.opcode = 0x0E ∧ d.flag 12) serveVerdict wDisarm (asked wDisarm (withAction (.prefetch 5 1 false 1) ready)) ∧
    accepts (fun d => d.opcode = 0x0F ∧ !d.flag 0) basisVerdict wBasis (asked wBasis ready) ∧
    accepts (fun d => d.opcode = 0x0F ∧ d.flag 0) basisVerdict wBind (asked wBind (readyBasis (withTrav travProject ready))) := by
  decide +kernel

set_option maxRecDepth 100000 in
/-- RouteMirrorBudgetStationCommandsComplete. -/
theorem witness_routeMirrorBudgetStationCommands :
    accepts (fun d => d.opcode = 0x11) stageVerdict wStage (asked wStage ready) ∧
    accepts (fun d => d.opcode = 0x12) commitVerdict wCommit (asked wCommit (staged ready)) ∧
    accepts (fun d => d.opcode = 0x13 ∧ d.arg 0 4 ≠ 15) mirrorVerdict wMirror (asked wMirror ready) ∧
    accepts (fun d => d.opcode = 0x13 ∧ d.arg 0 4 = 15) mirrorVerdict wMirrorPart (asked wMirrorPart ready) ∧
    accepts (fun d => d.opcode = 0x14) budgetVerdict wBudget (asked wBudget ready) ∧
    accepts (fun d => d.opcode = 0x15 ∧ !d.flag 7) sourceVerdict wSource (asked wSource ready) ∧
    accepts (fun d => d.opcode = 0x15 ∧ d.flag 7) sourceVerdict wSourceOff (asked wSourceOff ready) := by decide +kernel

set_option maxRecDepth 100000 in
/-- FirmwareDebugAuditCommandsComplete. -/
theorem witness_firmwareDebugAuditCommands :
    accepts (fun d => d.opcode = 0x19) fwStageVerdict wFwStage (asked wFwStage ready) ∧
    accepts (fun d => d.opcode = 0x1A ∧ !d.flag 0) handoverVerdict wHandover (asked wHandover ready) ∧
    accepts (fun d => d.opcode = 0x1A ∧ d.flag 0) handoverVerdict wCancel (asked wCancel (withAction (.handover 1 1) ready)) ∧
    (accepts (fun d => d.opcode = 0x1B) debugVerdict wDebug (asked wDebug ready) ∧ ((asked wDebug ready).loaded wDebug).arg 0 2 ≠ 2) ∧
    (accepts (fun d => d.opcode = 0x1B) debugVerdict wDebugParcel (asked wDebugParcel (withParcel ready)) ∧
      ((asked wDebugParcel (withParcel ready)).loaded wDebugParcel).arg 0 2 = 2) ∧
    accepts (fun d => d.opcode = 0x1C ∧ !d.flag 0 ∧ !d.flag 2) auditVerdict wPool (asked wPool ready) ∧
    accepts (fun d => d.opcode = 0x1C ∧ d.flag 0 ∧ !d.flag 2) auditVerdict wLedger (asked wLedger (withRegion reg ready)) ∧
    accepts (fun d => d.opcode = 0x1C ∧ d.flag 2) auditVerdict wScheduled (asked wScheduled ready) := by decide +kernel
/-! ### Registers, rings and MANAGEMENT frames -/

def who1 : Access := { endpoint := 0, requester := 1 }
/-- Endpoint MP0 trained. -/
def linked (s : State) : State := { s with mailbox := { s.mailbox with linked := [true, false] } }
/-- A pair with rings of 16 slots at bytes 0 and 4,096. -/
def ringPair : Pair := { parcel := 0, cmdSizeLog2 := 4, cmpBase := 1, cmpSizeLog2 := 4 }
def livePair : Pair := { ringPair with active := true, enable := true, owner := some (.requester 0 1) }
def withPair (n : Nat) (p : Pair) (s : State) : State := { s with mailbox := { s.mailbox with pairs := s.mailbox.pairs.set n p } }
def foreignPair : Pair := { livePair with owner := some (.requester 1 7) }

/-- RegisterWritesComplete. -/
theorem witness_registerWrites :
    (accessOk who1 ∧ (linked (withPair 63 ringPair ready)).reachable who1 ∧ !(linked (withPair 63 ringPair ready)).seventeenth (whoOf who1) ∧
      !((linked (withPair 63 ringPair ready)).pair 63).active ∧ !((linked (withPair 63 ringPair ready)).pair 63).enable ∧
      (touchZero (whoOf who1) (linked (withPair 63 ringPair ready))).enableOk 63) ∧
    ((linked (withPair 63 livePair ready)).owns (whoOf who1) 63 ∧ ((linked (withPair 63 livePair ready)).pair 63).enable ∧
      ((linked (withPair 63 livePair ready)).pair 63).inBand = false ∧ (linked (withPair 63 livePair ready)).owns (whoOf who1) 0 = false) ∧
    ((linked (withPair 63 livePair ready)).mailbox.failed = false ∧
      (((16 : BitVec 32).setWidth 16 : BitVec 16) - ((linked (withPair 63 livePair ready)).pair 63).cmdHead).toNat ≤
        ((linked (withPair 63 livePair ready)).pair 63).cmdSlots) := by decide +kernel

/-- RingAndForeignWrites: a pair of another requester, a live pair's own ring registers, another's ring memory, and the last byte of ring
memory. -/
theorem witness_ringAndForeignWrites :
    ((linked (withPair 1 foreignPair ready)).reachable who1 ∧ ((linked (withPair 1 foreignPair ready)).pair 1).active ∧
      (linked (withPair 1 foreignPair ready)).owns (whoOf who1) 1 = false ∧ (linked (withPair 1 foreignPair ready)).owns (whoOf who1) 0 = false) ∧
    ((linked (withPair 63 livePair ready)).reachable who1 ∧ !(linked (withPair 63 livePair ready)).seventeenth (whoOf who1) ∧
      (linked (withPair 63 livePair ready)).owns (whoOf who1) 63 ∧ ((linked (withPair 63 livePair ready)).pair 63).enable) ∧
    (linked (withPair 1 foreignPair ready)).ringForeign (whoOf who1) 4095 1 ∧
    (accessOk who1 ∧ (ringMemory - 1) + [(7 : Byte)].length ≤ ringMemory ∧ !(linked ready).ringForeign (whoOf who1) (ringMemory - 1) 1 ∧
      (linked ready).reachable who1 ∧ !(linked ready).seventeenth (whoOf who1)) := by decide +kernel

/-- PairZeroAbandonment. -/
theorem witness_pairZeroAbandonment :
    (((withPair 0 livePair ready).pair 0).active ∧ (withPair 0 livePair ready).mailbox.pair0Abandoned = false) ∧
    ((linked (withPair 0 foreignPair ready)).reachable who1 ∧ (linked (withPair 0 foreignPair ready)).owns (whoOf who1) 0 = false ∧
      ((linked (withPair 0 foreignPair ready)).setMailbox fun m => { m with pair0Abandoned := true }).mailbox.pair0Abandoned) := by decide +kernel

/-- A part with pair 48 in-band for part 2, port 3. -/
def inBand48 (s : State) : State :=
  withPair 48 { ringPair with active := true, enable := true, inBand := true, ibPart := 2, ibPort := 3, owner := some (.inBand 2 3) } s
def mgmt (sub : Nat) (fields : List (Nat × Nat × Nat)) (payload : Bytes) : Rx :=
  { port := 3, frame := mkFrame ([(0, 4, 9), (48, 16, 2), (64, 8, 3), (72, 8, sub), (104, 6, 48)] ++ fields) payload 0 0 }
def atMd (rx : Rx) (s : State) : State := { s with mdReseq := { s.mdReseq with inbox := [rx] } }
def mgmtCmd : Rx := mgmt 1 [] (List.replicate 256 1)
def mgmtRead : Rx := mgmt 3 [(112, 8, 64)] []
def mgmtWrite : Rx := mgmt 4 [(112, 8, 1)] [1, 2, 3, 4]
/-- The frame is good for MD. -/
def goodForMd (rx : Rx) : Bool := !rx.frame.taint && Frame.crcOk rx.frame && reservedOk rx.frame

/-- A running image that names part 2, port 3 as the in-band source. -/
def inBandSlot (s : State) : State :=
  { s with boot := { s.boot with slotA_image := leBytes 32 (packFields [(28, 1, 1), (128, 16, 2), (144, 8, 3)]) } }

set_option maxRecDepth 100000 in
/-- ManagementFramesComplete: a COMMAND of exactly 256 bytes, a read of 64 words, a write of one. -/
theorem witness_managementFrames :
    ((atMd mgmtCmd (inBand48 ready)).mdReseq.inbox.head? = some mgmtCmd ∧ goodForMd mgmtCmd ∧ mgmtCmd.frame.type = 9 ∧ mgmtCmd.frame.sub8 = 1 ∧
      mgmtCmd.frame.payload.length = 256 ∧ mgmtCmd.frame.field 104 6 = 48 ∧ mgmtCmd.frame.srcPart = 2 ∧ mgmtCmd.frame.srcPort = 3 ∧
      (oweEcho mgmtCmd.frame 3 (atMd mgmtCmd (inBand48 ready))).pair 48 = (inBand48 ready).pair 48 ∧ (inBand48 ready).mailbox.failed = false) ∧
    (isReg 3 mgmtRead.frame ∧ goodForMd mgmtRead ∧ (oweEcho mgmtRead.frame 3 (atMd mgmtRead (inBandSlot ready))).regOk mgmtRead.frame) ∧
    (isReg 4 mgmtWrite.frame ∧ goodForMd mgmtWrite ∧ (oweEcho mgmtWrite.frame 3 (atMd mgmtWrite (inBandSlot ready))).regOk mgmtWrite.frame ∧
      mgmtWrite.frame.payload.length = 4 * mgmtWrite.frame.field 112 8) := by decide +kernel
/-! ### One step, arithmetic, the test access port -/

/-- The step gives a next state. -/
def goesOn (o : Host.Outcome State Fault Refusal) : Bool := match o with
  | .next _ => true
  | _ => false

/-- StepRunsTheFrontCommand, EveryStepKeepsTheInvariant, FusesOnlyGain, RowsLeaveTheRest. -/
theorem witness_steps :
    { ready with pending := [.idcode, .clamp] }.pending = .idcode :: [.clamp] ∧ ready.pending = [] ∧ goesOn (exec .idcode ready) ∧
    goesOn (step { ready with pending := .idcode :: ready.pending }) ∧ (ready.inv ∧ goesOn (step ready)) ∧
    (Instr.stirs .epochDrained = false ∧ Instr.storesHbm .epochDrained = false ∧ goesOn (exec .epochDrained ready)) := by decide +kernel

/-- CommandsSettleByTheirChecks: a row whose slot holds another opcode's turn, the first and the second check that fail, a rejected
command, and an accepted one. -/
theorem witness_commandsSettle :
    (Instr.mailboxCommand (.mapSelectImmediate wSelect) = some wSelect ∧ wSelect.pair < 64 ∧ !ready.takes wSelect) ∧
    ((asked (cmd 0x55 0 0 0 [] []) ready).takes (cmd 0x55 0 0 0 [] []) ∧
      ((commonChecks ((asked (cmd 0x55 0 0 0 [] []) ready).loaded (cmd 0x55 0 0 0 [] [])) (asked (cmd 0x55 0 0 0 [] []) ready))[0]?).any (·.1)) ∧
    ready.mailbox.failed = false ∧ ready.mailbox.pairs.length = 64 := by decide +kernel

def lxOne : Lx := { n := 1 }
def lxInf : Lx := { n := 7, cls := .posInf }

/-- LxSumsFollowR36, ClosureFollowsTheSums, Sr10FollowsR48, StochasticRoundingFollowsR50, PackedBlocksDecodeBack. -/
theorem witness_arithmetic :
    (lxOne.cls = .finite ∧ lxInf.cls = .posInf ∧ [lxOne, lxInf].isPerm [lxInf, lxOne]) ∧
    ([lxOne].length = [lxOne].length ∧ ∀ e ∈ [lxOne].zip [lxOne], -(2 ^ 95 : Int) ≤ e.1.n.toInt + e.2.n.toInt ∧ e.1.n.toInt + e.2.n.toInt < (2 ^ 95 : Int)) ∧
    ¬ (lxOne.n.toInt - lxInf.n.toInt) % (closureP : Int) = 0 ∧ sr10 1 2 3 4 = sr10 1 2 3 4 ∧
    (0x7F800000 < (0x7F800001 : BitVec 32).toNat % 2 ^ 31 ∧ (0xFF800000 : BitVec 32).toNat % 2 ^ 31 = 0x7F800000 ∧
      (0x7F7FFFFF : BitVec 32).toNat % 2 ^ 31 < 0x7F800000 ∧ (0x7F7FFFFF : BitVec 32).toNat % 2 ^ 31 / 65536 = 0x7F7F ∧
      65536 ≤ (0x7F7FFFFF : BitVec 32).toNat % 2 ^ 31 % 65536 + 1 ∧ (0x80000000 : BitVec 32).toNat % 2 ^ 31 = 0) ∧
    (List.replicate 32 lxOne).length = 32 := by decide +kernel

/-- TapReadingsComplete, BoundaryScanCompletes: VDD_AON is up, and a code that the table does not list. -/
theorem witness_testPort : (ready.rail 0).above10 ∧
    (0x05 : BitVec 8).toNat ∉ [0x00, 0x01, 0x02, 0x03, 0x04, 0x10, 0x11, 0x12, 0x13, 0x14, 0x15, 0x20, 0x21, 0x22] := by decide +kernel

/-- A record that carries a PROVISIONED part to DEPLOYED, signed under key 1 (FIPS 186-5, computed outside Lean). -/
def deployRecord : Bytes := [2] ++ leBytes 8 0 ++ (List.range 48).map (fun i => BitVec.ofNat 8 (i + 1)) ++ keyOne ++
  beBytes 96 0x283c1d7365ce4788f29f8ebf234edffead6fe997fbea5ffa2d58cc9dfa7b1c508b05526f55b9ebb2040f05b48fb6d0e1401c2277c47e9818f724cf542655a8ad770e1373bdebc68c31855f27e4a49b0b9ee59f8ec8c5c245658f2405816a50f5
/-- A PROVISIONED part under RESET_N whose first vendor key is key 1. -/
def provisioned : State := { State.reset with
  supply := { State.reset.supply with resetN := false }
  trust := { State.reset.trust with fusedLifecycle := .provisioned, lifecycle := .provisioned, vendorDigest := [beNat (sha384 keyOne), 0, 0, 0] } }

/-- What the transition of a record is. -/
def transits (record : Bytes) (s : State) : Option State := (transitionOf record).bind fun r => transit r (s.tapGives .lcTransition 0 0)

set_option maxRecDepth 100000 in
/-- LifecycleTransitionsComplete: RESET_N high, an accepted record, a rejected one. -/
theorem witness_lifecycle : (ready.rail 0).above10 ∧ ready.supply.resetN ∧ (provisioned.rail 0).above10 ∧ !provisioned.supply.resetN ∧
    (transits deployRecord provisioned).isSome ∧ (transits (deployRecord.set 0 3) provisioned) = none := by decide +kernel

/-- A debug session at a level; the part released. -/
def atLevel (l : DebugLevel) : State := { ready with dbg := { ready.dbg with level := l, subject := 0, notAfter := 9, subjectVersion := 1 } }
def regOnStack : Region := { reg with extents := [{ array := 0, copy := 0, logical := 0, pair := 0, base := 0, len := 2048 }] }
/-- The session of an entered access. -/
def entered (ir : Tap) (s : State) : State := shiftOut 0 0 (enterDebug (letGo { s with trust := { s.trust with ir := ir } }))

set_option maxRecDepth 100000 in
/-- DebugAccessesFollowTheirLevel: a window, a read at FULL and one at PARCEL, a write, a control; and, where the level does not reach,
each access that changes nothing. -/
theorem witness_debugAccesses :
    (((atLevel .telemetry).rail 0).above10 ∧ dieExists 0x40 ∧ !(0x60 ≤ 0x40 && 0x40 < 0x7E) ∧
      (entered .dbgTrace (atLevel .telemetry)).dbg.level ≠ .none ∧ !(entered .dbgTrace (atLevel .telemetry)).isHeld ∧
      (entered .dbgTrace (atLevel .telemetry)).dieState 0x40 ≠ .l3) ∧
    (spaceHas 0 (.sram 0) ∧ (entered .dbgMem (atLevel .full)).dbg.level = .full ∧ !(entered .dbgMem (atLevel .full)).isHeld ∧
      (groupOfDieId (spaceDie (.sram 0))).all (entered .dbgMem (atLevel .full)).running ∧
      ((entered .dbgMem (atLevel .full)).reached (spaceDie (.sram 0))).debugRead (.sram 0) 0 = some 0) ∧
    ((entered .dbgMem (withRegion regOnStack (atLevel .parcel))).dbg.level = .parcel ∧
      spaceHas 2047 (.hbm 0) ∧ ((entered .dbgMem (withRegion regOnStack
        (atLevel .parcel))).reached (spaceDie (.hbm 0))).debugRead (.hbm 0) 2047 = some 0) ∧
    (processorExists 0x80 3 ∧ 0x80 ≠ 0x81 ∧ (entered .dbgCtrl (atLevel .full)).dbg.level = .full ∧ !(entered .dbgCtrl (atLevel .full)).isHeld ∧
      (groupOfDieId 0x80).all (entered .dbgCtrl (atLevel .full)).running) ∧
    ((enterDebug ready).dbg.level = .none ∧ goesOn (exec (.dbgTrace 0x40) ready)) ∧
    ((enterDebug (atLevel .telemetry)).dbg.level = .telemetry ∧ goesOn (exec (.dbgMem .cell 0 none) (atLevel .telemetry))) ∧
    ((enterDebug (atLevel .full)).dbg.level = .full ∧ goesOn (exec (.dbgCtrl 0x81 0 .halt) (atLevel .full))) := by decide +kernel
/-! ### Reference clock, failures, watchdogs, power -/

def noInput (i : Nat) (s : State) : State := { s with refclk := { s.refclk with present := s.refclk.present.set i false } }
/-- A reading of a failure in the crossbar. -/
def xdFailed (s : State) : State := s.setXbar fun x => { x with failed := [1] }

/-- ReferenceAndCrossbarFailures. -/
theorem witness_failures : (XdCause.ok .heartbeat ∧ XdCause.ok (.linkLost 62) ∧ XdCause.ok .stateError) ∧
    (ready.refclk.present.getD 1 false ∧ (ready.refclk.present.set 1 false).getD 0 false) ∧
    ((noInput 1 ready).refclk.present.getD 0 false ∧ ((noInput 1 ready).refclk.present.set 0 false).getD 1 false = false) ∧
    (noInput 1 ready).refclk.present.getD 1 false = false ∧
    (!ready.supply.inReset ∧ ready.boot.stage.started ∧ ready.xbar.failed = [] ∧ (emptyBuffer (cutSending 3 ready)).xbar.records = [] ∧
      (emptyBuffer (cutSending 3 ready)).xbar.queues = []) ∧
    ((xdFailed ready).boot.stage.started ∧ !(xdFailed ready).supply.inReset ∧ (xdFailed ready).xbar.failed ≠ [] ∧ 3 ∉ (xdFailed ready).xbar.failed) ∧
    1 ∈ (xdFailed ready).xbar.failed := by decide +kernel

def restartedAt (t : Nat) (s : State) : State := s.setMailbox fun m => { m with restarts := [t] }

/-- LedgerAndManagementFailures: a restart exactly 1 s ago is no second one. -/
theorem witness_managementFailures :
    (!ready.supply.inReset ∧ ready.placement.usable.contains 1) ∧ ready.mdRuns ∧
    ({ restartedAt 0 ready with clock := 1000000000 }.mdRuns ∧
      ({ restartedAt 0 ready with clock := 1000000000 }.mailbox.restarts.filter fun t => 1000000000 < t + 1000000000) = []) ∧
    ({ restartedAt 0 ready with clock := 999999999 }.mdRuns ∧
      ({ restartedAt 0 ready with clock := 999999999 }.mailbox.restarts.filter fun t => 999999999 < t + 1000000000) ≠ []) ∧
    !ready.isHalted 0x80 3 := by decide +kernel

/-- WatchdogExpiriesComplete, DeadmanFailsClosed. -/
theorem witness_watchdogs :
    (!ready.supply.inReset ∧ ready.boot.stage.started ∧ !ready.pairFailed 1 ∧ ready.placement.usable.contains 1 ∧
      ready.watched (groupOfDie 1) ∧ !ready.isHalted (0x40 + 1) 0) ∧
    (ready.watched (31 / 4) ∧ !ready.isHalted 31 0) ∧ (!(ready.timebases.getD 1 {}).stopped ∧ !ready.isHalted (0x82 + 1) 0) ∧
    ((ready.rail 0).above10 ∧ !ready.trust.deadman) := by decide +kernel

def inGroup (g : Nat) (x : Group) (s : State) : State := { s with groups := s.groups.set g x }
/-- Group 0's budget counts on stream 0, which has had a mark every 5 ms. -/
def paced (s : State) : State :=
  let running : Stream := { state := .running, markAt := 7000000, intervals := [5000] }
  { s with parcels := [(0, { parcelZero with budgets := [(0, { ns := 200, stream := some 0 })] })]
           timebases := s.timebases.map fun b => { b with streams := b.streams.set 0 running } }

/-- PowerAndThermalLoopsComplete. -/
theorem witness_power :
    (!(port4Up ready).groupBusy 1 ∧ ((port4Up ready).group 1).entering = none ∧ ((port4Up ready).group 1).exiting = none ∧
      (((port4Up ready).enterable 1 (port4Up ready).clock).filter fun st =>
        decide (((port4Up ready).group 1).workAt + st.idleNs ≤ (port4Up ready).clock)).getLast? = some .l1) ∧
    (!ready.groupBusy 0 ∧ (ready.group 0).entering = none ∧ (ready.group 0).exiting = none ∧
      ((ready.enterable 0 ready.clock).filter fun st => decide ((ready.group 0).workAt + st.idleNs ≤ ready.clock)) = [] ∧
      ((allowedStates 0).find? fun st => (ready.enterable 0 ((ready.group 0).workAt + st.idleNs)).contains st) = some .l1) ∧
    ((inGroup 19 { entering := some (.l1, 5) } ready).group 19).entering = some (.l1, 5) ∧
    ((inGroup 19 { exiting := some (.l1, 5) } ready).group 19).exiting = some (.l1, 5) ∧
    (((inGroup 0 { state := .l3 } (paced ready)).group 0).state ≠ .l0 ∧ !(inGroup 0 { state := .l3 } (paced ready)).budgetAllows 0 .l3 ∧
      (inGroup 0 { state := .l3 } (paced ready)).wakePoint 0 .l3 = some (7000000 + 5000000 - (10000 + 200000))) ∧
    ((List.replicate 31 80).length = 31 ∧ !ready.mailbox.failed ∧ ready.boot.stage = .ready ∧ !ready.isHalted 0x80 3 ∧ ready.groups.length = 20) ∧
    ((ready.setMailbox fun m => { m with failed := true }).mailbox.failed ∨ ready.boot.stage ≠ .ready) ∧
    ((throttleAtC 0x7D).isSome ∧ !ready.supply.hotDies.contains 0x7D) := by decide +kernel

/-! ### Supplies, reset and start -/

def rails (f : Nat → Rail) (s : State) : State := { s with supply := { s.supply with rails := (List.range 47).map f } }
def upRail : Rail := {}
def downRail : Rail := { above10 := false, above90 := false, inTol := false }
/-- The last stage not risen; every stage under it complete since 0 ns. -/
def rising (s : State) : State := rails (fun r => if r < 44 then upRail else downRail) s
def started (b : Bool) (s : State) : State := { s with supply := { s.supply with started := b } }

/-- SuppliesComplete, first part: a rail's events in order. -/
theorem witness_rails :
    (((rising { ready with clock := 100000 }).rail 0).above10 ∧ !((rising { ready with clock := 100000 }).rail 46).above10 ∧
      ((List.range (railStage 46 - 1)).all fun j => (rising ready).stageUp (j + 1)) ∧ ((rising ready).rail 0).inTol ∧
      ((stageRails (railStage 46 - 1)).foldl (fun m q => max m ((rising ready).rail q).at90) 0) + 100000 ≤ 100000) ∧
    (((rails (fun r => if r = 46 then { downRail with above10 := true } else upRail) ready).rail 46).above10 ∧
      !((rails (fun r => if r = 46 then { downRail with above10 := true } else upRail) ready).rail 46).above90 ∧ ready.clock ≤ 0 + 20000000) ∧
    ((ready.rail 46).above90 ∧ ∀ q, q < 47 → railStage 46 < railStage q → !(ready.rail q).above10) ∧
    (0 < 46 ∧ 0 < 45 ∧ 45 < 47 ∧ 45 ≠ 46 ∧ (ready.rail 46).above10 ∧ (ready.rail 45).above10) ∧
    !(started false ready).supply.started := by decide +kernel

/-- SuppliesComplete, second and third part: each fault, and VDD_AON's rise. -/
theorem witness_supplyFaults :
    ready.supply.fault = .none ∧
    (((rails (fun r => if r < 43 then upRail else downRail) ready).rail 0).above10 ∧
      !((rails (fun r => if r < 43 then upRail else downRail) ready).rail 46).above10 ∧
      ((List.range (railStage 46 - 1)).any fun j => !(rails (fun r => if r < 43 then upRail else downRail) ready).stageUp (j + 1))) ∧
    (!((rising ready).rail 46).above10 ∧ ((List.range (railStage 46 - 1)).all fun j => (rising ready).stageUp (j + 1)) ∧
      99999 < ((stageRails (railStage 46 - 1)).foldl (fun m q => max m ((rising ready).rail q).at90) 0) + 100000) ∧
    (((rails (fun r => if r = 46 then { downRail with above10 := true } else upRail) ready).rail 46).at10 + 20000000 < 20000001) ∧
    ((ready.rail 1).above90 ∧ railStage 1 < railStage 46 ∧ (ready.rail 46).above10) ∧ ready.supply.started ∧
    (!((rails (fun _ => downRail) ready).rail 0).above10 ∧ ∀ r, 0 < r → r < 47 → !((rails (fun _ => downRail) ready).rail r).above10) := by
  refine ⟨by decide +kernel, by decide +kernel, by decide +kernel, by decide +kernel, by decide +kernel, by decide +kernel, by decide +kernel, ?_⟩
  intro r _ h
  have := (by decide +kernel : ∀ r, r < 47 → !((rails (fun _ => downRail) ready).rail r).above10)
  exact this r h

/-- ResetsComplete: a low of 1 µs, one of less than 0.5 µs, a release that leaves what held the part and one that does not, and the
release that takes effect from reset. -/
theorem witness_resets :
    (ready.supply.resetN ∧ (ready.rail 0).above10) ∧
    (!provisioned.supply.resetN ∧ !provisioned.refclk.present.all (!·) ∧ provisioned.leaves) ∧
    !{ provisioned with supply := { provisioned.supply with fault := .order } }.leaves ∧
    (State.reset.supply.goodSince = some 0 ∧ State.reset.refclkSince = some 0 ∧ State.reset.supply.held ∧ State.reset.supply.resetN ∧
      State.reset.supply.inReset ∧ State.reset.supply.fault = .none ∧ !State.reset.supply.thermtrip ∧ !State.reset.trust.wiping) := by decide +kernel

/-- An image of one byte, signed under key 1 (FIPS 186-5, computed outside Lean). -/
def imageOne : Bytes := leBytes 32 (packFields [(0, 16, 1), (64, 32, 1)]) ++ keyOne ++ List.replicate 96 0 ++
  beBytes 96 0x283c1d7365ce4788f29f8ebf234edffead6fe997fbea5ffa2d58cc9dfa7b1c508b05526f55b9ebb2040f05b48fb6d0e193e5fcb621696a0c2061b77085882a96f2d3d04d83d8534d54b28509431b8461de08c44f27c5fc6582d396f0a2fab735 ++ List.replicate 704 0 ++ [0x5A]
/-- A part in ROM with these slots, its first vendor key being key 1. -/
def inRom (a b : Bytes) : State := { ready with
  boot := { ready.boot with stage := .rom, slotA_image := a, slotB_image := b }
  trust := { State.reset.trust with vendorDigest := [beNat (sha384 keyOne), 0, 0, 0] } }
def preferred (s : State) (p : Bool) : State := { s with boot := { s.boot with preferredB := p } }

set_option maxRecDepth 100000 in
/-- BootCompletes and PerstAndThermtripComplete: the preferred slot passes, only the other one does, neither does; the start of firmware; a die that exists. -/
theorem witness_boot :
    ((inRom imageOne []).boot.stage = .rom ∧ (inRom imageOne []).boot.slotState.2.1 = false ∧ slotCode (preferred (inRom imageOne []) false) false = 0) ∧
    (slotCode (preferred (inRom [] imageOne) false) false = 2 ∧ slotCode (noteCode false 2 (preferred (inRom [] imageOne) false)) true = 0) ∧
    (slotCode (preferred (inRom [] []) false) false = 2 ∧ slotCode (noteCode false 2 (preferred (inRom [] []) false)) true = 2) ∧
    ({ ready with boot := { ready.boot with stage := .fwStart, slotA_image := imageOne } }.boot.stage = .fwStart ∧
      (ready.placement.usable.all fun i => (ready.stack i).declared == []) ∧ imageField imageOne 28 1 ≠ 1) ∧
    dieExists 0x83 := by decide +kernel
/-! ### Ports and links -/

def withPort (p : Nat) (x : Port) (s : State) : State := { s with ports := s.ports.set p x }
def withLink (p : Nat) (l : Link) (s : State) : State := { s with links := s.links.set p l }
def training (n : Nat) : Port := { state := .training, step := n }

/-- BringupStepsComplete, at port 127. -/
theorem witness_bringup :
    (((withPort 127 { state := .idle, step := 1 } ready).port 127).state = .idle ∧ !(withPort 127 { state := .idle, step := 1 } ready).portHeld 127) ∧
    (((withPort 127 (training 2) ready).port 127).state = .training ∧ ((withPort 127 (training 2) ready).port 127).step = 2) ∧
    (((withPort 127 { training 3 with los := 0x100 } ready).port 127).state = .training ∧
      ((withPort 127 { training 3 with los := 0x100 } ready).port 127).step = 3 ∧
      ∀ k, k < 9 → k ≠ (if ((withPort 127 { training 3 with los := 0x100 } ready).port 127).ckReversed then 0 else 8) →
        !((withPort 127 { training 3 with los := 0x100 } ready).port 127).los.getLsbD k) ∧
    (∀ e ∈ [(2, 20000000, 1), (3, 5000000, 2), (4, 2000000, 3), (5, 1000000, 4), (6, 1000000, 5), (7, 50000000, 6)],
      ((withPort 127 (training e.1) ready).port 127).state = .training ∧ ((withPort 127 (training e.1) ready).port 127).step = e.1) := by
  decide +kernel

/-- The record of an endpoint of protocol 1 that echoes NONCE 0, and a row that carries it with the marker as sent, lane k at data position k. -/
def ident : BitVec 192 := BitVec.ofNat 192 (2 <<< 24 + 1 <<< 32 + 9 <<< 64)
def rowWith (r : BitVec 192) : List (BitVec 272) :=
  (List.range 8).map fun k => blockOf syncTraining k 5 (trainingMarker + r.toNat <<< 64)
def row : List (BitVec 272) := rowWith ident
/-- Lane k at data position k. -/
def straight : BitVec 24 := BitVec.ofNat 24 ((List.range 8).foldl (fun a k => a + k <<< (3 * k)) 0)
/-- Ports in steps 4 and 5 that lack one equal block, and one in step 7 that has met the record once. -/
def almost4 : Port := { training 4 with markRuns := List.replicate 8 (some true, 63) }
def almost5 : Port := { training 5 with laneRuns := (List.range 8).map fun k => (k, 63) }
def met7 (r : BitVec 192) : Port := { training 7 with lastIdent := some r, laneMap := straight }
/-- The row as port 127 reads it, and what its blocks do to the locks. -/
def upright127 (x : Port) (row : List (BitVec 272)) : List (BitVec 272) := row.zipIdx.map fun e => x.upright e.2 e.1
def counted (x : Port) (row : List (BitVec 272)) : State :=
  countBlocks 127 syncTraining ((upright127 x row).map fun b => b.truncate 16) (withPort 127 x ready)
def runs4 (x : Port) : List (Option Bool × Nat) := (x.markRuns.zip row).map fun e => match markerSeen e.2 with
  | none => (none, 0)
  | some b => if e.1.1 == some b then (some b, e.1.2 + 1) else (some b, 1)
def runs5 (x : Port) : List (Nat × Nat) := (x.laneRuns.zip (upright127 x row)).map fun e =>
  if blockSync e.2 = syncTraining then (if e.1.1 == blockLane e.2 then (blockLane e.2, e.1.2 + 1) else (blockLane e.2, 1)) else (e.1.1, 0)
/-- A record of protocol 2, and the port's own. -/
def ident2 : BitVec 192 := BitVec.ofNat 192 (2 <<< 24 + 2 <<< 32)
def ownIdent : BitVec 192 := BitVec.ofNat 192 (127 <<< 16 + 1 <<< 24 + 1 <<< 32)

/-- TrainingRowsAndIdentity. -/
theorem witness_trainingRows :
    (row.length = 8 ∧ almost4.state = .training ∧ almost4.step = 4 ∧ ∀ r ∈ runs4 almost4, 64 ≤ r.2) ∧ ¬ (∀ r ∈ runs4 (training 4), 64 ≤ r.2) ∧
    (almost5.step = 5 ∧ (∀ r ∈ runs5 almost5, 64 ≤ r.2) ∧ ((runs5 almost5).map (·.1)).eraseDups.length = 8) ∧
    ¬ (∀ r ∈ runs5 (training 5), 64 ≤ r.2) ∧
    ((upright127 (training 6) row).all fun b => blockSync b = syncTraining &&
      (upright127 (training 6) row).all fun a => trcAhead (blockTrc a) (blockTrc b) ≤ 15) ∧
    ((counted { training 7 with laneMap := straight } row).port 127).lastIdent ≠ rowIdent (upright127 (training 7) row) ∧
    ([ident, ident2, ownIdent].all fun r => (met7 r).state = .training ∧ (met7 r).step = 7 ∧
      rowIdent (upright127 (met7 r) (rowWith r)) = some r ∧ ((counted (met7 r) (rowWith r)).port 127).lastIdent = some r) ∧
    (identProto ident = 1 ∧ identKind ident = 2 ∧ ¬ identSerial ident = (counted (met7 ident) row).trust.serial.toNat) ∧ identProto ident2 ≠ 1 ∧
    (identProto ownIdent = 1 ∧ identKind ownIdent = 1 ∧ identSerial ownIdent = (counted (met7 ownIdent) (rowWith ownIdent)).trust.serial.toNat ∧
      identPort ownIdent = 127 ∧ identNonce ownIdent = ((counted (met7 ownIdent) (rowWith ownIdent)).port 127).nonce) := by decide +kernel

/-- A link control word with its CRC, and the overheads that carry it, with a wrong SYNC where `sync` is not 1. -/
def lcw (n : Nat) : BitVec 88 := BitVec.ofNat 88 (n + crc16 (leBytes 9 n) <<< 72)
def carrying (sync : Nat) (w : BitVec 88) : List (BitVec 16) :=
  (List.range 8).map fun k => BitVec.ofNat 16 (packFields [(0, 2, sync), (2, 3, k), (5, 11, bitsAt w.toNat (11 * k) 11)])
/-- A link that lacks the last slice of a second equal assembly of zeros. -/
def slice15 : Link := { sliceRun := 15, lastAssembly := some 0 }
def upPort : Port := { state := .up, laneMap := straight }
/-- A port UP. -/
def up (p : Nat) (s : State) : State := withPort p upPort s
/-- The word that overheads carry at port 127, and the state after their blocks. -/
def wordAt (o : List (BitVec 16)) (s : State) : BitVec 88 := (s.port 127).wordOf (o.zipIdx.map fun e => (s.port 127).upright e.2 e.1)
def after (o : List (BitVec 16)) (s : State) : State := countBlocks 127 syncData (o.zipIdx.map fun e => (s.port 127).upright e.2 e.1) s
def sliceOf (o : List (BitVec 16)) (s : State) : Option (BitVec 192) :=
  (takeSlice (wordAt o s).toNat (((after o s).setLink 127 (takeCredits (after o s).clock (wordAt o s).toNat)).link 127)).2
/-- A port in step 7 whose FINAL rows have gone, and one of which each lane has had three wrong blocks in a row. -/
def final7 : State := withPort 127 { training 7 with laneMap := straight, finalSent := true, finalRows := 16 } ready
def failing4 : State := withPort 127 { upPort with badRuns := List.replicate 8 3 } ready

/-- LinkControlWordsComplete: the first slice, the last slice, CACK in step 7, a wrong CRC; four wrong blocks; a port that is IDLE. -/
theorem witness_linkWords :
    ((up 127 ready).portUp 127 ∧ ((after (carrying 1 (lcw 0)) (up 127 ready)).port 127).state = .up ∧ lcwOk (wordAt (carrying 1 (lcw 0)) (up 127 ready)) ∧
      sliceOf (carrying 1 (lcw 0)) (up 127 ready) = none) ∧
    (lcwOk (wordAt (carrying 1 (lcw 15)) (withLink 127 slice15 (up 127 ready))) ∧
      sliceOf (carrying 1 (lcw 15)) (withLink 127 slice15 (up 127 ready)) = some 0) ∧
    ((after (carrying 1 (lcw (2 ^ 42))) final7).portUp 127 = false ∧ ((after (carrying 1 (lcw (2 ^ 42))) final7).port 127).state = .training ∧
      (final7.port 127).step = 7 ∧ lcwOk (wordAt (carrying 1 (lcw (2 ^ 42))) final7) ∧
      bitAt (wordAt (carrying 1 (lcw (2 ^ 42))) final7).toNat 42) ∧
    !lcwOk (wordAt (carrying 1 (lcw 0 ^^^ 1)) (up 127 ready)) ∧
    (failing4.portUp 127 ∧ ((after (carrying 2 (lcw 0)) failing4).port 127).state = .idle) ∧
    ((withPort 127 { state := .idle } ready).port 127).state = .idle ∧ (carrying 1 (lcw 0)).length = 8 := by decide +kernel

/-- LinkEventsAndPortDown. -/
theorem witness_linkEvents :
    ((up 127 ready).portUp 127 ∧ !((up 127 ready).port 127).los.getLsbD 8 ∧ !((up 127 ready).port 127).lol.getLsbD 8) ∧
    ((withLink 127 { goingIdleAt := some 3 } (up 127 ready)).portUp 127 ∧
      ((withLink 127 { goingIdleAt := some 3 } (up 127 ready)).link 127).goingIdleAt = some 3) ∧
    ((withPort 127 { state := .up, los := 0x100 } ready).port 127).los.getLsbD 8 ∧
    (ready.ports.length = 128 ∧ ready.links.length = 128 ∧ !ready.portUp 127 ∧ (up 127 ready).ports.length = 128) := by decide +kernel

/-! ### Reads, the end of a command, the resequencers -/

def wQuery := cmd 1 0 0xFFFFFFFF (0x01 + 5 <<< 32 + host 8192) [] []
def wFieldbook := cmd 2 0 0 (1 + 1 <<< 64 + host 1024) [] []
/-- The checks of a read pass. -/
def readPasses (c : Command) (s : State) : Bool :=
  c.pair < 64 && s.takes c && ((commonChecks (s.loaded c) s ++ firstChecks (s.loaded c) 0 s).all fun x => x.1 = false)

set_option maxRecDepth 100000 in
/-- ReadCommandsComplete: the context of traverse 5, and one entry of the field book. -/
theorem witness_reads :
    (readPasses wQuery (asked wQuery (withTrav trav ready)) ∧ ((asked wQuery (withTrav trav ready)).loaded wQuery).opcode = 1 ∧
      (answer (asked wQuery (withTrav trav ready)) 0 1 5 0).any (fun a => decide (a.bytes.length ≤ 8192) && a.allowed &&
        (a.version.map ((asked wQuery (withTrav trav ready)).loaded wQuery).staleUse).getD false == false)) ∧
    (readPasses wFieldbook (asked wFieldbook ready) ∧ ((asked wFieldbook ready).loaded wFieldbook).opcode = 2 ∧
      ((asked wFieldbook ready).loaded wFieldbook).arg 64 13 = 1 ∧ 1024 * 1 ≤ ((asked wFieldbook ready).loaded wFieldbook).len ∧
      (asked wFieldbook ready).book.kept ∧ (asked wFieldbook ready).book.oldest ≤ ((asked wFieldbook ready).loaded wFieldbook).arg 0 64) := by
  decide +kernel

def runs (e : Ending) (s : State) : State := s.setMailbox fun m => { m with
  running := [{ seq := 4, pair := 0, index := 0, opcode := 9, parcel := 0, tag := 0, version := 1, acceptedAt := 0, ending := e }] }

/-- CommandEffectEndCompletes: a command of each kind of ending is found. -/
theorem witness_effectEnd : ∀ e ∈ [Ending.plain, .ledgerSave handle5 0 0 1 0 0 [] true, .ledgerLoad handle5 0 0 1 0 false [] true,
      .apply handle5 0 0 0 0 0 0 [(5, 0)], .fwStage 1 0 [] true],
    ((runs e ready).mailbox.running.find? (fun r => r.seq = 4 ∧ r.ready ∧ (runs e ready).mayEnd r)).any (fun r => r.ending == e) := by decide +kernel

def framed (vc seq : Nat) : Rx := { port := 3, frame := mkFrame [(0, 4, 4), (4, 3, vc), (24, 24, seq), (48, 16, 2), (64, 8, 3)] [] 0 0 }
def arrived (die : Nat) (rx : Rx) (f : List Flow) (s : State) : State := s.setReseq die fun r => { r with arrivals := [rx], flows := f }
def flow1 : Flow := { srcPart := 2, srcPort := 3, flow := 0, x := some 0 }
def held (n : Nat) : Flow := { flow1 with held := [{ seq := BitVec.ofNat 24 n, at_ := 0, rx := framed 1 n }] }

/-- ResequencersDeliverAndRetire. -/
theorem witness_resequencers :
    ((arrived 30 (framed 1 0) [] ready).reseqAt 30).arrivals = [framed 1 0] ∧ !sequencedAt 30 (framed 1 0).frame ∧
    (((arrived 29 (framed 1 0) [flow1] ready).reseqAt 29).arrivals = [framed 1 0] ∧ ready.running (groupOfDie 29) ∧ !(framed 1 0).handed ∧
      sequencedAt 29 (framed 1 0).frame ∧
      ((arrived 29 (framed 1 0) [flow1] ready).reseqAt 29).flow? ((framed 1 0).frame.srcPart, (framed 1 0).frame.srcPort, (framed 1 0).frame.flow) = some flow1 ∧
      ((arrived 29 (framed 1 0) [flow1] ready).reseqAt 29).flows.foldl (fun a f => a + f.held.length) 0 < 65536) ∧
    (((arrived 62 (framed 1 0) [] ready).reseqAt 62).arrivals = [framed 1 0] ∧ !sequencedAt 62 (framed 1 0).frame ∧ ready.running (groupOfPort (4 * 31))) ∧
    (flow1.x = some 0 ∧ !(framed 1 0).frame.resync ∧ BitVec.ofNat 24 (framed 1 0).frame.seq = 0) ∧
    ((BitVec.ofNat 24 (framed 1 4095).frame.seq - 0).toNat = 4095 ∧ (∀ h ∈ (held 1).held, h.seq ≠ BitVec.ofNat 24 (framed 1 4095).frame.seq)) ∧
    (BitVec.ofNat 24 (framed 1 4096).frame.seq - 0).toNat = 4096 ∧ 2 ^ 23 ≤ (BitVec.ofNat 24 (framed 1 (2 ^ 24 - 1)).frame.seq - 0).toNat ∧
    (((arrived 29 (framed 1 0) [held 1] ready).reseqAt 29).flow? (2, 3, 0) = some (held 1) ∧ (held 1).holeSince = some 0) ∧
    (((arrived 62 (framed 1 0) [held 1] ready).reseqAt 62).flow? (2, 3, 0) = some (held 1) ∧ ready.running (groupOfPort (4 * 31))) ∧
    (((arrived 62 (framed 1 0) [flow1] ready).reseqAt 62).flow? (2, 3, 0) = some flow1 ∧ flow1.held = []) := by decide +kernel
/-! ### Chainage and tallies -/

def onStream (n : Nat) (x : Stream) (s : State) : State := { s with timebases := s.timebases.map fun b => { b with streams := b.streams.set n x } }
def mark (no step : Nat) : Rx :=
  { port := 4, frame := mkFrame [(0, 4, 8), (48, 16, 2), (64, 8, 3), (72, 8, 1), (80, 6, 63), (88, 40, step), (160, 32, no)] [] 0 0 }
def fed (st : StreamState) : Stream :=
  { state := st, ingressPort := 4, originPart := 2, originPort := 3, coord := { step := 7 }, markNo := 0xFFFFFFFF }
/-- Stream 63 in a state, and a mark of it that both timebase dies have received. -/
def markedBy (st : StreamState) (rx : Rx) (s : State) : State :=
  let t := onStream 63 (fed st) s
  { t with timebases := t.timebases.map fun b => { b with marks := [rx] } }
/-- The case the oldest mark of a die meets, and that the frame is good. -/
def caseOf (tb : Nat) (s : State) : Option Nat := match (s.timebases.getD tb {}).marks with
  | rx :: _ =>
    if !rx.frame.taint && Frame.crcOk rx.frame && reservedOk rx.frame && rx.frame.payload.isEmpty then
      some (markCase (s.streamAt tb rx.frame.stream) (rx.port == (s.streamAt tb rx.frame.stream).ingressPort &&
        rx.frame.srcPart == (s.streamAt tb rx.frame.stream).originPart && rx.frame.srcPort == (s.streamAt tb rx.frame.stream).originPort)
        (markCoord rx.frame) (BitVec.ofNat 32 (rx.frame.field 160 32)))
    else none
  | [] => none
def tainted (rx : Rx) : Rx := { rx with frame := setTaint rx.frame }

/-- StationMarksFollowTheirCases: each case on the active die (a number that wraps, a STEP at the bound), the standby, and a tainted
mark. -/
theorem witness_stationMarks :
    ready.refclk.active = 0 ∧ caseOf 1 (markedBy .running (mark 0 8) ready) = some 6 ∧ caseOf 0 (markedBy .off (mark 0 8) ready) = some 1 ∧
    caseOf 0 (markedBy .unset (mark 5 1) ready) = some 2 ∧ caseOf 0 (markedBy .running (mark 0xFFFFFFFF 7) ready) = some 3 ∧
    caseOf 0 (markedBy .running (mark 0xFFFFFFFF 8) ready) = some 4 ∧ caseOf 0 (markedBy .running (mark 0xFFFFFFFE 7) ready) = some 5 ∧
    caseOf 0 (markedBy .running (mark 0 6) ready) = some 5 ∧ caseOf 0 (markedBy .hold (mark 0 8) ready) = some 6 ∧
    caseOf 0 (markedBy .running (mark 0 9) ready) = some 7 ∧ caseOf 0 (markedBy .running (mark 1 7) ready) = some 7 ∧
    (tainted (mark 0 8)).frame.taint ∧
    (∃ l, { kind := .wake 0 63, last := some 9 : Action }.last = some l ∧ ((8 : BitVec 32) - l).toInt ≤ 0) := by
  refine ⟨?_, ?_, ?_, ?_, ?_, ?_, ?_, ?_, ?_, ?_, ?_, ?_, 9, ?_⟩ <;> decide +kernel

def copyOf : RingSync := { stream := 63, replica := { coord := { step := 7 }, markNo := 9, state := .running } }
/-- A good word of the pin for stream 63. -/
def pinWord63 : Nat :=
  let bits := packFields [(0, 16, 0xB38F), (16, 40, 5), (88, 6, 63)]
  bits + crc8 0x07 0 (leBytes 15 bits) <<< 120

/-- PinReplicaAndTimeoutComplete: a good word, a copy the standby does not await, lost records of stream 63, a held stream, the running stream 63 of
both dies. -/
theorem witness_pinReplicaTimeout :
    (bitsAt pinWord63 0 16 = 0xB38F ∧ bitsAt pinWord63 88 6 = 63 ∧ bitsAt pinWord63 94 26 = 0 ∧
      bitsAt pinWord63 120 8 = crc8 0x07 0 (leBytes 15 pinWord63)) ∧
    ({ ready with ringSync := [copyOf] }.ringSync = copyOf :: [] ∧ !(ready.timebases.getD (1 - ready.refclk.active) {}).stopped ∧
      !(ready.timebases.getD (1 - ready.refclk.active) {}).awaits copyOf) ∧
    ([(0, 63), (1, 63)] : List (Nat × Nat)).all (fun e => e.1 < 2 && e.2 < 64) ∧ (∀ j, j < 2 → !(ready.timebases.getD j {}).stopped) ∧
    ((onStream 63 (fed .running) ready).stream 63).state = .running ∧ ((onStream 63 (fed .hold) ready).stream 63).state = .hold ∧
    (!(ready.timebases.getD 1 {}).stopped ∧ ((onStream 63 (fed .running) ready).streamAt 1 63).state = .running ∧
      ((onStream 63 (fed .running) ready).streamAt 0 63).state = .running) := by decide +kernel

def handing (d : Option Nat) (s : State) : State := { s with boot := { s.boot with handover := some (0, 4, {}, 1), rollbackDie := d } }

/-- HandoverEndCompletes: done, done but spoilt, rolled back by a die. -/
theorem witness_handoverEnd :
    ((handing none ready).boot.handover = some (0, 4, {}, 1) ∧ (handing none ready).boot.rollbackDie = none) ∧
    (handing (some 3) ready).boot.rollbackDie = some 3 ∧ handoverDie 0x83 := by decide +kernel

/-- The premise of a CONTROL row, decided. -/
def delivers (die sub : Nat) (rx : Rx) (s : State) : Bool :=
  die < 30 && headOf die (isControl sub) s == some rx && s.running (groupOfDie die) && !rx.frame.taint && Frame.crcOk rx.frame &&
  reservedOk rx.frame && controlPayloadOk rx.frame
theorem delivers_Delivers {die sub rx} {s : State} (h : delivers die sub rx s = true) : Delivers die sub rx s := by
  simp only [delivers, Bool.and_eq_true, decide_eq_true_eq, beq_iff_eq, Bool.not_eq_true'] at h
  obtain ⟨⟨⟨⟨⟨⟨h1, h2⟩, h3⟩, h4⟩, h5⟩, h6⟩, h7⟩ := h
  exact ⟨h1, h2, h3, ⟨h4, h5⟩, h6, h7⟩

/-- A CONTROL frame of traverse or tally 5, generation or round 0, that arrived on a port. -/
def ctl (sub port : Nat) (payload : Bytes) : Rx :=
  { port := port, frame := mkFrame [(0, 4, 7), (72, 12, 5), (173, 13, payload.length), (211, 8, sub)] payload 0 0 }
def atDie (die : Nat) (rx : Rx) (s : State) : State := s.setReseq die fun r => { r with inbox := [rx] }
def withTally (y : Tally) (s : State) : State := { s with tallies := [(5, y)] }
def two : Tally := { entries := [{ port := 3 }, { port := 4 }] }
def tallyAt (die sub port : Nat) (payload : Bytes) (y : Tally) : Bool × Option Tally :=
  (delivers die sub (ctl sub port payload) (atDie die (ctl sub port payload) (withTally y ready)),
   ((atDie die (ctl sub port payload) (withTally y ready)).received die (ctl sub port payload)).tally 5)

set_option maxRecDepth 100000 in
/-- TallyRoundsComplete: a foreign arrival, one of several, the last one at the root and below it; a release; a late member; a request
above, at the root of another round and of this one. -/
theorem witness_tallies :
    (tallyAt 29 7 9 [] two = (true, some two) ∧ (ctl 7 9 []).frame.gen = two.round ∧ !two.ports.contains 9) ∧
    (tallyAt 29 7 3 [] two = (true, some two) ∧ two.ports.contains 3 ∧ !two.arrived.contains 3 ∧ two.arrived.length + 1 < two.expect) ∧
    (tallyAt 29 7 3 [] tally5 = (true, some tally5) ∧ tally5.expect ≤ 1 ∧ tally5.uptree = 0xFF) ∧
    (tallyAt 29 7 3 [] { tally5 with uptree := 9 } = (true, some { tally5 with uptree := 9 })) ∧
    (tallyAt 29 8 9 (List.replicate 16 0) { tally5 with uptree := 9 } = (true, some { tally5 with uptree := 9 }) ∧
      ((ctl 8 9 (List.replicate 16 0)).frame.payload.headD 0).toNat = 0 ∧
      (tallyAt 29 8 9 (6 :: List.replicate 15 0) { tally5 with uptree := 9 }).1 ∧
      ((ctl 8 9 (6 :: List.replicate 15 0)).frame.payload.headD 0).toNat = 6) ∧
    ((∀ d ∈ ready.dies, ∀ rx ∈ d.reseq.inbox, !(isControl 9 rx.frame && rx.frame.traverse == 5)) ∧
      (withTally { two with arrived := [3] } ready).tally 5 = some { two with arrived := [3] } ∧
      ({ two with arrived := [3] }.ports.filter fun p => !{ two with arrived := [3] }.arrived.contains p) = [4]) ∧
    (tallyAt 29 9 4 (List.replicate 16 0) { two with uptree := 9 } = (true, some { two with uptree := 9 }) ∧
      tallyAt 29 9 4 (List.replicate 16 0) { two with round := 1 } = (true, some { two with round := 1 }) ∧
      tallyAt 29 9 4 (List.replicate 16 0) two = (true, some two) ∧ two.ports.contains 4) := by decide +kernel

/-! ### The memories -/

def accOn (die : Nat) (r : Residency) : Acc := { chain := 2, die := die, residency := r, spilled := [7] }
def holding (a : Acc) (s : State) : State := withTrav { trav with gens := [{ gen := 0, accs := [a] }], nextGen := 1 } s
def fullStack (i : Nat) (s : State) : State := s.setStack i fun h => { h with unzeroed := [(0, stackLines)] }
def working (die : Nat) (s : State) : State := s.setGroup (groupOfDie die) fun x => { x with workAt := s.clock }

/-- Faults found in stack `i`. -/
def faulty (i : Nat) (w : ArrayFaults) (s : State) : State := s.setStack i (noteFaults w)
/-- Seven wrong symbols in line 7. -/
def seven : ArrayFaults := { symbols := (List.range 7).map fun k => (7, k, 1) }

/-- SpillAndFillComplete: a chain that fits in the stack and whose generation is open, one for which no zeroed line is free, a fill, and a fill
from a line that does not decode. -/
theorem witness_spills :
    (ready.running (groupOfDie 29) ∧ (working 29 (holding (accOn 29 .sram) ready)).spillChoice 29 = some (5, 0, accOn 29 .sram) ∧
      (takeLines (working 29 (holding (accOn 29 .sram) ready)) 29 ((working 29 (holding (accOn 29 .sram) ready)).accLines 5 0) []).isSome ∧
      ((working 29 (holding (accOn 29 .sram) ready)).genOf 5 0).any Gen.isOpen) ∧
    ((working 29 (fullStack 29 (holding (accOn 29 .sram) ready))).spillChoice 29 = some (5, 0, accOn 29 .sram) ∧
      takeLines (working 29 (fullStack 29 (holding (accOn 29 .sram) ready))) 29
        ((working 29 (fullStack 29 (holding (accOn 29 .sram) ready))).accLines 5 0) [] = none) ∧
    ((holding (accOn 29 .filling) ready).accOf 5 0 2 = some (accOn 29 .filling) ∧
      ∀ l ∈ (accOn 29 .filling).spilled, (holding (accOn 29 .filling) ready).decoded 29 l ≠ .lost) ∧
    ((faulty 29 seven (holding (accOn 29 .filling) ready)).accOf 5 0 2 = some (accOn 29 .filling) ∧
      (faulty 29 seven (holding (accOn 29 .filling) ready)).decoded 29 7 = .lost) := by decide +kernel

def stackAt (i : Nat) (h : Hbm) (s : State) : State := { s with hbmStacks := s.hbmStacks.set i h }

/-- HbmMaintenanceCompletes: a stack of a group that runs and of one in L2; a clean line; a map-out due, one that runs, a line to zero. -/
theorem witness_hbmMaintenance :
    (faultsExist {} ∧ faultsExist seven ∧ !ready.pairFailed 29 ∧ (ready.group (groupOfDie 29)).state.depth < 2) ∧
    (2 ≤ ((inGroup (groupOfDie 29) { state := .l2 } ready).group (groupOfDie 29)).state.depth) ∧
    (ready.decoded 29 7 = .clean ∧ (ready.stack 29).failing = []) ∧
    ((stackAt 29 { declared := [63] } ready).mapoutDue 29 ∧ (stackAt 29 { declared := [63] } ready).blockReserved 29 = 0) ∧
    (((stackAt 29 { mapout := .copying [13] 5, declared := [13] } ready).setStack 29 (noteFaults seven)).stack 29).mapout = .copying [13] 5 ∧
    ((stackAt 29 { unzeroed := [(3, 1)] } ready).hbmStacks.length = 30 ∧ ((stackAt 29 { unzeroed := [(3, 1)] } ready).stack 29).unzeroed = [(3, 1)]) := by
  decide +kernel

/-- A scatter region of parcel 0 in slot 5, of 64-bit integers, on stack 0. -/
def regScatter : Region :=
  { kind := 4, accType := 2, count := 4096, loaded := [(3, 0)], extents := [{ array := 3, copy := 0, logical := 0, pair := 0, base := 0, len := 32768 }] }
/-- One entry: element 4,095, value 2^64 - 1. -/
def scatter : Rx :=
  { port := 3, frame := mkFrame [(0, 4, 11), (80, 16, 2), (112, 32, handle5), (172, 2, 3), (183, 0, 0)] (leBytes 16 (4095 + (2 ^ 64 - 1) <<< 64)) 0 0 }
def routed (s : State) : State := { s with routes := { s.routes with committed := true, current := [(2, { valid := true, parcel := 0 })] } }

/-- The frame at die 29 of a part that has the region, and what the die takes from it. -/
def scattered (s : State) : State := (atDie 29 scatter s).received 29 scatter
def regionThere : State := withRegion regScatter (routed ready)
def badSector (s : State) : State := s.setStack 0 fun h => { h with badSectors := [8 * 4095 / 32] }

set_option maxRecDepth 100000 in
/-- ScatterAddsComplete: a tainted frame, one whose region is gone, a good one, one that meets a bad sector, one that waits for a load; and a byte
beside what a store writes. -/
theorem witness_scatter :
    (ready.running (groupOfDie 29) ∧ headOf 29 (fun f => f.type == 11) (atDie 29 (tainted scatter) ready) = some (tainted scatter) ∧
      !(atDie 29 (tainted scatter) ready).addWaits (tainted scatter).frame ∧ (tainted scatter).frame.taint) ∧
    (headOf 29 (fun f => f.type == 11) (atDie 29 scatter ready) = some scatter ∧ !scatter.frame.taint ∧ Frame.crcOk scatter.frame ∧
      scatterCheck (scattered ready) scatter.frame = none) ∧
    (scatterCheck (scattered regionThere) scatter.frame = some (5, regScatter, [(4095, 2 ^ 64 - 1)]) ∧
      !(scattered regionThere).sectorLost regScatter scatter.frame.stripe 4095 (regScatter.bits 3 / 8)) ∧
    (scatterCheck (scattered (badSector regionThere)) scatter.frame = some (5, regScatter, [(4095, 2 ^ 64 - 1)]) ∧
      (scattered (badSector regionThere)).sectorLost regScatter scatter.frame.stripe 4095 (regScatter.bits 3 / 8)) ∧
    (atDie 29 scatter (runs (.ledgerLoad handle5 3 0 1 0 false [] true) ready)).addWaits scatter.frame ∧
    (regionThere.locate regScatter 3 0 0).any (fun p => p.1 < regionThere.hbmStacks.length) ∧
    ((∀ h ∈ regionThere.hbmStacks, h.errors = [] ∧ h.deaf = []) ∧
      ∀ c ∈ regionThere.copiesOf regScatter 3 0, (regionThere.locate regScatter 3 0 c).all fun p =>
        p.1 ≠ 0 ∨ 32768 < p.2 + 0 ∨ p.2 + 0 + [(1 : Byte)].length ≤ 32768) := by decide +kernel

def poolWalk : PoolWalk := { startedAt := 0, reclaim := false, seq := some 4, pair := 0, addr := 0, ring := false, busOk := true }
def walkOf5 : LedgerWalk := { handle := handle5, startedAt := 0, seq := some 4, pair := 0, addr := 0, ring := false, busOk := true }

/-- A ledger audit of region 5 runs while faults of stack 29 are reported. -/
def walking : State :=
  forEach [(29, seven)] (fun e s => s.setStack e.1 (noteFaults e.2)) { withRegion regOnStack ready with ledgerWalks := [walkOf5] }

/-- AuditsComplete. -/
theorem witness_audits :
    (ready.setXbar fun x => { x with walk := some poolWalk }).xbar.walk = some poolWalk ∧
    ([(29, seven)].all (fun e => e.1 < 30 && faultsExist e.2) ∧ walking.ledgerWalks = walkOf5 :: [] ∧
      walking.pairsRun (((walking.regionAt walkOf5.handle).map fun r : Nat × Region => walking.regionPairs r.2).getD [])) ∧
    ready.regionAt walkOf5.handle = none := by decide +kernel

/-! ### Projection and contexts -/

def basisBytes : Bytes := List.replicate 33 1
def loadingBasis (s : State) : State :=
  runs (.basisLoad 7 0 1 (crc32c basisBytes) basisBytes true) { s with bases := s.bases.set 7 { state := .loading } }

set_option maxRecDepth 100000 in
/-- ProjectionRowsComplete. -/
theorem witness_projection :
    (((loadingBasis ready).bases.getD 7 {}).state = .loading ∧ ((loadingBasis ready).projDies.all fun i => !((loadingBasis ready).die i).selfTestOwed) ∧
      ((loadingBasis ready).mailbox.running.find? fun r => r.loads 7).any fun r => r.ending == .basisLoad 7 0 1 (crc32c basisBytes) basisBytes true) ∧
    (crc32c (basisBytes.take (32 * 2 ^ 0 * 1 + 1)) ≠ crc32c basisBytes + 1 ∧ crc32c (basisBytes.take (32 * 2 ^ 0 * 1 + 1)) = crc32c basisBytes ∧
      (basisOf 0 1 basisBytes).isSome) ∧
    29 < ready.dies.length ∧ ((ready.setDie 29 fun d => { d with selfTestOwed := true }).die 29).selfTestOwed ∧
    (withTrav trav ready).traverse 5 = some trav ∧
    ((withTrav { trav with prev := some ({}, 0) } ready).traverse 5 = some { trav with prev := some ({}, 0) } ∧ ¬ before32 trav.oldestGen 0) := by
  decide +kernel
/-! ### Collectives -/

def openGen : Gen := { progress := [{}] }
/-- A root REDUCE traverse of parcel 0 at index 5 with one child part behind port 3, generation 0 open. -/
def travOpen : Traverse := { ctx := { entries := [{ port := 3, role := .child, rankCount := 1 }] }, gens := [openGen], nextGen := 1 }
/-- A PARTIAL frame that begins chain 0 of generation 0 with a block of 32 zeros, with some header fields, a payload and a closure. -/
def partialFrame (fmt poison gap : Nat) (payload : Bytes) (closure : Nat) : Rx :=
  { port := 3, frame := mkFrame [(0, 4, 2), (13, 1, gap), (14, 1, poison), (72, 12, 5), (84, 4, fmt), (173, 13, payload.length)] payload closure 2 }
def goodChain : Rx := partialFrame 0 0 0 (packBlock (List.replicate 32 {})) 0
/-- The checks of R112 that a frame of generation 0 of traverse 5 fails, in their order. -/
def failing (rx : Rx) (p : Progress) (s : State) : List Bool :=
  let c := travOpen.ctx
  let f := rx.frame
  let e := c.entries.getD 0 {}
  [f.taint || !Frame.crcOk f, f.fmt != c.fmtFor f.type || (f.type != 4 && f.datum != 0), f.poison, p.sent.contains f.chain,
   f.type != c.typeFrom e.role || f.ckind != c.ckindFor f.type || !reservedOk f || f.gap || (f.isEnd && !f.last) ||
     f.payloadLen != f.payload.length || !p.allows f || (parseChain s 5 0 c 0 e f).isNone,
   (parseChain s 5 0 c 0 e f).any fun q => q.closure != f.closure]
def chained (p : Progress) (s : State) : State := withTrav { travOpen with gens := [{ openGen with progress := [p] }] } s
/-- The same with the chain's accumulator on a die. -/
def chainedOn (die : Nat) (r : Residency) (s : State) : State :=
  withTrav { travOpen with gens := [{ openGen with accs := [{ accOn die r with chain := 0 }] }] } s

set_option maxRecDepth 100000 in
/-- ChainFramesComplete, second part: a closed traverse, no such member, a frame that may not open its generation, each check that fails first,
and a good frame. -/
theorem witness_chainChecks :
    (ready.traverse 5 = none ∧ goodChain.frame.traverse = 5 ∧ travOpen.ctx.entryFor 9 2 = none ∧ travOpen.ctx.entryFor 3 2 = some 0) ∧
    ((admitGen 5 0 false .implicit none 3 (withTrav trav ready)).2 = false ∧ (admitGen 5 0 false .implicit none 3 (chained {} ready)).2 = true ∧
      ((admitGen 5 0 false .implicit none 3 (chained {} ready)).1.genOf 5 0).isSome) ∧
    (failing (tainted goodChain) {} (chained {} ready)).head? = some true ∧
    (failing (partialFrame 1 0 0 [] 0) {} (chained {} ready)).take 2 = [false, true] ∧
    (failing (partialFrame 0 1 0 [] 0) {} (chained {} ready)).take 3 = [false, false, true] ∧
    (failing (partialFrame 0 0 0 [] 0) { sent := [0] } (chained { sent := [0] } ready)).take 4 = [false, false, false, true] ∧
    (failing (partialFrame 0 0 0 [] 0) {} (chained {} ready)).take 5 = [false, false, false, false, true] ∧
    failing (partialFrame 0 0 0 (packBlock (List.replicate 32 {})) 1) {} (chained {} ready) = [false, false, false, false, false, true] ∧
    failing goodChain {} (chained {} ready) = [false, false, false, false, false, false] := by
  decide +kernel

def chainAt (die : Nat) (s : State) : State := atDie die goodChain s
def isChain (f : Frame) : Bool := 1 ≤ f.type && f.type ≤ 4

/-- ChainFramesComplete, first part: a chain another die accumulates, one behind a running fill, one that a fill must bring back, and one
the die takes. -/
theorem witness_chainRows :
    ((29 : Nat) < 30 ∧ ready.running (groupOfDie 29)) ∧
    (headOf 29 isChain (chainAt 29 (chainedOn 0 .sram ready)) = some goodChain ∧ !(chainAt 29 (chainedOn 0 .sram ready)).earlierInside 29 goodChain ∧
      ((working 29 (chainAt 29 (chainedOn 0 .sram ready))).accDie goodChain.frame).getD 29 ≠ 29 ∧ !goodChain.handed) ∧
    (((working 29 (chainAt 29 (chainedOn 29 .filling ready))).accDie goodChain.frame).getD 29 = 29 ∧
      waitFor (working 29 (chainAt 29 (chainedOn 29 .filling ready))) 29 goodChain.frame = .yes) ∧
    (((working 29 (chainAt 29 (chainedOn 29 .hbm ready))).accDie goodChain.frame).getD 29 = 29 ∧
      waitFor (working 29 (chainAt 29 (chainedOn 29 .hbm ready))) 29 goodChain.frame = .fill) ∧
    (((working 29 (chainAt 29 (chainedOn 29 .sram ready))).accDie goodChain.frame).getD 29 = 29 ∧
      waitFor (working 29 (chainAt 29 (chainedOn 29 .sram ready))) 29 goodChain.frame = .no) := by decide +kernel

/-- A CONTROL frame delivered to die 29 of a part that has traverse 5 as given. -/
def with5 (sub port : Nat) (payload : Bytes) (v : Traverse) : State := atDie 29 (ctl sub port payload) (withTrav v ready)
def got (sub port : Nat) (payload : Bytes) (v : Traverse) : State := (with5 sub port payload v).received 29 (ctl sub port payload)
def takes5 (sub port : Nat) (payload : Bytes) (v : Traverse) : Bool :=
  delivers 29 sub (ctl sub port payload) (with5 sub port payload v) && (got sub port payload v).traverse 5 == some v
/-- The traverse below a parent behind port 9; one that surveys. -/
def below (v : Traverse) : Traverse := { v with ctx := { v.ctx with position := .interior, uptree := 9 } }
def surveying : Traverse := { travOpen with ctx := { travOpen.ctx with dmode := .survey }, gens := [{ openGen with phase := .surveying }] }

set_option maxRecDepth 100000 in
/-- SurveyOpenDatumComplete. -/
theorem witness_surveyOpenDatum :
    (takes5 2 3 [] surveying ∧ ((surveying.ctxAt 0).entries.zipIdx.find? fun e => e.1.port == 3 && (surveying.ctxAt 0).kind == .reduce &&
        ((e.1.role == .endpoint && e.1.rankCount > 0) || e.1.role == .child)).isSome ∧
      (admitGen 5 0 false .implicit none 3 (got 2 3 [] surveying)).2 = true ∧
      ((admitGen 5 0 false .implicit none 3 (got 2 3 [] surveying)).1.genOf 5 0).isSome) ∧
    (takes5 1 3 [] travOpen ∧ ((travOpen.ctxAt 0).entryAt 3).isSome ∧ (admitGen 5 0 false .implicit (some 0) 3 (got 1 3 [] travOpen)).2 = true ∧
      ((admitGen 5 0 false .implicit (some 0) 3 (got 1 3 [] travOpen)).1.genOf 5 0).isSome) ∧
    (takes5 1 9 [] (below travOpen) ∧ ((below travOpen).ctxAt 0).fromParent 9 ∧ (admitGen 5 0 true .explicit (some 0) 9 (got 1 9 [] (below travOpen))).2 = true ∧
      ((admitGen 5 0 true .explicit (some 0) 9 (got 1 9 [] (below travOpen))).1.genOf 5 0).isSome) ∧
    (takes5 3 9 [] (below surveying) ∧ ((below surveying).ctxAt 0).fromParent 9 ∧
      (admitGen 5 0 true .explicit (some 0) 9 (got 3 9 [] (below surveying))).2 = true ∧
      ((admitGen 5 0 true .explicit (some 0) 9 (got 3 9 [] (below surveying))).1.genOf 5 0).isSome) ∧
    (delivers 29 2 (ctl 2 3 []) (atDie 29 (ctl 2 3 []) ready) ∧ ((atDie 29 (ctl 2 3 []) ready).received 29 (ctl 2 3 [])).traverse 5 = none) := by
  decide +kernel

def rec16 : Bytes := List.replicate 16 0
def decided (p : GenPhase) : Traverse := { trav with verdicts := [{ phase := p }], nextGen := 1, oldestGen := 1 }

/-- A BROADCAST traverse from region 5 (layer 0) to port 3, at the root and below it. -/
def serveTrav : Traverse :=
  { ctx := { kind := .broadcast, fmtIn := 3, fmtOut := 3, entries := [{ port := 3, rankCount := 1 }, { role := .region, region := handle5 }] } }
def resultOf (type : Nat) (port : Nat) : Rx := { port := port, frame := mkFrame [(0, 4, type), (72, 12, 5), (84, 4, 3)] [] 0 0 }
def serving (v : Traverse) : State := withRegion reg (withTrav v ready)
/-- A serve request with a reserved bit set. -/
def oddAsk : Rx := { port := 3, frame := mkFrame [(0, 4, 6), (72, 12, 5), (84, 4, 3), (211, 1, 1)] [] 0 0 }
def asks (port : Nat) (v : Traverse) : State := atDie 29 (resultOf 6 port) (serving v)
def full8 (v : Traverse) : Traverse := { v with nextGen := 8 }

def descOf : Desc := { record := 7, at_ := 5 }
def frameRec (f : Frame) (written : Nat) : FrameRec :=
  { id := 7, frame := f, port := 4, runs := [(0, 1)], cells := 1, written := written, ref := 1, epoch := 0, ordered := false, allocAt := 0 }
/-- A frame of traverse 5, generation 0, waits in queue `q`. -/
def queued (q written : Nat) (f : Frame) (s : State) : State := s.setXbar fun x =>
  { x with records := [frameRec f written], queues := [(q, { descs := [descOf] })] }
def openBroadcast (v : Traverse) : Traverse := { v with gens := [{ progress := [{}, {}] }], nextGen := 1 }

set_option maxRecDepth 100000 in
/-- VerdictFramesComplete. -/
theorem witness_verdicts :
    (takes5 4 9 [] (below travOpen) ∧ !(with5 4 9 [] (below travOpen)).chainsInside 5 0 ∧ (admitVerdict 5 0 9 (got 4 9 [] (below travOpen))).2 = true) ∧
    (takes5 5 9 rec16 (below travOpen) ∧ (admitVerdict 5 0 9 (got 5 9 rec16 (below travOpen))).2 = true) ∧
    (takes5 5 8 rec16 (below travOpen) ∧ (admitVerdict 5 0 8 (got 5 8 rec16 (below travOpen))).2 = false) ∧
    (takes5 6 3 rec16 (below travOpen) ∧ (((below travOpen).ctxAt 0).entryAt 3).isSome ∧ !((below travOpen).ctxAt 0).isRoot ∧
      (admitGen 5 0 false .implicit none 3 (got 6 3 rec16 (below travOpen))).2 = true) ∧
    (takes5 6 3 rec16 (decided .complete) ∧ (((decided .complete).ctxAt 0).entryAt 3).isSome ∧ ((decided .complete).ctxAt 0).isRoot ∧
      (decided .complete).completed? 0) ∧
    (takes5 6 3 rec16 (decided .aborted) ∧ !(decided .aborted).completed? 0 ∧ !((decided .aborted).gen? 0).any (·.phase == .complete) ∧
      (admitGen 5 0 false .implicit none 3 (got 6 3 rec16 (decided .aborted))).2 = false) ∧
    (takes5 6 3 rec16 travOpen ∧ (travOpen.ctxAt 0).isRoot ∧ !((travOpen.gen? 0).any (·.phase == .complete)) ∧ !travOpen.completed? 0 ∧
      (admitGen 5 0 false .implicit none 3 (got 6 3 rec16 travOpen)).2 = true) ∧
    ((withTrav travOpen ready).abortReqs 5 0 (travOpen.ctxAt 0) = [] ∧ (withTrav travOpen ready).linkedTo 5 0 = []) ∧
    (serveTrav.ctx.kind = .broadcast ∧ (queued 6656 1 (resultOf 5 9).frame (serving (openBroadcast serveTrav))).chainsInside 5 0) ∧
    (takes5 0xA 3 [] (decided .aborted) ∧ ((decided .aborted).verdicts.find? fun w => w.gen = 0).isSome ∧
      (((decided .aborted).ctxAt 0).entryAt 3).isSome) ∧
    (tallyAt 29 0xB 3 [] { two with round := 1, released := some (0, 6, {}) } = (true, some { two with round := 1, released := some (0, 6, {}) }) ∧
      two.ports.contains 3) := by decide +kernel

set_option maxRecDepth 100000 in
/-- ResultsAndServesComplete. -/
theorem witness_resultsAndServes :
    ((serveTrav.ctx.kind = .broadcast ∧ ((below serveTrav).ctxAt 0).fromParent 9 ∧ !(resultOf 5 9).handed ∧
      ((below serveTrav).gen? 0).map (·.phase) ≠ some .aborting ∧ (admitGen 5 0 true .explicit (some 0) 9 (serving (below serveTrav))).2 = true) ∧
      ((serving (below serveTrav)).setXbar fun x => { x with lookup := [resultOf 5 9] }).xbar.lookup = resultOf 5 9 :: []) ∧
    (headOf 29 (fun f => f.type == 6) (asks 3 (below serveTrav)) = some (resultOf 6 3) ∧ !(resultOf 6 3).frame.taint ∧
      Frame.crcOk (resultOf 6 3).frame ∧ ((asks 3 (below serveTrav)).received 29 (resultOf 6 3)).traverse 5 = some (below serveTrav) ∧
      !(below serveTrav).ctx.isRoot) ∧
    (headOf 29 (fun f => f.type == 6) (atDie 29 oddAsk (serving serveTrav)) = some oddAsk ∧ !oddAsk.frame.taint ∧ Frame.crcOk oddAsk.frame ∧
      !reservedOk oddAsk.frame) ∧
    (((asks 3 serveTrav).received 29 (resultOf 6 3)).traverse 5 = some serveTrav ∧ serveTrav.ctx.isRoot ∧ reservedOk (resultOf 6 3).frame ∧
      (serveTrav.ctx.receivers.any fun e => e.port = 3) ∧ (resultOf 6 3).frame.chain % 2 ^ 24 = 0 ∧ (resultOf 6 3).frame.fmt = serveTrav.ctx.fmtOut ∧
      (resultOf 6 3).frame.gen = 0 ∧ serveTrav.ctx.entries.any fun e => e.role = .region) ∧
    ((serving serveTrav).layerChains serveTrav.ctx 0 ≤ 2 ^ 24 ∧ { serveTrav with queue := [(0, none)] }.hasLayer 0 none) ∧
    (!serveTrav.hasLayer 0 none ∧ { serveTrav with state := .closing }.state = .closing) ∧
    (serveTrav.state ≠ .closing ∧ !((serving serveTrav).sources serveTrav.ctx (some 0)).any (fun e => e.2.stateCode = 0) ∧
      serveTrav.inWindow serveTrav.nextGen ∧ serveTrav.queue = []) ∧
    (!(full8 serveTrav).inWindow (full8 serveTrav).nextGen ∧ !(full8 serveTrav).hasLayer 0 none ∧ (full8 serveTrav).queue.length < 64 ∧
      !{ full8 serveTrav with queue := List.replicate 64 (1, none) }.hasLayer 0 none ∧
      64 ≤ { full8 serveTrav with queue := List.replicate 64 (1, none) }.queue.length) ∧
    ({ serveTrav with queue := [(0, none)] }.queue = (0, none) :: [] ∧ { serveTrav with queue := [(0, none)] }.inWindow 0) := by decide +kernel

/-- GenerationTimersComplete. -/
theorem witness_generationTimers :
    (((chained {} ready).genOf 5 0).isSome ∧ (travOpen.ctxAt 0).kind ≠ .broadcast ∧ (travOpen.ctxAt 0).contributors.contains 0 ∧
      openGen.phase = .open_ ∧ !(openGen.progress.getD 0 {}).ended) ∧
    ((withTrav surveying ready).genOf 5 0 = some { openGen with phase := .surveying }) ∧
    (((serving (openBroadcast (below serveTrav))).genOf 5 0).map (·.phase) = some .open_ ∧ (2 : Nat) = (below serveTrav).ctx.entries.length ∧
      !(below serveTrav).ctx.isRoot ∧ !(below serveTrav).ctx.linkValid) ∧
    ({ serveTrav.ctx with entries := [{ port := 3, rankCount := 0 }, { port := 4, rankCount := 1 }] }.owes { port := 3, rankCount := 0 }) ∧
    (!serveTrav.ctx.owes { port := 3, rankCount := 1 } ∧ serveTrav.ctx.receivers.contains { port := 3, rankCount := 1 } ∧
      (queued 6656 1 (resultOf 5 9).frame (serving (openBroadcast serveTrav))).waitingFor 5 0 3 ≠ []) ∧
    ((withTally { tally5 with uptree := 9, waitAt := some 3 } ready).tally 5 = some { tally5 with uptree := 9, waitAt := some 3 }) ∧
    (!((below travOpen).ctxAt 0).isRoot ∧
      (withTrav (below { travOpen with gens := [{ openGen with phase := .sent }] }) ready).genOf 5 0 = some { openGen with phase := .sent }) := by
  decide +kernel
/-! ### The switch core -/

/-- A frame whose CRC does not match, its HCRC right. -/
def badCrc (rx : Rx) : Rx := { rx with frame := { rx.frame with trailer := rx.frame.trailer ^^^ BitVec.ofNat 128 (2 ^ 64) } }
def cr (f : Frame) : Nat := creditsOf f.payload.length
def arriving (s : State) : State := onGroup (groupOfPort 3) id (up 3 s)
/-- Traverse 5 belongs to parcel 1, whose plat has no port, and port 3 is an endpoint's. -/
def foreignTo (s : State) : State :=
  withPort 3 { upPort with neighbour := BitVec.ofNat 192 (2 <<< 24) } (withParcel (withTrav { trav with ctx := { trav.ctx with parcel := 1 } } (routed s)))
/-- A link whose stream begins with these bytes. -/
def streaming (bs : Bytes) : Link := { rx := bs }
def chainBytes : Bytes := frameBytes goodChain.frame
/-- A frame that asks for an echo, and one of a reserved type. -/
def ceFrame : Frame := mkFrame [(0, 4, 7), (8, 1, 1), (211, 8, 4)] [] 0 0
def type13 : Frame := mkFrame [(0, 4, 13)] [] 0 0
/-- The whole stream of port 3 of a part is these bytes. -/
def streamed (bs : Bytes) : State := withLink 3 (streaming bs) (up 3 (routed ready))
/-- One row that carries nothing. -/
def emptyRow : List (BitVec 256) := List.replicate 8 0

set_option maxRecDepth 100000 in
/-- LaneIngressCompletes: a port that takes rows and one that does not; filler, a word that begins no header, a frame that is whole and one that is
not. -/
theorem witness_ingress :
    ((up 3 ready).portUp 3 ∧ emptyRow.length = 8 ∧ ((withPort 3 (training 7) ready).port 3).state = .training ∧ !ready.portUp 3) ∧
    ((0 : Byte).toNat % 16 = 0 ∧ (1 : Byte).toNat % 16 ≠ 0 ∧ 32 ≤ (List.replicate 48 (1 : Byte)).length ∧
      !Frame.hcrcOk (cutFrame (List.replicate 48 1) 0)) ∧
    (chainBytes.headD 0 = 2 ∧ 32 ≤ chainBytes.length ∧ Frame.hcrcOk (cutFrame chainBytes 0) ∧ frontLen chainBytes = some 4 ∧
      (chainBytes.take 48).length < wireBytes 4 ∧ frontLen (chainBytes.take 48) = some 4 ∧ !stubInFront (chainBytes ++ List.replicate 4 0) 4 ∧
      wireBytes 4 ≤ (chainBytes ++ List.replicate 4 (0 : Byte)).length) ∧
    (!((streamed chainBytes).link 3).rxVoid ∧
      frameStep ((streamed (chainBytes ++ List.replicate 4 0)).link 3) = some (56, some goodChain.frame, false)) ∧
    ((streamed (List.replicate 48 1)).portUp 3 ∧ !((streamed (List.replicate 48 1)).link 3).awaitAck ∧
      frameStep ((streamed (List.replicate 48 1)).link 3) = some (8, none, true)) := by decide +kernel

set_option maxRecDepth 100000 in
/-- LaneIngressCompletes, from a cut frame on: a frame with CE, one of a reserved type and one of a reserved subtype, a tainted one, one that passes,
one whose CRC fails; a frame for which there is no room, one for MD, one before the routes, one of a parcel that has no such port, and one for the
lookup. -/
theorem witness_admission :
    (ceFrame.ce ∧ !type13.ce ∧ !typeOk type13 ∧ typeOk (ctl 12 3 []).frame ∧ !subtypeOk (ctl 12 3 []).frame ∧ !(ctl 12 3 []).frame.ce) ∧
    (!goodChain.frame.ce ∧ typeOk goodChain.frame ∧ subtypeOk goodChain.frame ∧ !goodChain.frame.taint ∧ Frame.crcOk goodChain.frame ∧
      (setTaint goodChain.frame).taint ∧ !Frame.crcOk (badCrc goodChain).frame) ∧
    !mayStart [4, 0, 0, 0, 0, 0, 0, 0] goodChain.frame.vc (cr goodChain.frame) ∧
    (mayStart ((arriving ready).occupied 3) mgmtRead.frame.vc (cr mgmtRead.frame) ∧ forMd (arriving ready) mgmtRead.frame) ∧
    (mayStart ((arriving ready).occupied 3) goodChain.frame.vc (cr goodChain.frame) ∧ !forMd (arriving ready) goodChain.frame ∧
      !(arriving ready).routes.committed) ∧
    ((foreignTo ready).routes.committed ∧ foreignPort (foreignTo ready) 3 goodChain.frame) ∧
    ((arriving (routed ready)).routes.committed ∧ !foreignPort (arriving (routed ready)) 3 goodChain.frame) := by decide +kernel

/-- A frame in the staging of input 158 on VC 7 that has no cells yet. -/
def stagedFrame : Staged := { vc := 7, frame := goodChain.frame, port := 158, targets := [130], cells := 1 }
def stagedAt (i : Nat) (st : Staged) (s : State) : State := s.setXbar fun x => { x with inputs := [(i, { staging := [st] })] }
def sendingOf (s : State) : State := s.setXbar fun x => { x with
  outputs := [(158, { sending := some { queue := 262391, desc := descOf, stub := false, taint := false, header := 0 } })] }

/-- The group of port 3 is throttled; a credit of VC 1 is held back there. -/
def slowed (s : State) : State := inGroup (groupOfPort 3) { throttled := true } (withLink 3 { owed := [0, 1, 0, 0, 0, 0, 0, 0] } s)
/-- Port 3 is an endpoint's. -/
def endpointAt3 (s : State) : State := withPort 3 { upPort with neighbour := BitVec.ofNat 192 (2 <<< 24) } s
/-- Lane chiplet 0 is hot: its injection is halved. -/
def hotChiplet (s : State) : State := { s with supply := { s.supply with hotDies := [0] } }

/-- CellsAndOutputsComplete: a head that waits for cells, a cell slot, a part that forwards nothing; a credit that no limit holds and one that one
does, with a credit held back; an endpoint; an output that begins a frame, one whose frame is whole. -/
theorem witness_cells :
    ((((stagedAt 158 stagedFrame ready).xbar.input 158).headOf 7).any (fun e => e.2.record == none) ∧ !(stagedAt 158 stagedFrame ready).xbar.stopped) ∧
    (!ready.xbar.stopped ∧ ready.running groupX) ∧ (ready.setXbar fun x => { x with stopped := true }).xbar.stopped ∧
    (3 < ready.links.length ∧ 1 < (ready.link 3).owed.length ∧ (ready.link 3).owed.getD 1 0 = 0 ∧ !ready.xbar.threeSlice ∧ ready.returnGap 3 1 = 0) ∧
    ((hotChiplet ready).returnGap 3 1 ≠ 0 ∧ ((hotChiplet ready).link 3).owed.getD 1 0 = 0) ∧
    (((hotChiplet (slowed ready)).link 3).owed.getD 1 0 ≠ 0 ∧ (hotChiplet ready).returnGap 3 1 ≠ 0 ∧
      ((hotChiplet (slowed ready)).link 3).returnAt.getD 1 0 ≤ 0) ∧
    (markAt 1 = some (2048, 8192) ∧ (endpointAt3 ready).endpointPort 3) ∧
    (((queued 262391 1 goodChain.frame ready).xbar.output 158).sending = none ∧ (chooseQueue (queued 262391 1 goodChain.frame ready) 158).any (fun c => c.1 == 262391) ∧
      ((queued 262391 1 goodChain.frame ready).xbar.queue 262391).descs.head? = some descOf ∧
      (queued 262391 1 goodChain.frame ready).xbar.record 7 = some (frameRec goodChain.frame 1) ∧ ready.running (groupOfXport 158)) ∧
    (((sendingOf (queued 262391 1 goodChain.frame ready)).xbar.output 158).sending.any (fun sd => sd.desc.record == 7) ∧
      (frameRec goodChain.frame 1).cells ≤ (frameRec goodChain.frame 1).written) := by decide +kernel

/-- SwitchTimersComplete. -/
theorem witness_switchTimers :
    (ready.routes.prevOrdered = 0 ∧ ready.routes.prevOther = 0) ∧
    (tget 127 (ready.setXbar fun x => { x with joining := [(127, [(6656, descOf)])] }).xbar.joining = some [(6656, descOf)] ∧
      ∀ e ∈ [(6656, descOf)], !(ready.setXbar fun x => { x with joining := [(127, [(6656, descOf)])] }).descWaits e) ∧
    (((queued 262143 1 goodChain.frame ready).xbar.queue 262143).descs = descOf :: []) ∧
    (((((queued 6656 1 goodChain.frame ready).xbar.queues.map fun e => queuePort e.1).eraseDups.mergeSort).map fun o =>
        outputWeight (queued 6656 1 goodChain.frame ready) o).foldl (· + ·) 0 ≠ 0 ∧
      (newThresholds (queued 6656 1 goodChain.frame ready)).map (·.1) = [3]) ∧
    ({ routed ready with monitor := { ready.monitor with periodUs := 10 } }.monitor.periodUs ≠ 0 ∧ (routed ready).routes.committed ∧
      !(routed ready).mailbox.failed ∧ !(routed ready).isHalted 0x80 3) := by
  decide +kernel

/-- StagedFramesAreMarked: toward the port of a ledger die, and toward port 3 with no traverse of the frame's number. -/
theorem witness_stagedFrames :
    ((∀ o ∈ [158, 3], (up 3 ready).portUp o ∨ 128 ≤ o) ∧ frameParcel (up 3 ready) goodChain.frame = none ∧
      ((up 3 ready).xbar.input 158).staging = [] ∧ ∀ m ∈ (up 3 ready).monitor.sessions, !m.valid) ∧
    (frameParcel (up 3 (withTrav trav ready)) goodChain.frame = some 0 ∧ (up 3 (withTrav trav ready)).granted 0 3 (classOf goodChain.frame)) := by
  decide +kernel

/-! ### Well-formedness: a term that each check refuses, and one at its bound -/

/-- WellFormedCommandsRun, and its other side: mailbox pair, port, die, chiplet, group, timebase die, traverse index. -/
theorem test_wfUnits :
    !(Instr.query { wQuery with pair := 64 }).wf ∧ (Instr.query { wQuery with pair := 63 }).wf ∧
    !(Instr.pairEnable who1 64 1).wf ∧ !(Instr.pairEnable { who1 with endpoint := 2 } 0 1).wf ∧ !(Instr.cmpDoorbell { who1 with requester := 65536 } 0 1).wf ∧
    (Instr.cmpDoorbell { endpoint := 1, requester := 65535 } 63 1).wf ∧
    !(Instr.laneFrameIngress 128 []).wf ∧ (Instr.laneFrameIngress 127 [emptyRow]).wf ∧ !(Instr.laneFrameIngress 127 [[]]).wf ∧ !(Instr.scatterAdd 30).wf ∧ (Instr.scatterAdd 29).wf ∧
    !(Instr.patrolScrubLine 30 {}).wf ∧ !(Instr.patrolScrubLine 29 { silent := [64] }).wf ∧ (Instr.patrolScrubLine 29 seven).wf ∧ !(Instr.reseqFrameArrival 31).wf ∧ (Instr.reseqFrameArrival 30).wf ∧ !(Instr.seqFlowRetire 63 0 0 0).wf ∧
    (Instr.seqFlowRetire 62 0 0 0).wf ∧ !(Instr.egReseqFrameArrival 32).wf ∧ !(Instr.wakePoint 20).wf ∧ (Instr.wakePoint 19).wf ∧
    !(Instr.stationMark { tb := 0, lost := [(2, 0)] }).wf ∧ (Instr.stationMark { tb := 1, lost := [(1, 63)] }).wf ∧ !(Instr.stationMark { tb := 2 }).wf ∧ !(Instr.stationTimeout 0 64).wf ∧ !(Instr.contextDrop 4096).wf ∧ (Instr.contextDrop 4095).wf := by decide +kernel

/-- Register offsets, ring memory, lanes, rows, crossbar inputs, VCs and queues. -/
theorem test_wfOffsets :
    !(Instr.registerWrite who1 0x10000 0).wf ∧ !(Instr.registerWrite who1 2 0).wf ∧ (Instr.registerWrite who1 0xFFFC 0).wf ∧
    !(Instr.ringMemoryWrite who1 (32 * 2 ^ 20) [0]).wf ∧ (Instr.ringMemoryWrite who1 (32 * 2 ^ 20 - 1) [0]).wf ∧
    !(Instr.losAssert 0 9).wf ∧ (Instr.losAssert 0 8).wf ∧ !(Instr.trainingRow 0 []).wf ∧
    (Instr.trainingRow 0 row).wf ∧ !(Instr.linkControlWord 0 []).wf ∧ (Instr.linkControlWord 127 (carrying 1 0)).wf ∧
    !(Instr.allocRetry 159 0).wf ∧ !(Instr.allocRetry 0 8).wf ∧ (Instr.allocRetry 158 7).wf ∧ !(Instr.outputFrameStart 159).wf ∧
    !(Instr.outputFrameEnd 0 (some 4)).wf ∧ (Instr.outputFrameEnd 158 (some 3)).wf ∧ !(Instr.descriptorAgeDrop (262144 + 248)).wf ∧
    (Instr.descriptorAgeDrop (262144 + 247)).wf := by decide +kernel

/-- Slots, clocks, crossbar dies, cores, rails, endpoints, die identifiers, debug spaces and processors. -/
theorem test_wfDies :
    !(Instr.basisReady 8).wf ∧ !(Instr.refclkInputLost 2).wf ∧ !(Instr.xdHeartbeatMiss { xd := 4 }).wf ∧ !(Instr.xdHeartbeatMiss { xd := 3, cause := .linkLost 63 }).wf ∧
    (Instr.xdHeartbeatMiss { xd := 3, cause := .linkLost 62 }).wf ∧ !(Instr.mgmtWatchdogExpiry 4).wf ∧
    !(Instr.supplyRailEvent 47 .back).wf ∧ (Instr.supplyRailEvent 46 .back).wf ∧ !(Instr.mpPerstAssert 2).wf ∧
    !(Instr.powerLoopTick [] []).wf ∧ (Instr.powerLoopTick (List.replicate 31 0) []).wf ∧
    !(Instr.hwThrottle 0x24).wf ∧ !(Instr.hwThrottle 0x5E).wf ∧ !(Instr.thermtrip 0x84).wf ∧ (Instr.thermtrip 0x83).wf ∧
    !(Instr.dbgTrace 0x60).wf ∧ (Instr.dbgTrace 0x5D).wf ∧ !(Instr.dbgMem (.sram 0) (160 * 2 ^ 20) none).wf ∧ !(Instr.dbgMem (.hbm 30) 0 none).wf ∧
    !(Instr.dbgMem .cell (512 * 2 ^ 20) none).wf ∧ (Instr.dbgMem (.hbm 29) (36 * 2 ^ 30 - 1) none).wf ∧
    !(Instr.dbgCtrl 0x80 4 .halt).wf ∧ !(Instr.dbgCtrl 0x20 0 .halt).wf ∧ (Instr.dbgCtrl 0x81 0 .halt).wf ∧
    !(Instr.handoverEnd (.rolledBack 0x81)).wf ∧ (Instr.handoverEnd (.rolledBack 0x83)).wf := by decide +kernel
/-! ### Worked examples of the spec -/

def digits : Bytes := [0x31, 0x32, 0x33, 0x34, 0x35, 0x36, 0x37, 0x38, 0x39]

/-- The check values of R97, R98 and R315. -/
theorem test_crcCheckValues : crc16 digits = 0x29B1 ∧ crc32c digits = 0xE3069283 ∧ crc64 digits = 0x995DC9BBDF1939FA := by decide +kernel

/-- SHA-384 of "abc" (FIPS 180-4, the standard R357 names). -/
theorem test_sha384 : beNat (sha384 [0x61, 0x62, 0x63]) =
    0xcb00753f45a35e8bb5a03d699ac65007272c32ab0eded1631a8b605a43ff5bed8086072ba1e7cc2358baeca134c825a7 := by decide +kernel

def bf16s (cs : List Nat) : List Lx := cs.map fun c => Lx.ofNum 1 40 (Fp.bf16.decode c)
def chainA : List Lx := bf16s [0x3FC0, 0x3801, 0x7F80, 0xC060]
def chainB : List Lx := bf16s [0xBE80, 0x3803, 0x3F80, 0x3F40]
def chainC : List Lx := bf16s [0x4000, 0xB880, 0x3F00, 0xBE00]
def sumABC : List Lx := ((chainA.zip chainB).zip chainC).map fun e => (e.1.1.add e.1.2).add e.2

/-- Table 2.6 and the closures beside it (BF16, D = 1, F = 40). -/
theorem test_bf16Chain :
    sumABC.map (·.n.toNat) = [0x000000006800000000000000, 0x000000000000020000000000, 0x000000003000000000000000, 0xFFFFFFFFA400000000000000] ∧
    sumABC.map (·.cls) = [.finite, .finite, .posInf, .finite] ∧ sumABC.map (fun x => x.encode Fp.bf16 false 1) = [0x4050, 0x3580, 0x7F80, 0xC038] ∧
    closureLx 0 chainA = 0x10023FFFFFFFFEF6 ∧ closureLx 0 chainB = 0x0002520000000057 ∧ closureLx 0 chainC = 0x0BFB800000000009 ∧
    iTerm 0 sumABC = 0x0C0011FFFFFFFF49 ∧ closureLx 0 sumABC = 0x1C0011FFFFFFFF56 := by decide +kernel

/-- Block 0 of that sum, packed: header 0x0001_2917, class map 0x10, 104 bytes. -/
theorem test_packedBlock : leNat ((packBlock (sumABC ++ List.replicate 28 ({} : Lx))).take 12) = 0x00012917 + 0x10 <<< 32 ∧
    (packBlock (sumABC ++ List.replicate 28 ({} : Lx))).length = 104 ∧ packBlock (List.replicate 32 ({} : Lx)) = [0, 0, 0, 0] := by decide +kernel

def fp8s (cs : List Nat) : List Lx := cs.map fun c => Lx.ofNum 9 50 (Fp.e4m3.decode c)
def sumPQ : List Lx := ((fp8s [0x24, 0x77, 0x7F, 0x81]).zip (fp8s [0x18, 0x78, 0x7F, 0x2C])).map fun e => e.1.add e.2

/-- Table 2.7 and its closures (E4M3, D = 9, F = 50). -/
theorem test_fp8Chain : sumPQ.map (fun x => x.encode Fp.e4m3 false 9) = [0x28, 0x7F, 0x7F, 0x2C] ∧
    sumPQ.map (fun x => x.encode Fp.e4m3 true 9) = [0x28, 0x7E, 0x7F, 0x2C] ∧ closureLx 0 (fp8s [0x24, 0x77, 0x7F, 0x81]) = 0x1218000000000012 ∧
    closureLx 0 (fp8s [0x18, 0x78, 0x7F, 0x2C]) = 0x07CC000000000013 ∧ closureLx 0 sumPQ = 0x15E400000000001B := by decide +kernel

/-- Table 7.6: the Hadamard basis, b = 32, r = 16. -/
def hadamard : Basis :=
  let q : Basis := { rank := 16, sc := [1, 1] ++ List.replicate 14 0
                     q := ([[1, 1], [1, -1], [1, 1], [1, -1]].map fun r : List Int => r ++ List.replicate 14 0).flatten ++ List.replicate 448 0 }
  { q with z := q.zs, y := q.ys }
def row32 (cs : List Nat) : List (Int × Cls) := (cs.map fun c => projFix 1 (Fp.bf16.decode c)) ++ List.replicate 28 (0, .finite)
def coefsA : List Lx := hadamard.project [] (row32 [0x3FC0, 0x3F00, 0x3FC0, 0x3F00])
def coefsB : List Lx := hadamard.project [] (row32 [0xBE80, 0x3F40, 0xBE80, 0x3F40])

/-- The worked projection of chapter 7: constants, coefficients, predictions and the reconstructed value. -/
theorem test_hadamard :
    hadamard.z.take 2 = [12 * 2 ^ 14, (2 ^ 61 - 1) - 6 * 2 ^ 14] ∧ hadamard.y.take 2 = [120 * 2 ^ 14, (2 ^ 61 - 1) - 60 * 2 ^ 14] ∧
    (coefsA.map (·.n.toInt)).take 2 = [2 ^ 46, 2 ^ 45] ∧ (coefsB.map (·.n.toInt)).take 2 = [2 ^ 44, -2 ^ 45] ∧
    hadamard.iPred (row32 [0x3FC0, 0x3F00, 0x3FC0, 0x3F00]) = 0x0001E00000000000 ∧
    hadamard.iPred (row32 [0xBE80, 0x3F40, 0xBE80, 0x3F40]) = 0x1FFF0FFFFFFFFFFF ∧
    (fun r : List Lx × Int × Bool => (r.2, (r.1.take 5).map fun x => x.encode Fp.bf16 false 19))
        (hadamard.reconstruct [] 1 ((coefsA.zip coefsB).map fun e => e.1.add e.2)) =
      ((19, true), [0x3FA0, 0x3FA0, 0x3FA0, 0x3FA0, 0]) := by decide +kernel

/-- The worked allocation of chapter 13: partition 1 as given, the others without space. -/
def fragmented : Xbar :=
  { free := [[], [(600000, 3), (600010, 1), (600020, 5), (600040, 2), (600100, 40)], [], []], ptrs := [((1, 17), 600000 - 506880)] }
theorem test_allocation : (fragmented.allocString 17 17).isNone ∧
    (fragmented.allocString 17 5).map (·.1) = some [(600000, 3), (600010, 1), (600020, 1)] ∧
    ((fragmented.allocString 17 5).bind fun x => (x.2.allocString 17 17).map (·.1)) = some [(600021, 4), (600040, 2), (600100, 11)] := by
  decide +kernel

/-- The worked placement of chapter 6: pairs 5 and 22 fused off, BASE 17, chain 722,896 of a region bound at 44 × 2^25. -/
def q3 : State := { ready with placement := { usable := (List.range 30).filter fun k => k ≠ 5 ∧ k ≠ 22 } }
def region17 : Region := { kind := 2, mirror := true, base := 17, count := 33554432 }
theorem test_placement : (722896 * 2048 - 44 * 2 ^ 25) / 4096 = 1000 ∧ region17.stripes = 8192 ∧ region17.logical 1000 0 = 27 ∧ q3.physical 27 = 29 ∧
    region17.logical 1000 1 = 12 ∧ q3.physical 12 = 13 ∧ region17.countOn 17 0 = 274 ∧ region17.countOn 19 0 = 273 ∧
    ready.physical 27 = 1 ∧ { ready with placement := { usable := List.range 30 } }.physical 27 = 27 := by decide +kernel

/-- The worked map-out of chapter 12: HS7's allocatable bytes with one pseudo-channel declared, and the homes of the three
lines it places: by their j, 1,000 = 15 · 63 + 55, 279,392 = 4,434 · 63 + 50 and 285,392 = 4,530 · 63 + 2. -/
theorem test_mapout : (stackAt 7 { declared := [13] } q3).allocEnd 7 = 36976984064 ∧ q3.allocEnd 7 = 37580963840 ∧
    (stackAt 0 { declared := [13] } q3).allocEnd 0 = 273920 * 64 * 2048 ∧ homeLine (286720 * 64) [13] 64013 = 18056184 ∧
    homeLine (278528 * 64) [13] (284000 * 64 + 13) = 273920 * 64 + 64 * 4434 + 51 ∧
    homeLine (286720 * 64) [13] (290000 * 64 + 13) = 282112 * 64 + 64 * 4530 + 2 := by decide +kernel

/-- The code of R266: a generator of degree 16 whose roots are the powers of α up to the 15th, the codeword of a line with one symbol, whose first three
syndromes are 0. -/
theorem test_codeword : generator.length = 16 ∧ ((List.range 16).all fun j => gfEval (generator ++ [1]) (gfExp j) == 0) ∧
    ((syndromes ((1023, 7) :: (checkSymbols [7]).zipIdx.map fun e => (1024 + e.2, e.1))).take 3 == [0, 0, 0]) := by decide +kernel

/-- The worked encoding of chapter 15: one APPLY, as its bytes give it. -/
def applyEntry : Command :=
  let words : List (Nat × Nat × Nat) := [(0, 1, 0x0C), (2, 2, 0x0004), (4, 4, 8), (32, 4, 0x00020011), (36, 1, 0), (40, 4, 0x04B0), (44, 4, 0x04B0),
    (48, 4, 0x392AAAAB), (52, 4, 0x3A800000), (56, 4, 0x3F800000), (60, 4, 0x3F800000)]
  { pair := 0, entry := BitVec.ofNat 2048 (packFields (words.map fun w => (8 * w.1, 8 * w.2.1, w.2.2))), buffer := [], bufferOk := true,
    data := [], dataOk := true }
theorem test_applyEncoding : (ready.loaded applyEntry).opcode = 0x0C ∧ (ready.loaded applyEntry).parcel = 4 ∧ (ready.loaded applyEntry).expect = 8 ∧
    (ready.loaded applyEntry).arg 0 32 = 0x00020011 ∧ !(ready.loaded applyEntry).flag 32 ∧ (ready.loaded applyEntry).arg 64 32 = 1200 ∧
    (ready.loaded applyEntry).arg 96 32 = 1200 ∧ (ready.loaded applyEntry).arg 128 32 = 0x392AAAAB ∧ (ready.loaded applyEntry).arg 160 32 = 0x3A800000 ∧
    (ready.loaded applyEntry).arg 192 32 = 0x3F800000 ∧ (ready.loaded applyEntry).arg 224 32 = 0x3F800000 := by decide +kernel

/-- The worked timeout of chapter 3: T = 1,500 µs gives 1.5 ms at height 0 and 3 ms at height 1 (R76). -/
theorem test_timeLimit : limitNs 0 1500 = 1500000 ∧ limitNs 1 1500 = 3000000 := by decide +kernel

/-- IDCODE of an unfused part (R373: bit 0 is 1, the part number 0x0128). -/
theorem test_idcode : (match execIdcode State.reset with
    | .next t => t.trust.tdo
    | _ => 0) = 0x00128001 := by decide +kernel

end Sys2Proof.Tests
end

section
/-! Reference inputs and crossbar dies: what a loss or a return of a REFCLK input does (R20, R21), what the failure of a crossbar
die does (R200, R201, Table 9.2), and O27, assembled from them. -/
namespace Sys2Proof.Proofs
open Sys2Proof.Machine Sys2Proof.Laws

/-! ### The rows, and a command on units that exist -/

theorem guardUnit_of_exists {ok : Bool} {s : State} (h : ok = true) : guardUnit ok s = .next s := if_pos h

theorem exec_refclkInputLost (i : Nat) (s : State) : exec (.refclkInputLost i) s = execRefclkInputLost i s := rfl

theorem exec_refclkInputReturn (i : Nat) (s : State) : exec (.refclkInputReturn i) s = execRefclkInputReturn i s := rfl

theorem exec_xdHeartbeatMiss (x : XdFailure) (s : State) : exec (.xdHeartbeatMiss x) s = execXdHeartbeatMiss x s := rfl

/-! ### REFCLK (R20, R21) -/

/-- R20: with the other input present the tree goes on, and a switch is counted only when the lost input was the one in use. -/
theorem refclkInputLost_of_otherPresent {s : State} {i : Nat} (hi : i < 2) (hp : s.refclk.present.getD i false = true)
    (ho : (s.refclk.present.set i false).getD (1 - i) false = true) :
    exec (.refclkInputLost i) s = .next (if s.refclk.inUse = i
      then State.bump Counter.refclkSwitch partWide { s with refclk := { s.refclk with
        present := s.refclk.present.set i false, inUse := 1 - i } }
      else { s with refclk := { s.refclk with present := s.refclk.present.set i false } }) := by
  rw [exec_refclkInputLost, execRefclkInputLost, guardUnit_of_exists (decide_eq_true hi), hp]
  simp only [ho, Bool.not_true, Bool.false_eq_true, if_false, if_true]

/-- R21: with no other input present the loss is recorded and the part stops forwarding. -/
theorem refclkInputLost_of_otherAbsent {s : State} {i : Nat} (hi : i < 2) (hp : s.refclk.present.getD i false = true)
    (ho : (s.refclk.present.set i false).getD (1 - i) false = false) :
    exec (.refclkInputLost i) s = .next (stopForwarding { s with
      refclk := { s.refclk with present := s.refclk.present.set i false }, trust := { s.trust with refclkLost := true } }) := by
  rw [exec_refclkInputLost, execRefclkInputLost, guardUnit_of_exists (decide_eq_true hi), hp]
  simp only [ho, Bool.not_true, Bool.false_eq_true, if_false]

/-- An absent input that returns is present and valid from now, and taken up when the input in use is absent. -/
theorem refclkInputReturn_of_absent {s : State} {i : Nat} (hi : i < 2) (hp : s.refclk.present.getD i false = false) :
    exec (.refclkInputReturn i) s = .next { s with refclk := { s.refclk with
      present := s.refclk.present.set i true, validSince := s.refclk.validSince.set i s.clock
      inUse := if s.refclk.present.getD s.refclk.inUse false then s.refclk.inUse else i } } := by
  rw [exec_refclkInputReturn, execRefclkInputReturn, guardUnit_of_exists (decide_eq_true hi), hp]
  rfl

/-! ### The cell buffer emptied (Table 9.2, step 2) -/

/-- What every step of a loop leaves as it was, the loop leaves as it was. -/
theorem forEach_keeps {α β : Type} {f : α → State → State} (g : State → β) (hf : ∀ x s, g (f x s) = g s) (xs : List α) :
    ∀ s, g (forEach xs f s) = g s := by
  induction xs with
  | nil => exact fun _ => rfl
  | cons x xs ih => exact fun s => (ih (f x s)).trans (hf x s)

@[simp] theorem setReseq_xbar {place : Nat} {f : Reseq → Reseq} {s : State} : (s.setReseq place f).xbar = s.xbar := by
  unfold State.setReseq
  split
  · rfl
  · split <;> rfl

@[simp] theorem dropHeld_xbar {place : Nat} {s : State} : (dropHeld place s).xbar = s.xbar := by
  simp only [dropHeld, apply_ite State.xbar, bumpBy_xbar, setReseq_xbar, ite_self]

/-- The resequencers let go of what they hold without a change to the crossbar that was just emptied. -/
theorem emptyBuffer_records_queues (s : State) : (emptyBuffer s).xbar.records = [] ∧ (emptyBuffer s).xbar.queues = [] := by
  unfold emptyBuffer
  rw [forEach_keeps State.xbar fun _ _ => dropHeld_xbar]
  exact ⟨rfl, rfl⟩

/-! ### Crossbar dies (R200, R201) -/

/-- R200: every cause leads to the same: the die has failed, once the part has started. -/
theorem xdHeartbeatMiss_of_exists {s : State} {x : Nat} {k : XdCause} (hx : x < 4) (hk : XdCause.ok k = true) :
    exec (.xdHeartbeatMiss { xd := x, cause := k }) s =
      .next (if s.supply.inReset ∨ !s.boot.stage.started then s else failCrossbar x s) := by
  rw [exec_xdHeartbeatMiss, execXdHeartbeatMiss, guardUnit_of_exists (by simp [hx, hk])]

theorem xdHeartbeatMiss_of_started {s : State} {x : Nat} {k : XdCause} (hx : x < 4) (hk : XdCause.ok k = true)
    (hr : (!s.supply.inReset) = true) (hb : s.boot.stage.started = true) :
    exec (.xdHeartbeatMiss { xd := x, cause := k }) s = .next (failCrossbar x s) := by
  rw [xdHeartbeatMiss_of_exists hx hk, if_neg (by simpa [hb] using hr)]

/-- The first die to fail: the steps of Table 9.2 in their order. -/
theorem failCrossbar_first {s v : State} {x : Nat} (h : s.xbar.failed = [])
    (hv : v = settleBroadcasts ((emptyBuffer (cutSending x s)).setXbar (rebuildPool x))) :
    failCrossbar x s = journalEvent 0x04 0xFFFF [(64, 1, 0x20 + x)] (forEach ((List.range 128).filter v.portUp) startCinit v) := by
  unfold failCrossbar Xbar.threeSlice
  rw [if_neg (by simp [h]), if_neg (by simp [h]), hv]

/-- A second die that fails ends forwarding. -/
theorem failCrossbar_second {s : State} {x : Nat} (h : s.xbar.failed ≠ []) (hx : x ∉ s.xbar.failed) :
    failCrossbar x s = stopForwarding (s.setXbar fun b => { b with failed := b.failed ++ [x] }) := by
  unfold failCrossbar Xbar.threeSlice
  rw [if_neg (by simpa using hx), if_pos (by simpa using h)]

/-- A die fails once. -/
theorem failCrossbar_again {s : State} {x : Nat} (hx : x ∈ s.xbar.failed) : failCrossbar x s = s := by
  unfold failCrossbar
  rw [if_pos (by simpa using hx)]

/-! ### O27 -/

/-- Settles O27: each clause is the lemma on its case of the model's row. -/
theorem referenceAndCrossbarFailures : Obligations.ReferenceAndCrossbarFailures := by
  unfold Obligations.ReferenceAndCrossbarFailures
  refine ⟨⟨?other, ?both, ?back⟩, ?first, ?second, ?again⟩
  case other =>
    intro s i hi hp ho
    refine ⟨_, rfl, ?_⟩
    rw [refclkInputLost_of_otherPresent hi hp ho]
    by_cases hu : s.refclk.inUse = i <;> simp only [hu, if_true, if_false]
  case both => exact fun _ _ hi hp ho => ⟨_, rfl, refclkInputLost_of_otherAbsent hi hp ho⟩
  case back => exact fun _ _ hi hp => refclkInputReturn_of_absent hi hp
  case first =>
    intro s x k hx hk hr hb hf
    obtain ⟨hrec, hq⟩ := emptyBuffer_records_queues (cutSending x s)
    exact ⟨_, _, rfl, hrec, hq, rfl, by rw [xdHeartbeatMiss_of_started hx hk hr hb, failCrossbar_first hf rfl]; rfl⟩
  case second =>
    intro s x k hx hk hr hb hf hn
    rw [xdHeartbeatMiss_of_started hx hk hr hb, failCrossbar_second hf hn]
    rfl
  case again =>
    intro s x k hx hk hin
    rw [xdHeartbeatMiss_of_exists hx hk, failCrossbar_again hin, ite_self]

end Sys2Proof.Proofs
end

section
/-! Bytes and fields of a number: little-endian strings read back, the `w`-bit fields of a number whose base-2^w digits are known, and the
two's-complement form of an integer that fits (R6, R34). -/
namespace Sys2Proof.Proofs
open Sys2Proof.Machine

/-! ### Little-endian bytes -/

@[simp] theorem length_leBytes (k n : Nat) : (leBytes k n).length = k := by
  induction k generalizing n with
  | zero => rfl
  | succ k ih => simp [leBytes, ih]

theorem leNat_leBytes {k n : Nat} (h : n < 256 ^ k) : leNat (leBytes k n) = n := by
  induction k generalizing n with
  | zero => simp [leBytes, leNat]; omega
  | succ k ih =>
    have hq : n / 256 < 256 ^ k := Nat.div_lt_of_lt_mul (by rwa [pow_succ, mul_comm] at h)
    rw [leBytes, leNat, ih hq, BitVec.toNat_ofNat]
    omega

@[simp] theorem take_leBytes_append (k n : Nat) (bs : Bytes) : (leBytes k n ++ bs).take k = leBytes k n :=
  List.take_left' (length_leBytes k n)

@[simp] theorem drop_leBytes_append (k n : Nat) (bs : Bytes) : (leBytes k n ++ bs).drop k = bs :=
  List.drop_left' (length_leBytes k n)

/-! ### Fields of equal width -/

/-- Values placed at steps of `w` bits from place `k` on add the number with those base-2^w digits. -/
theorem foldl_shiftLeft_eq_ofDigits {α : Type} (f : α → Nat) (w : Nat) (xs : List α) (k acc : Nat) :
    (xs.zipIdx k).foldl (fun a x => a + f x.1 <<< (w * x.2)) acc = acc + 2 ^ (w * k) * Nat.ofDigits (2 ^ w) (xs.map f) := by
  induction xs generalizing k acc with
  | nil => simp
  | cons x xs ih =>
    rw [List.zipIdx_cons, List.foldl_cons, ih, List.map_cons, Nat.ofDigits_cons, Nat.shiftLeft_eq]
    push_cast
    ring

/-- Digits under a base spell a number under the base's power, base 1 included. -/
theorem ofDigits_lt_pow {w : Nat} {ds : List Nat} (h : ∀ d ∈ ds, d < 2 ^ w) : Nat.ofDigits (2 ^ w) ds < 2 ^ (w * ds.length) := by
  rcases Nat.eq_zero_or_pos w with rfl | hw
  · have hz : ∀ d ∈ ds, d = 0 := fun d hd => by simpa using h d hd
    rw [List.eq_replicate_of_mem hz]
    simp [Nat.ofDigits_replicate_zero]
  · rw [pow_mul]
    exact Nat.ofDigits_lt_base_pow_length (Nat.one_lt_two_pow hw.ne') h

/-- Field `j` of the number is digit `j`. -/
theorem bitsAt_ofDigits {w j : Nat} {ds : List Nat} (h : ∀ d ∈ ds, d < 2 ^ w) (hj : j < ds.length) :
    bitsAt (Nat.ofDigits (2 ^ w) ds) (w * j) w = ds[j] := by
  rw [bitsAt, Nat.shiftRight_eq_div_pow, pow_mul, Nat.ofDigits_div_pow_eq_ofDigits_drop j (Nat.two_pow_pos w) ds h,
    List.drop_eq_getElem_cons hj, Nat.ofDigits_cons]
  simp [Nat.mod_eq_of_lt (h _ (List.getElem_mem hj))]

/-! ### Two's complement -/

theorem unsignedOf_lt (w : Nat) (i : Int) : unsignedOf w i < 2 ^ w := by
  have := Int.emod_lt_of_pos i (b := ((2 ^ w : Nat) : Int)) (by positivity)
  have := Int.emod_nonneg i (b := ((2 ^ w : Nat) : Int)) (by positivity)
  unfold unsignedOf
  omega

theorem signedOf_unsignedOf {w : Nat} {i : Int} (hlo : -((2 ^ w : Nat) : Int) ≤ 2 * i) (hhi : 2 * i < ((2 ^ w : Nat) : Int)) :
    signedOf w (unsignedOf w i) = i := by
  have hlt := unsignedOf_lt w i
  have hcast : ((unsignedOf w i : Nat) : Int) = i % ((2 ^ w : Nat) : Int) :=
    Int.toNat_of_nonneg (Int.emod_nonneg i (by positivity))
  unfold signedOf
  simp only [Nat.mod_eq_of_lt hlt]
  generalize 2 ^ w = b at *
  generalize unsignedOf w i = u at *
  rcases lt_or_ge i 0 with hneg | hpos
  · rw [← Int.add_emod_right, Int.emod_eq_of_lt (by omega) (by omega)] at hcast
    rw [if_neg (by omega)]
    omega
  · rw [Int.emod_eq_of_lt hpos (by omega)] at hcast
    rw [if_pos (by omega), hcast]

theorem lt_two_pow_bitLen (m : Nat) : m < 2 ^ bitLen m := by
  unfold bitLen
  split
  · omega
  · exact Nat.lt_log2_self

theorem bitLen_le {m k : Nat} (h : m < 2 ^ k) : bitLen m ≤ k := by
  unfold bitLen
  split
  · omega
  · next hm => exact (Nat.log2_lt hm).2 h

/-- A value fits every width from `signedWidth` on. -/
theorem fits_of_signedWidth_le {i : Int} {w : Nat} (h : signedWidth i ≤ w) :
    -((2 ^ w : Nat) : Int) ≤ 2 * i ∧ 2 * i < ((2 ^ w : Nat) : Int) := by
  unfold signedWidth at h
  generalize hm : (if i < 0 then (-i - 1).toNat else i.toNat) = m at h
  have hlt := lt_two_pow_bitLen m
  have hp := Nat.pow_le_pow_right (show 0 < 2 by omega) h
  rw [pow_succ] at hp
  split at hm <;> omega

/-- A value of `k + 1` two's-complement bits has at most that width. -/
theorem signedWidth_le {i : Int} {k : Nat} (hlo : -((2 ^ k : Nat) : Int) ≤ i) (hhi : i < ((2 ^ k : Nat) : Int)) :
    signedWidth i ≤ k + 1 := by
  unfold signedWidth
  have : (if i < 0 then (-i - 1).toNat else i.toNat) < 2 ^ k := by split <;> omega
  exact Nat.succ_le_succ (bitLen_le this)

/-! ### Trailing zeros -/

theorem two_pow_trailingZeros_dvd (fuel n : Nat) : 2 ^ trailingZeros fuel n ∣ n := by
  induction fuel generalizing n with
  | zero => simp [trailingZeros]
  | succ fuel ih =>
    rw [trailingZeros]
    split
    · simp
    · have heven : n = n / 2 * 2 := by omega
      rw [pow_succ]
      conv_rhs => rw [heven]
      exact Nat.mul_dvd_mul_right (ih _) 2

/-- The odd part of a number that is not 0 lies under its leading bit. -/
theorem trailingZeros_le {fuel n k : Nat} (hn : n ≠ 0) (h : n ≤ 2 ^ k) : trailingZeros fuel n ≤ k :=
  (Nat.pow_le_pow_iff_right (by omega)).1 ((Nat.le_of_dvd (by omega) (two_pow_trailingZeros_dvd fuel n)).trans h)

end Sys2Proof.Proofs
end

section
/-! Packed LX blocks (R42, R43): the parts of the block the encoder emits, what the decoder makes of a block with such parts, and O12,
assembled from the two. -/
namespace Sys2Proof.Proofs
open Sys2Proof.Machine

/-! ### The parts of a canonical block -/

/-- The values N of a block that are not 0. -/
def nonzeroNs (xs : List Lx) : List Int := (xs.map (·.n.toInt)).filter (· ≠ 0)

/-- SHIFT of R43: the least count of trailing zeros among the values that are not 0. -/
def blockShift (xs : List Lx) : Nat :=
  match nonzeroNs xs with
  | [] => 0
  | n :: ns => ns.foldl (fun m k => min m (trailingZeros 96 k.natAbs)) (trailingZeros 96 n.natAbs)

/-- WIDTH of R43: the least that holds every shifted value, and 0 for a block of zeros. -/
def blockWidth (xs : List Lx) : Nat :=
  (nonzeroNs xs).foldl (fun w n => max w (signedWidth (n.shiftRight (blockShift xs)))) 0

/-- The 32 class codes of a block, base 4. -/
def blockClasses (xs : List Lx) : Nat := Nat.ofDigits (2 ^ 2) (xs.map (·.cls.code))

/-- What a block holds of a value at its WIDTH and SHIFT. -/
def valueField (width shift : Nat) (x : Lx) : Nat := unsignedOf width (x.n.toInt.shiftRight shift)

/-- The 32 value fields of a block. -/
def blockBody (xs : List Lx) : Nat :=
  Nat.ofDigits (2 ^ blockWidth xs) (xs.map (valueField (blockWidth xs) (blockShift xs)))

/-- The first word of a block (R42). -/
def blockHeader (width shift : Nat) (cmap : Bool) : Nat := width + shift * 256 + if cmap then 65536 else 0

/-- The bytes of a block with these fields (R42). -/
def blockBytes (width shift : Nat) (cmap : Bool) (classes body : Nat) : Bytes :=
  leBytes 4 (blockHeader width shift cmap) ++ (if cmap then leBytes 8 classes else []) ++ leBytes (4 * width) body

/-- The values of a block with these fields (R42). -/
def blockValues (width shift classes body : Nat) : List Lx :=
  (List.range 32).map fun j =>
    { n := BitVec.ofInt 96 (signedOf width (bitsAt body (j * width) width) * (2 ^ shift : Nat)), cls := clsOf (bitsAt classes (2 * j) 2) }

theorem packBlock_eq_blockBytes (xs : List Lx) :
    packBlock xs = blockBytes (blockWidth xs) (blockShift xs) (xs.any fun x => x.cls ≠ .finite) (blockClasses xs) (blockBody xs) := by
  have hc := foldl_shiftLeft_eq_ofDigits (fun x : Lx => x.cls.code) 2 xs 0 0
  have hb := foldl_shiftLeft_eq_ofDigits (valueField (blockWidth xs) (blockShift xs)) (blockWidth xs) xs 0 0
  simp only [Nat.mul_zero, pow_zero, one_mul, zero_add] at hc hb
  rw [blockClasses, blockBody, ← hc, ← hb]
  rfl

/-- The fields of the first word read back (R42). -/
theorem blockHeader_fields {width shift : Nat} (cmap : Bool) (hw : width ≤ 96) (hs : shift ≤ 95) :
    blockHeader width shift cmap < 256 ^ 4 ∧ bitsAt (blockHeader width shift cmap) 0 8 = width ∧
      bitsAt (blockHeader width shift cmap) 8 8 = shift ∧ bitAt (blockHeader width shift cmap) 16 = cmap ∧
      bitsAt (blockHeader width shift cmap) 17 15 = 0 := by
  cases cmap <;> simp [blockHeader, bitAt, bitsAt, Nat.shiftRight_eq_div_pow] <;> omega

/-- A well-formed block decodes to its values and leaves the bytes that follow it (R42). -/
theorem unpackBlock_blockBytes {width shift classes body : Nat} {cmap : Bool} (rest : Bytes) (hw : width ≤ 96) (hs : shift ≤ 95)
    (hws : width = 0 → shift = 0) (hcl : classes < 2 ^ 64) (hno : cmap = false → classes = 0) (hb : body < 2 ^ (width * 32)) :
    unpackBlock (blockBytes width shift cmap classes body ++ rest) = some (blockValues width shift classes body, rest) := by
  obtain ⟨hh, hwidth, hshift, hcmap, hres⟩ := blockHeader_fields cmap hw hs
  have hbody : leNat (leBytes (4 * width) body) = body :=
    leNat_leBytes (hb.trans_eq (by rw [show (256 : Nat) = 2 ^ 8 from rfl, ← pow_mul]; congr 1; ring))
  have hclasses : leNat (leBytes 8 classes) = classes := leNat_leBytes hcl
  cases cmap with
  | false =>
    obtain rfl := hno rfl
    simpa [unpackBlock, blockBytes, blockValues, leNat_leBytes hh, hwidth, hshift, hcmap, hres, hbody, hw, hs] using hws
  | true =>
    have hroom : 12 ≤ 4 + (8 + (4 * width + rest.length)) := by omega
    simpa [unpackBlock, blockBytes, blockValues, leNat_leBytes hh, hwidth, hshift, hcmap, hres, hbody, hclasses, hroom, hw, hs]
      using hws

/-! ### SHIFT and WIDTH of a block (R43) -/

theorem foldl_min_le {α : Type} (f : α → Nat) (l : List α) (m : Nat) :
    l.foldl (fun m k => min m (f k)) m ≤ m ∧ ∀ k ∈ l, l.foldl (fun m k => min m (f k)) m ≤ f k := by
  induction l generalizing m with
  | nil => simp
  | cons a l ih =>
    obtain ⟨hm, hl⟩ := ih (min m (f a))
    exact ⟨hm.trans (min_le_left _ _), List.forall_mem_cons.2 ⟨hm.trans (min_le_right _ _), hl⟩⟩

theorem le_foldl_max {α : Type} (f : α → Nat) (l : List α) (m : Nat) :
    m ≤ l.foldl (fun m k => max m (f k)) m ∧ ∀ k ∈ l, f k ≤ l.foldl (fun m k => max m (f k)) m := by
  induction l generalizing m with
  | nil => simp
  | cons a l ih =>
    obtain ⟨hm, hl⟩ := ih (max m (f a))
    exact ⟨(le_max_left _ _).trans hm, List.forall_mem_cons.2 ⟨(le_max_right _ _).trans hm, hl⟩⟩

theorem foldl_max_le {α : Type} {f : α → Nat} {l : List α} {m b : Nat} (hm : m ≤ b) (hl : ∀ k ∈ l, f k ≤ b) :
    l.foldl (fun m k => max m (f k)) m ≤ b := by
  induction l generalizing m with
  | nil => exact hm
  | cons a l ih =>
    obtain ⟨ha, hl⟩ := List.forall_mem_cons.1 hl
    exact ih (max_le hm ha) hl

theorem mem_nonzeroNs {xs : List Lx} {n : Int} : n ∈ nonzeroNs xs ↔ (∃ x ∈ xs, x.n.toInt = n) ∧ n ≠ 0 := by
  simp [nonzeroNs]

/-- N of an LX96 value has 96 bits. -/
theorem lx_range (x : Lx) : -((2 ^ 95 : Nat) : Int) ≤ x.n.toInt ∧ x.n.toInt < ((2 ^ 95 : Nat) : Int) :=
  ⟨BitVec.le_toInt x.n, BitVec.toInt_lt⟩

theorem blockShift_le_trailingZeros {xs : List Lx} {n : Int} (h : n ∈ nonzeroNs xs) :
    blockShift xs ≤ trailingZeros 96 n.natAbs := by
  unfold blockShift
  cases hns : nonzeroNs xs with
  | nil => simp [hns] at h
  | cons a l =>
    obtain ⟨ha, hl⟩ := foldl_min_le (fun k : Int => trailingZeros 96 k.natAbs) l (trailingZeros 96 a.natAbs)
    rw [hns] at h
    rcases List.mem_cons.1 h with rfl | h
    · exact ha
    · exact hl n h

theorem blockShift_of_nonzeroNs_nil {xs : List Lx} (h : nonzeroNs xs = []) : blockShift xs = 0 := by
  rw [blockShift, h]

theorem blockShift_le (xs : List Lx) : blockShift xs ≤ 95 := by
  cases hns : nonzeroNs xs with
  | nil => simp [blockShift_of_nonzeroNs_nil hns]
  | cons n l =>
    have hmem : n ∈ nonzeroNs xs := hns ▸ List.mem_cons_self
    obtain ⟨⟨x, -, rfl⟩, hne⟩ := mem_nonzeroNs.1 hmem
    obtain ⟨hlo, hhi⟩ := lx_range x
    exact (blockShift_le_trailingZeros hmem).trans (trailingZeros_le (by omega) (by omega))

/-- Every value of a block is a multiple of 2^SHIFT. -/
theorem shiftRight_mul_two_pow_blockShift {xs : List Lx} {x : Lx} (hx : x ∈ xs) :
    x.n.toInt.shiftRight (blockShift xs) * (2 ^ blockShift xs : Nat) = x.n.toInt := by
  have hdvd : ((2 ^ blockShift xs : Nat) : Int) ∣ x.n.toInt := by
    by_cases h0 : x.n.toInt = 0
    · simp [h0]
    · have hle := blockShift_le_trailingZeros (mem_nonzeroNs.2 ⟨⟨x, hx, rfl⟩, h0⟩)
      exact Int.natCast_dvd.2 ((pow_dvd_pow 2 hle).trans (two_pow_trailingZeros_dvd 96 _))
  rw [← Int.shiftRight_eq, Int.shiftRight_eq_div_pow]
  exact Int.ediv_mul_cancel hdvd

/-- A shift to the right leaves an LX96 value in 96 bits. -/
theorem signedWidth_shiftRight_le (x : Lx) (s : Nat) : signedWidth (x.n.toInt.shiftRight s) ≤ 96 := by
  obtain ⟨hlo, hhi⟩ := lx_range x
  rw [← Int.shiftRight_eq, Int.shiftRight_eq_div_pow]
  have hs : (1 : Int) ≤ ((2 ^ s : Nat) : Int) := by exact_mod_cast Nat.one_le_two_pow
  refine signedWidth_le (k := 95) ?_ ?_
  · exact (Int.le_ediv_iff_mul_le (by omega)).2 (by nlinarith)
  · exact Int.ediv_lt_of_lt_mul (by omega) (by nlinarith)

theorem blockWidth_le (xs : List Lx) : blockWidth xs ≤ 96 := by
  refine foldl_max_le (Nat.zero_le _) fun n hn => ?_
  obtain ⟨⟨x, -, rfl⟩, -⟩ := mem_nonzeroNs.1 hn
  exact signedWidth_shiftRight_le x _

theorem signedWidth_le_blockWidth {xs : List Lx} {n : Int} (h : n ∈ nonzeroNs xs) :
    signedWidth (n.shiftRight (blockShift xs)) ≤ blockWidth xs :=
  (le_foldl_max (fun n : Int => signedWidth (n.shiftRight (blockShift xs))) (nonzeroNs xs) 0).2 n h

/-- Width 0 is a block of zeros, whose SHIFT is 0. -/
theorem blockShift_of_blockWidth_zero {xs : List Lx} (h : blockWidth xs = 0) : blockShift xs = 0 := by
  refine blockShift_of_nonzeroNs_nil (List.eq_nil_iff_forall_not_mem.2 fun n hn => ?_)
  have := signedWidth_le_blockWidth hn
  rw [h, signedWidth] at this
  omega

/-- Every shifted value of a block fits its WIDTH. -/
theorem signedOf_valueField {xs : List Lx} {x : Lx} (hx : x ∈ xs) :
    signedOf (blockWidth xs) (valueField (blockWidth xs) (blockShift xs) x) = x.n.toInt.shiftRight (blockShift xs) := by
  suffices hfit : -((2 ^ blockWidth xs : Nat) : Int) ≤ 2 * x.n.toInt.shiftRight (blockShift xs) ∧
      2 * x.n.toInt.shiftRight (blockShift xs) < ((2 ^ blockWidth xs : Nat) : Int) from
    signedOf_unsignedOf hfit.1 hfit.2
  by_cases h0 : x.n.toInt = 0
  · rw [h0, ← Int.shiftRight_eq, Int.zero_shiftRight]
    have := Nat.two_pow_pos (blockWidth xs)
    omega
  · exact fits_of_signedWidth_le (signedWidth_le_blockWidth (mem_nonzeroNs.2 ⟨⟨x, hx, rfl⟩, h0⟩))

/-! ### Classes and values read back -/

@[simp] theorem clsOf_code (c : Cls) : clsOf c.code = c := by cases c <;> rfl

theorem code_lt (c : Cls) : c.code < 2 ^ 2 := by cases c <;> decide

theorem codes_lt (xs : List Lx) : ∀ d ∈ xs.map (·.cls.code), d < 2 ^ 2 :=
  List.forall_mem_map.2 fun x _ => code_lt x.cls

theorem valueFields_lt (w s : Nat) (xs : List Lx) : ∀ d ∈ xs.map (valueField w s), d < 2 ^ w :=
  List.forall_mem_map.2 fun _ _ => unsignedOf_lt w _

/-- A block without a class map has every class FINITE, whose code is 0. -/
theorem blockClasses_of_all_finite {xs : List Lx} (h : (xs.any fun x => x.cls ≠ .finite) = false) : blockClasses xs = 0 := by
  have hall : xs.map (·.cls.code) = List.replicate xs.length 0 := by
    refine List.eq_replicate_iff.2 ⟨by simp, List.forall_mem_map.2 fun x hx => ?_⟩
    have hfin : x.cls = .finite := by simpa using List.any_eq_false.1 h x hx
    rw [hfin]
    rfl
  rw [blockClasses, hall, Nat.ofDigits_replicate_zero]

theorem blockValues_of_block {xs : List Lx} (h : xs.length = 32) :
    blockValues (blockWidth xs) (blockShift xs) (blockClasses xs) (blockBody xs) = xs := by
  refine List.ext_getElem (by simp [blockValues, h]) fun j hj hx => ?_
  have hmem : xs[j] ∈ xs := List.getElem_mem hx
  have hcls : bitsAt (blockClasses xs) (2 * j) 2 = xs[j].cls.code := by
    rw [blockClasses, bitsAt_ofDigits (codes_lt xs) (by simpa using hx), List.getElem_map]
  have hval : bitsAt (blockBody xs) (j * blockWidth xs) (blockWidth xs) = valueField (blockWidth xs) (blockShift xs) xs[j] := by
    rw [blockBody, mul_comm j, bitsAt_ofDigits (valueFields_lt _ _ xs) (by simpa using hx), List.getElem_map]
  simp only [blockValues, List.getElem_map, List.getElem_range, hcls, hval, signedOf_valueField hmem,
    shiftRight_mul_two_pow_blockShift hmem, BitVec.ofInt_toInt, clsOf_code]

/-! ### O12 -/

/-- Settles O12: the canonical form is well-formed, so the decoder reads its fields back, and each field gives its value. -/
theorem packedBlocksDecodeBack : Obligations.PackedBlocksDecodeBack := by
  unfold Obligations.PackedBlocksDecodeBack
  intro xs rest h
  have hcl : blockClasses xs < 2 ^ 64 := (ofDigits_lt_pow (codes_lt xs)).trans_eq (by simp [h])
  have hb : blockBody xs < 2 ^ (blockWidth xs * 32) := (ofDigits_lt_pow (valueFields_lt _ _ xs)).trans_eq (by simp [h])
  rw [packBlock_eq_blockBytes, unpackBlock_blockBytes rest (blockWidth_le xs) (blockShift_le xs) blockShift_of_blockWidth_zero hcl
    blockClasses_of_all_finite hb, blockValues_of_block h]

end Sys2Proof.Proofs
end

section
/-! LX96 sums (R36): the class join of Table 2.4, the sum as a commutative and associative operation, the class of a reduction, and O8,
assembled from them. -/
namespace Sys2Proof.Proofs
open Sys2Proof.Machine

/-! ### The class join (Table 2.4) -/

theorem cls_join_assoc (a b c : Cls) : (a.join b).join c = a.join (b.join c) := by
  cases a <;> cases b <;> cases c <;> rfl

theorem cls_join_comm (a b : Cls) : a.join b = b.join a := by
  cases a <;> cases b <;> rfl

/-- The class of a sum of terms of these classes (R36): a function of the set of classes alone. -/
def reducedCls (cs : List Cls) : Cls :=
  if Cls.nan ∈ cs ∨ (Cls.posInf ∈ cs ∧ Cls.negInf ∈ cs) then Cls.nan else if Cls.posInf ∈ cs then Cls.posInf
  else if Cls.negInf ∈ cs then Cls.negInf else Cls.finite

theorem reducedCls_singleton (c : Cls) : reducedCls [c] = c := by
  cases c <;> rfl

/-- Two terms may be replaced by their sum. -/
theorem reducedCls_join (c d : Cls) (cs : List Cls) : reducedCls (c.join d :: cs) = reducedCls (c :: d :: cs) := by
  cases c <;> cases d <;> simp [reducedCls, Cls.join]

theorem foldl_join_eq_reducedCls (c : Cls) (cs : List Cls) : cs.foldl Cls.join c = reducedCls (c :: cs) := by
  induction cs generalizing c with
  | nil => exact (reducedCls_singleton c).symm
  | cons d cs ih => rw [List.foldl_cons, ih, reducedCls_join]

/-! ### Sums -/

@[simp] theorem lx_add_n (a b : Lx) : (a.add b).n = a.n + b.n := rfl

@[simp] theorem lx_add_cls (a b : Lx) : (a.add b).cls = a.cls.join b.cls := rfl

theorem lx_add_assoc (a b c : Lx) : (a.add b).add c = a.add (b.add c) := by
  simp only [Lx.add, cls_join_assoc, BitVec.add_assoc]

theorem lx_add_comm (a b : Lx) : a.add b = b.add a := by
  simp only [Lx.add, cls_join_comm a.cls, BitVec.add_comm a.n]

theorem lx_add_right_comm (a b c : Lx) : (a.add b).add c = (a.add c).add b := by
  rw [lx_add_assoc, lx_add_comm b, lx_add_assoc]

theorem foldl_add_cls (x : Lx) (xs : List Lx) : (xs.foldl Lx.add x).cls = (xs.map (·.cls)).foldl Cls.join x.cls := by
  induction xs generalizing x with
  | nil => rfl
  | cons y ys ih => rw [List.foldl_cons, ih, List.map_cons, List.foldl_cons, lx_add_cls]

/-! ### O8 -/

/-- Settles O8: a reduction keeps R36's sum because the class join and the 96-bit sum are commutative and associative. -/
theorem lxSumsFollowR36 : Obligations.LxSumsFollowR36 := by
  unfold Obligations.LxSumsFollowR36
  refine ⟨?sum, ?table, ?reduction, lx_add_assoc, lx_add_comm, ?reorder⟩
  case sum =>
    intro a b
    rw [lx_add_n, BitVec.ofInt_add, BitVec.ofInt_toInt, BitVec.ofInt_toInt]
  case table =>
    intro a b e he ha hb
    rw [lx_add_cls, ha, hb]
    clear ha hb
    revert e
    decide
  case reduction =>
    rintro x xs _ rfl
    rw [foldl_add_cls, foldl_join_eq_reducedCls]
    rfl
  case reorder => exact fun x xs ys h => h.foldl_eq' (fun b _ c _ a => lx_add_right_comm a b c) x

end Sys2Proof.Proofs
end

section
/-! The I term of the closure (R40, R41) as a weighted sum in the residues mod p: linear in the elements, each weight a unit; and O9,
assembled from both. -/
namespace Sys2Proof.Proofs
open Sys2Proof.Machine

/-- Σ n_i * w * 3^i in the residues mod p. -/
def residueSum : ZMod closureP → List (ZMod closureP) → ZMod closureP
  | _, [] => 0
  | w, n :: ns => n * w + residueSum (w * 3) ns

/-- N of an element as a residue mod p. -/
def residue (x : Lx) : ZMod closureP := (x.n.toInt : ZMod closureP)

/-! ### The model's weighted sum -/

theorem weighted_lt (w : Nat) (ns : List Nat) (acc : Nat) (h : acc < closureP) : weighted w ns acc < closureP := by
  induction ns generalizing w acc with
  | nil => exact h
  | cons n ns ih => exact ih _ _ (Nat.mod_lt _ (by decide))

theorem cast_weighted (w : Nat) (ns : List Nat) (acc : Nat) :
    (weighted w ns acc : ZMod closureP) = acc + residueSum w (ns.map (↑)) := by
  induction ns generalizing w acc with
  | nil => simp [weighted, residueSum]
  | cons n ns ih =>
    rw [weighted, ih, List.map_cons, residueSum]
    push_cast [ZMod.natCast_mod]
    ring

theorem cast_modP (n : Int) : (modP n : ZMod closureP) = n := by
  have h : ((modP n : Nat) : Int) = n % (closureP : Int) := Int.toNat_of_nonneg (Int.emod_nonneg n (by decide))
  rw [← Int.cast_natCast, h, ZMod.intCast_mod]

theorem iTerm_lt (first : Nat) (xs : List Lx) : iTerm first xs < closureP := weighted_lt _ _ _ (by decide)

/-- I is the weighted sum of the residues (R40). -/
theorem cast_iTerm (first : Nat) (xs : List Lx) :
    (iTerm first xs : ZMod closureP) = residueSum (3 ^ (first + 1)) (xs.map residue) := by
  rw [iTerm, cast_weighted, weight, List.map_map, Nat.cast_zero, zero_add, ZMod.natCast_mod]
  push_cast
  congr 1
  exact List.map_congr_left fun x _ => cast_modP x.n.toInt

/-! ### Linearity -/

theorem residueSum_add (w : ZMod closureP) (as bs : List (ZMod closureP)) (h : as.length = bs.length) :
    residueSum w ((as.zip bs).map fun e => e.1 + e.2) = residueSum w as + residueSum w bs := by
  induction as generalizing w bs with
  | nil => cases bs with
    | nil => simp [residueSum]
    | cons b bs => simp at h
  | cons a as ih => cases bs with
    | nil => simp at h
    | cons b bs =>
      rw [List.zip_cons_cons, List.map_cons, residueSum, residueSum, residueSum, ih _ bs (by simpa using h)]
      ring

theorem residueSum_append (w : ZMod closureP) (as bs : List (ZMod closureP)) :
    residueSum w (as ++ bs) = residueSum w as + residueSum (w * 3 ^ as.length) bs := by
  induction as generalizing w with
  | nil => simp [residueSum]
  | cons a as ih =>
    rw [List.cons_append, residueSum, residueSum, ih, List.length_cons, pow_succ', mul_assoc, add_assoc]

/-- 3 is prime to p, so every weight is a unit. -/
theorem isUnit_three_pow (k : Nat) : IsUnit ((3 : ZMod closureP) ^ k) :=
  ((ZMod.isUnit_iff_coprime 3 closureP).2 (by decide)).pow k

/-- Two lists that differ in one residue have different sums. -/
theorem residueSum_ne_of_ne {k : Nat} (as bs : List (ZMod closureP)) {a b : ZMod closureP} (h : a ≠ b) :
    residueSum (3 ^ k) (as ++ a :: bs) ≠ residueSum (3 ^ k) (as ++ b :: bs) := by
  rw [residueSum_append, residueSum_append, residueSum, residueSum, ← pow_add]
  intro heq
  exact h ((isUnit_three_pow _).mul_right_cancel (add_right_cancel (add_left_cancel heq)))

/-! ### Elements -/

/-- A sum that stays in 96 bits is the integers' sum. -/
theorem residue_add {x y : Lx} (hlo : -(2 ^ 95 : Int) ≤ x.n.toInt + y.n.toInt) (hhi : x.n.toInt + y.n.toInt < (2 ^ 95 : Int)) :
    residue (x.add y) = residue x + residue y := by
  have h : (x.n + y.n).toInt = x.n.toInt + y.n.toInt := by
    rw [BitVec.toInt_add]
    exact Int.bmod_eq_of_le (by omega) (by omega)
  rw [residue, residue, residue, lx_add_n, h, Int.cast_add]

theorem residue_ne {x y : Lx} (h : ¬ (y.n.toInt - x.n.toInt) % (closureP : Int) = 0) : residue x ≠ residue y := by
  intro heq
  exact h (Int.emod_eq_zero_of_dvd ((ZMod.intCast_eq_intCast_iff_dvd_sub _ _ _).1 heq))

/-! ### O9 -/

/-- Settles O9: both clauses are read off the weighted sum mod p. -/
theorem closureFollowsTheSums : Obligations.ClosureFollowsTheSums := by
  unfold Obligations.ClosureFollowsTheSums
  refine ⟨?additive, ?detects⟩
  case additive =>
    intro first xs ys hlen hin
    have hmap : ((xs.zip ys).map fun e => e.1.add e.2).map residue =
        ((xs.map residue).zip (ys.map residue)).map fun e => e.1 + e.2 := by
      rw [List.zip_map, List.map_map, List.map_map]
      exact List.map_congr_left fun e he => residue_add (hin e he).1 (hin e he).2
    have hcast : (iTerm first ((xs.zip ys).map fun e => e.1.add e.2) : ZMod closureP) = (iTerm first xs + iTerm first ys : Nat) := by
      rw [Nat.cast_add, cast_iTerm, cast_iTerm, cast_iTerm, hmap, residueSum_add _ _ _ (by simpa using hlen)]
    rw [← Nat.mod_eq_of_lt (iTerm_lt first ((xs.zip ys).map _))]
    exact (ZMod.natCast_eq_natCast_iff' _ _ _).1 hcast
  case detects =>
    intro first xs zs x y hne heq
    have hsum := congrArg (Nat.cast : Nat → ZMod closureP) heq
    rw [cast_iTerm, cast_iTerm, List.map_append, List.map_append] at hsum
    exact residueSum_ne_of_ne _ _ (residue_ne hne) hsum

end Sys2Proof.Proofs
end

section
/-! SR-10 (R48): a round is undone by its inverse, a chain of bijective rounds is bijective, the counter is its four words; and O10,
assembled from them. -/
namespace Sys2Proof.Proofs
open Sys2Proof.Machine

/-- The four words of R48. -/
abbrev SrWords := BitVec 32 × BitVec 32 × BitVec 32 × BitVec 32

/-! ### A round -/

/-- The round read backwards: x0 and x2 stand in the words it moved, and give both masks. -/
def srUnround (c ka kb : BitVec 32) (y : SrWords) : SrWords :=
  let (y0, y1, y2, y3) := y
  let f0 := (y3 + ka).rotateLeft 7 ^^^ (y3.rotateLeft 23 + c)
  let f1 := (y1 + kb).rotateLeft 11 ^^^ (y1.rotateLeft 17 + ~~~c)
  (y3, y0 ^^^ f0, y1, y2 ^^^ f1)

theorem srUnround_srRound (c ka kb : BitVec 32) (x : SrWords) : srUnround c ka kb (srRound c ka kb x) = x := by
  simp only [srUnround, srRound, BitVec.xor_assoc, BitVec.xor_self, BitVec.xor_zero]

theorem srRound_srUnround (c ka kb : BitVec 32) (y : SrWords) : srRound c ka kb (srUnround c ka kb y) = y := by
  simp only [srUnround, srRound, BitVec.xor_assoc, BitVec.xor_self, BitVec.xor_zero]

theorem srRound_bijective (c ka kb : BitVec 32) : Function.Bijective (srRound c ka kb) :=
  Function.bijective_iff_has_inverse.2 ⟨srUnround c ka kb, srUnround_srRound c ka kb, srRound_srUnround c ka kb⟩

/-! ### The rounds -/

theorem foldl_bijective {α β : Type} (f : α → β → α) (hf : ∀ b, Function.Bijective (f · b)) (l : List β) :
    Function.Bijective (l.foldl f) := by
  induction l with
  | nil => exact Function.bijective_id
  | cons b l ih => exact ih.comp (hf b)

/-- Round `c.2` with the constant `c.1`. -/
def srStep (seed : BitVec 64) (x : SrWords) (c : BitVec 32 × Nat) : SrWords :=
  srRound c.1 (srKeys seed c.2).1 (srKeys seed c.2).2 x

/-- The words after the first `r` rounds. -/
def srAfter (seed : BitVec 64) (x : SrWords) (r : Nat) : SrWords := (srConstants.zipIdx.take r).foldl (srStep seed) x

theorem srAfter_succ {seed : BitVec 64} {x : SrWords} {r : Nat} {c : BitVec 32} (h : srConstants[r]? = some c) :
    srAfter seed x (r + 1) = srStep seed (srAfter seed x r) (c, r) := by
  rw [srAfter, List.take_add_one, List.foldl_append, List.getElem?_zipIdx, h]
  simp [srAfter]

/-! ### The counter -/

/-- The words the rounds begin with. -/
def srCounter (gen tensor : BitVec 32) (idx : BitVec 64) : SrWords := (idx.setWidth 32, (idx >>> 32).setWidth 32, tensor, gen)

theorem srCounter_inj {g t g' t' : BitVec 32} {i i' : BitVec 64} (h : srCounter g t i = srCounter g' t' i') :
    g = g' ∧ t = t' ∧ i = i' := by
  simp only [srCounter, Prod.mk.injEq] at h
  obtain ⟨hlo, hhi, rfl, rfl⟩ := h
  exact ⟨rfl, rfl, by bv_omega⟩

theorem srCounter_surj (w : SrWords) : ∃ g t i, srCounter g t i = w := by
  obtain ⟨lo, hi, t, g⟩ := w
  have hlo : (BitVec.ofNat 64 (hi.toNat * 2 ^ 32 + lo.toNat)).setWidth 32 = lo := by bv_omega
  have hhi : (BitVec.ofNat 64 (hi.toNat * 2 ^ 32 + lo.toNat) >>> 32).setWidth 32 = hi := by bv_omega
  exact ⟨g, t, BitVec.ofNat 64 (hi.toNat * 2 ^ 32 + lo.toNat), by rw [srCounter, hlo, hhi]⟩

/-! ### SR-10 -/

theorem sr10_eq_srAfter (seed : BitVec 64) (g t : BitVec 32) (i : BitVec 64) :
    sr10 seed g t i = srAfter seed (srCounter g t i) 10 := rfl

theorem srAfter_bijective (seed : BitVec 64) (r : Nat) : Function.Bijective (srAfter seed · r) :=
  foldl_bijective (srStep seed) (fun _ => srRound_bijective _ _ _) _

/-! ### O10 -/

/-- Settles O10: every round is a bijection of the words, and the counter is its words. -/
theorem sr10FollowsR48 : Obligations.Sr10FollowsR48 := by
  unfold Obligations.Sr10FollowsR48
  refine ⟨?network, ?injective, ?surjective⟩
  case network =>
    intro seed g t i
    refine ⟨srAfter seed (srCounter g t i), rfl, (sr10_eq_srAfter seed g t i).symm, ?_⟩
    rintro r c hrc _ _ _ _ _ _ rfl rfl rfl rfl rfl rfl
    have hget : srConstants[r]? = some c := by fin_cases hrc <;> rfl
    rw [srAfter_succ hget, srStep, srRound, srKeys]
    by_cases hr : r % 2 = 1 <;> simp only [hr, if_true, if_false]
  case injective =>
    intro seed g t i g' t' i' h
    exact srCounter_inj ((srAfter_bijective seed 10).injective h)
  case surjective =>
    intro seed w
    obtain ⟨x, hx⟩ := (srAfter_bijective seed 10).surjective w
    obtain ⟨g, t, i, rfl⟩ := srCounter_surj x
    exact ⟨g, t, i, hx⟩

end Sys2Proof.Proofs
end

section
/-! Stochastic rounding of FP32 to BF16 (R50): the rounding as arithmetic on the sign and the magnitude, how many random values carry, and
O11, assembled from them. -/
namespace Sys2Proof.Proofs
open Sys2Proof.Machine

/-! ### Sign and magnitude -/

/-- The magnitude of an FP32 encoding. -/
theorem toNat_magnitude (f : BitVec 32) : (f &&& 0x7FFFFFFF).toNat = f.toNat % 2 ^ 31 := by
  rw [BitVec.toNat_and]
  exact Nat.and_two_pow_sub_one_eq_mod f.toNat 31

/-- The sign of an FP32 encoding, in its place in BF16. -/
theorem toNat_sign (f : BitVec 32) : ((f &&& 0x80000000) >>> 16).toNat = f.toNat / 2 ^ 31 * 0x8000 := by
  have hbit : f.toNat &&& 2 ^ 31 = f.toNat / 2 ^ 31 % 2 * 2 ^ 31 := by rw [Nat.and_two_pow, Nat.toNat_testBit]
  rw [BitVec.toNat_ushiftRight, BitVec.toNat_and, Nat.shiftRight_eq_div_pow]
  change (f.toNat &&& 2 ^ 31) / 2 ^ 16 = _
  rw [hbit]
  omega

theorem toNat_lowHalf (r : BitVec 32) : (r &&& 0xFFFF).toNat = r.toNat % 65536 := by
  rw [BitVec.toNat_and]
  exact Nat.and_two_pow_sub_one_eq_mod r.toNat 16

/-- A sign and a magnitude of 15 bits join without touching. -/
theorem toNat_sign_or (f : BitVec 32) {x : BitVec 32} (h : x.toNat < 0x8000) :
    ((((f &&& 0x80000000) >>> 16) ||| x).setWidth 16).toNat = f.toNat / 2 ^ 31 * 0x8000 + x.toNat := by
  have hor := Nat.two_pow_add_eq_or_of_lt (i := 15) h (f.toNat / 2 ^ 31)
  rw [BitVec.toNat_setWidth, BitVec.toNat_or, toNat_sign, mul_comm, ← hor]
  have := f.isLt
  omega

/-! ### The three cases of R50 -/

theorem srBf16_nan {f : BitVec 32} (rnd : BitVec 32) (h : 0x7F800000 < f.toNat % 2 ^ 31) : srBf16 f rnd = 0x7FC0 := by
  rw [← toNat_magnitude] at h
  exact if_pos h

theorem toNat_srBf16_inf {f : BitVec 32} (rnd : BitVec 32) (h : f.toNat % 2 ^ 31 = 0x7F800000) :
    (srBf16 f rnd).toNat = f.toNat / 2 ^ 31 * 0x8000 + 0x7F80 := by
  have hm : f &&& 0x7FFFFFFF = 0x7F800000 := BitVec.eq_of_toNat_eq (by rw [toNat_magnitude, h]; rfl)
  rw [srBf16]
  simp only [hm, gt_iff_lt, BitVec.lt_irrefl, if_false, if_true]
  exact toNat_sign_or f (by decide)

/-- A finite value: the random half is added under the magnitude, and what leaves the low half is carried. -/
theorem toNat_srBf16_finite {f : BitVec 32} (rnd : BitVec 32) (h : f.toNat % 2 ^ 31 < 0x7F800000) :
    (srBf16 f rnd).toNat = f.toNat / 2 ^ 31 * 0x8000 + (f.toNat % 2 ^ 31 + rnd.toNat % 65536) / 65536 := by
  have hgt : ¬ f &&& 0x7FFFFFFF > 0x7F800000 := by
    rw [gt_iff_lt, BitVec.lt_def, toNat_magnitude]
    exact Nat.not_lt.2 h.le
  have hne : ¬ f &&& 0x7FFFFFFF = 0x7F800000 := fun he => by
    rw [← toNat_magnitude, he] at h
    exact absurd h (by decide)
  have hsum : (((f &&& 0x7FFFFFFF) + (rnd &&& 0xFFFF)) >>> 16).toNat = (f.toNat % 2 ^ 31 + rnd.toNat % 65536) / 65536 := by
    rw [BitVec.toNat_ushiftRight, BitVec.toNat_add, toNat_magnitude, toNat_lowHalf, Nat.shiftRight_eq_div_pow]
    omega
  rw [srBf16]
  simp only [if_neg hgt, if_neg hne]
  rw [← hsum]
  exact toNat_sign_or f (by rw [hsum]; omega)

/-! ### How many random values round away from zero -/

/-- Of the numbers under `n`, `k` reach `n` when `k` is added. -/
theorem length_filter_range_carry {n k : Nat} (h : k ≤ n) : ((List.range n).filter fun r => decide (n ≤ k + r)).length = k := by
  obtain ⟨d, rfl⟩ := Nat.exists_eq_add_of_le' h
  have hlow : (List.range d).filter (fun r => decide (d + k ≤ k + r)) = [] :=
    List.filter_eq_nil_iff.2 fun r hr => by have := List.mem_range.1 hr; simp; omega
  have hhigh : ((List.range k).map (d + ·)).filter (fun r => decide (d + k ≤ k + r)) = (List.range k).map (d + ·) :=
    List.filter_eq_self.2 <| List.forall_mem_map.2 fun r _ => by simp; omega
  rw [List.range_add, List.filter_append, hlow, hhigh, List.nil_append, List.length_map, List.length_range]

/-- The discarded bits are the number of the 65,536 random halves that round away from zero. -/
theorem length_filter_srBf16 {f : BitVec 32} (h : f.toNat % 2 ^ 31 < 0x7F800000) :
    ((List.range 65536).filter fun r =>
      (srBf16 f (BitVec.ofNat 32 r)).toNat == f.toNat / 2 ^ 31 * 0x8000 + f.toNat % 2 ^ 31 / 65536 + 1).length =
      f.toNat % 2 ^ 31 % 65536 := by
  rw [← length_filter_range_carry (Nat.mod_lt (f.toNat % 2 ^ 31) (show 65536 > 0 by decide)).le]
  refine congrArg _ (List.filter_congr fun r hr => ?_)
  have hr := List.mem_range.1 hr
  rw [toNat_srBf16_finite _ h, BitVec.toNat_ofNat, Bool.beq_eq_decide_eq, decide_eq_decide]
  omega

/-! ### O11 -/

/-- Settles O11: each clause is arithmetic on the value the case of R50 gives. -/
theorem stochasticRoundingFollowsR50 : Obligations.StochasticRoundingFollowsR50 := by
  unfold Obligations.StochasticRoundingFollowsR50
  rintro f rnd _ _ _ rfl rfl rfl
  refine ⟨srBf16_nan rnd, toNat_srBf16_inf rnd, fun hfin => ?_⟩
  have hval := toNat_srBf16_finite rnd hfin
  refine ⟨hval, ?cutOrNext, length_filter_srBf16 hfin, ?exact, ?zero, ?overflow⟩
  case cutOrNext => omega
  case exact => omega
  case zero =>
    intro h0
    have hs : f.toNat / 2 ^ 31 = 0 ∨ f.toNat / 2 ^ 31 = 1 := by omega
    have hlow : (0 + rnd.toNat % 65536) / 65536 = 0 := by omega
    refine BitVec.eq_of_toNat_eq (hval.trans ?_)
    rw [h0, hlow]
    rcases hs with hs | hs <;> rw [hs] <;> rfl
  case overflow => omega

end Sys2Proof.Proofs
end

section
/-! Traverses and tallies while a command is taken: acceptance journals the command and wakes groups, and changes none of
them. With it O14, by what each opcode's verdict makes of the command. -/
namespace Sys2Proof.Proofs
open Sys2Proof.Machine Sys2Proof.Laws

/-! ### Acceptance leaves traverses and tallies (R304) -/

/-- The traverses and tallies of a part. -/
def treeRecords (s : State) : List (Nat × Traverse) × List (Nat × Tally) := (s.traverses, s.tallies)

theorem workGroup_treeRecords (g : Nat) (s : State) : treeRecords (workGroup g s) = treeRecords s := by
  unfold workGroup wakeGroup
  split
  · rfl
  · split <;> rfl

theorem workPairs_treeRecords (pairs : List Nat) (s : State) : treeRecords (workPairs pairs s) = treeRecords s :=
  forEach_keeps treeRecords workGroup_treeRecords _ s

@[simp] theorem setStack_treeRecords (i : Nat) (f : Hbm → Hbm) (s : State) : treeRecords (s.setStack i f) = treeRecords s := rfl

@[simp] theorem countCorrected_treeRecords (pair pch symbols : Nat) (s : State) :
    treeRecords (countCorrected pair pch symbols s) = treeRecords s := rfl

@[simp] theorem countLost_treeRecords (pair pch : Nat) (s : State) : treeRecords (countLost pair pch s) = treeRecords s := rfl

theorem decodeCount_treeRecords (pair a : Nat) (back : Bool) (s : State) : treeRecords (decodeCount pair a back s) = treeRecords s := by
  unfold decodeCount
  dsimp only
  split
  case h_1 => exact setStack_treeRecords ..
  case h_2 => simp only [apply_ite treeRecords, setStack_treeRecords, countCorrected_treeRecords, ite_self]
  case h_3 => simp only [countLost_treeRecords, setStack_treeRecords]

theorem writeBookLine_treeRecords (seq : Nat) (s : State) : treeRecords (writeBookLine seq s) = treeRecords s := by
  refine forEach_keeps treeRecords (fun c s => ?_) _ s
  dsimp only
  split
  · exact decodeCount_treeRecords ..
  · exact decodeCount_treeRecords ..

theorem journalCommand_treeRecords (c : Cmd) (index : BitVec 16) (a : Accepted) (s : State) :
    treeRecords (journalCommand c index a s) = treeRecords s :=
  (writeBookLine_treeRecords _ _).trans (workPairs_treeRecords _ _)

theorem begun_treeRecords (s : State) (c : Command) (a : Accepted) : treeRecords (s.begun c a) = treeRecords s :=
  (workPairs_treeRecords _ _).trans (journalCommand_treeRecords ..)

@[simp] theorem begun_traverses (s : State) (c : Command) (a : Accepted) : (s.begun c a).traverses = s.traverses :=
  congrArg Prod.fst (begun_treeRecords s c a)

@[simp] theorem begun_tallies (s : State) (c : Command) (a : Accepted) : (s.begun c a).tallies = s.tallies :=
  congrArg Prod.snd (begun_treeRecords s c a)

/-! ### What an accepted verdict does (Table 15.4) -/

section
variable {c : Cmd} {s : State} {a : Accepted}

theorem openVerdict_creates (h : openVerdict c s = .accept a) (hn : s.traverse (ctxIndex c.buffer) = none) (n : Nat) (u : State) :
    a.effect n u = { u with
      traverses := tset (ctxIndex c.buffer) { ctx := ctxOf c.buffer, nextGen := ctxNextGen c.buffer, oldestGen := ctxNextGen c.buffer }
        u.traverses } := by
  cases (verdictOf_accept h).1
  simp only [hn]

theorem openVerdict_changes {v : Traverse} (h : openVerdict c s = .accept a) (hv : s.traverse (ctxIndex c.buffer) = some v) (n : Nat)
    (u : State) : a.effect n u = u.setTraverse (ctxIndex c.buffer) fun v =>
      { v.change (ctxOf c.buffer) (c.word 0) with version := v.version + 1 } := by
  cases (verdictOf_accept h).1
  simp only [hv]

theorem closeVerdict_closes (h : closeVerdict c s = .accept a) (n : Nat) (u : State) :
    a.effect n u = closeTraverse (c.arg 0 12) (c.flag 12) u := by
  unfold closeVerdict at h
  dsimp only at h
  split at h
  · cases h
  · cases (verdictOf_accept h).1
    rfl

theorem genOpenVerdict_opens (h : genOpenVerdict c s = .accept a) (n : Nat) (u : State) :
    a.effect n u = openOne (c.arg 0 12) .explicit (if c.flag 12 then some (signedOf 9 (c.arg 16 9)) else none) none u := by
  unfold genOpenVerdict at h
  dsimp only at h
  split at h
  · cases h
  · cases (verdictOf_accept h).1
    rfl

/-- R390, R391: what MEMBER_REMAP and ADMIT have in common; an ADMIT with RESTART_ONLY is the case that changes nothing. -/
theorem memberVerdict_acts (h : memberVerdict c s = .accept a) (n : Nat) (u : State) :
    a.effect n u = if (c.opcode == 0x17 && !c.flag 32) = true then u
      else addAction c.parcel c.trigger
        (if (c.opcode == 0x17) = true then .warmAdmit (c.arg 0 12) (c.arg 16 8) (c.arg 24 8) (c.word 64)
          else .remap (c.arg 0 12) (c.arg 16 8) (c.arg 24 8) (c.word 64))
        (u.setTraverse (c.arg 0 12) fun v => { v with version := v.version + 1 }) := by
  unfold memberVerdict at h
  dsimp only at h
  split at h
  · cases h
  · cases (verdictOf_accept h).1
    rfl

theorem tallyVerdict_frees (h : tallyVerdict c s = .accept a) (hf : c.flag 12 = true) (n : Nat) (u : State) :
    a.effect n u = { u with tallies := tdel (c.arg 0 12) u.tallies } := by
  unfold tallyVerdict at h
  rw [if_pos hf] at h
  cases (verdictOf_accept h).1
  rfl

theorem tallyVerdict_creates (h : tallyVerdict c s = .accept a) (hf : c.flag 12 = false) (hn : s.tally (c.arg 0 12) = none) (n : Nat)
    (u : State) : a.effect n u = { u with tallies := tset (c.arg 0 12) (tallyOf c.buffer) u.tallies } := by
  unfold tallyVerdict at h
  rw [if_neg (by simp [hf])] at h
  cases (verdictOf_accept h).1
  simp only [hn]

theorem tallyVerdict_changes {y : Tally} (h : tallyVerdict c s = .accept a) (hf : c.flag 12 = false) (hy : s.tally (c.arg 0 12) = some y)
    (n : Nat) (u : State) : a.effect n u = changeTally (c.arg 0 12) (tallyOf c.buffer) u := by
  unfold tallyVerdict at h
  rw [if_neg (by simp [hf])] at h
  cases (verdictOf_accept h).1
  simp only [hy]

end

/-! ### O14 -/

/-- A row's command that is accepted begins its effect in the state that journals it. -/
theorem runCommand_of_effect {form : Cmd → Bool} {own : Cmd → State → CmdVerdict} {c : Command} {s u : State} {a : Accepted}
    (h : Accepts form own c s a) (he : a.effect s.book.next (s.begun c a) = u) : runCommand form own c s = .next u :=
  (runCommand_accepts h).trans (congrArg _ he)

theorem flag_clear_of_form {d : Cmd} {o n : Nat} (h : decide (d.opcode = o ∧ (!d.flag n) = true) = true) : d.flag n = false := by
  simpa using (of_decide_eq_true h).2

/-- Settles O14: each clause is what the opcode's verdict makes of the command, in the state that has journaled it. -/
theorem traverseAndTallyCommandsComplete : Obligations.TraverseAndTallyCommandsComplete := by
  unfold Obligations.TraverseAndTallyCommandsComplete
  refine ⟨⟨?open_, ?reopen, ?close, ?force, ?gen, ?remap, ?restart, ?warm⟩, ?tally, ?retally, ?free⟩
  case open_ =>
    intro c s a h hn
    exact runCommand_of_effect h ((openVerdict_creates (Accepts.own h) hn _ _).trans (by rw [begun_traverses]))
  case reopen => exact fun c s a v h hv => runCommand_of_effect h (openVerdict_changes (Accepts.own h) hv _ _)
  case close =>
    intro c s a h
    exact runCommand_of_effect h ((closeVerdict_closes (Accepts.own h) _ _).trans (by rw [flag_clear_of_form h.form]))
  case force =>
    intro c s a h
    have hf : (s.loaded c).flag 12 = true := (of_decide_eq_true h.form).2
    exact runCommand_of_effect h ((closeVerdict_closes (Accepts.own h) _ _).trans (by rw [hf]))
  case gen => exact fun c s a h => runCommand_of_effect h (genOpenVerdict_opens (Accepts.own h) _ _)
  case remap =>
    intro c s a h
    have ho : (s.loaded c).opcode = 0x16 := of_decide_eq_true h.form
    exact runCommand_of_effect h ((memberVerdict_acts (Accepts.own h) _ _).trans (by simp [ho]))
  case restart =>
    intro c s a h
    have ⟨ho, hf⟩ := of_decide_eq_true h.form
    exact runCommand_of_effect h ((memberVerdict_acts (Accepts.own h) _ _).trans (by rw [if_pos (by simpa [ho] using hf)]))
  case warm =>
    intro c s a h
    have ⟨ho, hf⟩ := of_decide_eq_true h.form
    exact runCommand_of_effect h ((memberVerdict_acts (Accepts.own h) _ _).trans (by simp [ho, hf]))
  case tally =>
    intro c s a h hn
    exact runCommand_of_effect h ((tallyVerdict_creates (Accepts.own h) (flag_clear_of_form h.form) hn _ _).trans (by rw [begun_tallies]))
  case retally =>
    intro c s a y h hy
    exact runCommand_of_effect h (tallyVerdict_changes (Accepts.own h) (flag_clear_of_form h.form) hy _ _)
  case free =>
    intro c s a h
    have hf : (s.loaded c).flag 12 = true := (of_decide_eq_true h.form).2
    exact runCommand_of_effect h ((tallyVerdict_frees (Accepts.own h) hf _ _).trans (by rw [begun_tallies]))

end Sys2Proof.Proofs
end

section
/-! Rows of a ledger die: a good CONTROL frame that is delivered has its effect, in the state in which the die has taken it (R94, R110, R346). -/
namespace Sys2Proof.Proofs
open Sys2Proof.Machine Sys2Proof.Laws

theorem onDie_of_running {die : Nat} {s : State} (h : s.running (groupOfDie die) = true) (work : State → State) :
    onDie die work s = work (s.setGroup (groupOfDie die) fun x => { x with workAt := s.clock }) := if_pos h

theorem controlRow_of_delivers {die sub : Nat} {rx : Rx} {s : State} (h : Delivers die sub rx s) (effect : Rx → State → State) :
    controlRow die sub effect s = effect rx (s.received die rx) := by
  obtain ⟨htaint, hcrc⟩ := h.whole
  obtain ⟨hreserved, hpayload⟩ := h.clear
  unfold controlRow
  rw [h.head]
  dsimp only
  rw [onDie_of_running h.runs, if_neg (by simp [htaint, hcrc]), if_neg (by simp [hreserved, hpayload])]
  rfl

theorem guardUnit_controlRow {die sub : Nat} {rx : Rx} {s : State} (h : Delivers die sub rx s) (effect : Rx → State → State) :
    guardUnit (die < Config.pairs) (controlRow die sub effect s) = .next (effect rx (s.received die rx)) :=
  (guardUnit_of_exists (decide_eq_true h.low)).trans (congrArg _ (controlRow_of_delivers h effect))

section
variable {die : Nat} {rx : Rx} {s : State}

theorem exec_openFrame (h : Delivers die 1 rx s) : exec (.openFrame die) s = .next (openEffect rx (s.received die rx)) :=
  guardUnit_controlRow h _

theorem exec_surveyFrame (h : Delivers die 2 rx s) : exec (.surveyFrame die) s = .next (surveyEffect rx (s.received die rx)) :=
  guardUnit_controlRow h _

theorem exec_datumFrame (h : Delivers die 3 rx s) : exec (.datumFrame die) s = .next (datumEffect rx (s.received die rx)) :=
  guardUnit_controlRow h _

/-- R66: the verdict of a BROADCAST waits while chains of the generation are inside. -/
theorem exec_doneFrame (h : Delivers die 4 rx s) (hc : s.chainsInside rx.frame.traverse rx.frame.gen = false) :
    exec (.doneFrame die) s = .next (doneEffect rx (s.received die rx)) := by
  refine Eq.trans ?_ (guardUnit_controlRow h doneEffect)
  change execDoneFrame die s = _
  unfold execDoneFrame
  simp only [h.head, hc, Bool.false_eq_true, if_false]

theorem exec_abortCommonFrame (h : Delivers die 5 rx s) :
    exec (.abortCommonFrame die) s = .next (abortCommonEffect rx (s.received die rx)) := guardUnit_controlRow h _

theorem exec_abortReqFrame (h : Delivers die 6 rx s) : exec (.abortReqFrame die) s = .next (abortReqEffect rx (s.received die rx)) :=
  guardUnit_controlRow h _

theorem exec_tallyArrival (h : Delivers die 7 rx s) : exec (.tallyArrival die) s = .next (arrivalEffect rx (s.received die rx)) :=
  guardUnit_controlRow h _

theorem exec_tallyRelease (h : Delivers die 8 rx s) : exec (.tallyRelease die) s = .next (releaseEffect rx (s.received die rx)) :=
  guardUnit_controlRow h _

theorem exec_timeoutReqFrame (h : Delivers die 9 rx s) :
    exec (.timeoutReqFrame die) s = .next (timeoutReqEffect rx (s.received die rx)) := guardUnit_controlRow h _

theorem exec_verdictQueryFrame (h : Delivers die 0xA rx s) :
    exec (.verdictQueryFrame die) s = .next (verdictQueryEffect rx (s.received die rx)) := guardUnit_controlRow h _

theorem exec_releaseQueryFrame (h : Delivers die 0xB rx s) :
    exec (.releaseQueryFrame die) s = .next (releaseQueryEffect rx (s.received die rx)) := guardUnit_controlRow h _

end

end Sys2Proof.Proofs
end

section
/-! Rounds of a tally (R81-R83): what an ARRIVAL, a RELEASE and a TIMEOUT_REQ do to the tally they meet, and O46, assembled from them. -/
namespace Sys2Proof.Proofs
open Sys2Proof.Machine Sys2Proof.Laws

/-! ### Frames that meet a tally -/

/-- An ARRIVAL the tally does not take: of the wrong mode or round, of no member, or of one that has arrived (R82). -/
def arrivalForeign (y : Tally) (rx : Rx) : Prop :=
  y.genMode ∨ rx.frame.gen ≠ y.round ∨ !y.ports.contains rx.port ∨ y.arrived.contains rx.port

/-- A round's state with one more arrival recorded (R82). -/
def arrivedState (u : State) (rx : Rx) : State := u.setTally rx.frame.traverse fun y =>
  { y with arrived := y.arrived ++ [rx.port], firstAt := if y.arrived.isEmpty then u.clock else y.firstAt }

section
variable {rx : Rx} {u : State} {y : Tally}

theorem arrivalEffect_foreign (hy : u.tally rx.frame.traverse = some y) (h : arrivalForeign y rx) :
    arrivalEffect rx u = discardTally rx.frame.traverse u := by
  unfold arrivalEffect
  simp only [hy]
  exact if_pos h

theorem arrivalEffect_recorded (hy : u.tally rx.frame.traverse = some y) (h : ¬ arrivalForeign y rx) :
    arrivalEffect rx u = if y.arrived.length + 1 < y.expect then arrivedState u rx
      else if y.uptree = 0xFF then releaseBarrier rx.frame.traverse 0 {} (arrivedState u rx)
      else sendControl 0 7 rx.frame.traverse y.round 0 0 [] [y.uptree]
        ((arrivedState u rx).setTally rx.frame.traverse fun y => { y with waitAt := some (arrivedState u rx).clock }) := by
  unfold arrivalEffect
  simp only [hy]
  exact if_neg h

/-- A RELEASE of the current round from the parent, OK or TIMEOUT (R82, R83). -/
theorem releaseEffect_current {st : Nat} (hy : u.tally rx.frame.traverse = some y) (hm : (!y.genMode) = true) (hr : rx.frame.gen = y.round)
    (hu : y.uptree ≠ 0xFF) (hp : rx.port = y.uptree) (hst : st = (rx.frame.payload.headD 0).toNat) (hok : st = 0 ∨ st = 6) :
    releaseEffect rx u = releaseBarrier rx.frame.traverse st (abortRecOf (rx.frame.payload.drop 1)) u := by
  subst hst
  have hm : y.genMode = false := by simpa using hm
  unfold releaseEffect
  simp only [hy]
  exact if_neg (by simp only [hm, hr, hu, hp, hok]; simp)

/-- A TIMEOUT_REQ of a member goes on toward the root, where it releases the current round (R83). -/
theorem timeoutReqEffect_member (hy : u.tally rx.frame.traverse = some y) (hm : (!y.genMode) = true) (hp : y.ports.contains rx.port = true) :
    timeoutReqEffect rx u = if y.uptree ≠ 0xFF then sendToward (u.homePort rx.frame.traverse) rx.frame y.uptree u
      else if rx.frame.gen ≠ y.round then discardTally rx.frame.traverse u
      else releaseBarrier rx.frame.traverse 6 (u.settledTimeout rx.frame.traverse y rx.port (abortRecOf rx.frame.payload)) u := by
  have hm : y.genMode = false := by simpa using hm
  unfold timeoutReqEffect
  simp only [hy]
  exact if_neg (by rw [hm, hp]; decide)

/-- T_h after the first arrival with a member missing (R83). -/
theorem tallyMemberLate_late {s : State} {t p : Nat} {ps : List Nat} (ht : t < 4096) (hy : s.tally t = some y)
    (hl : (y.ports.filter fun p => !y.arrived.contains p) = p :: ps) (hm : (!y.genMode) = true) (ha : y.arrived ≠ [])
    (hq : (!y.requested) = true) (hu : u = s.reach (y.firstAt + limitNs y.height y.timeoutUs)) {r : AbortRec}
    (hr : r = { gen := y.round, traverse := t, cause := 1, port := ps.foldl min p, part := s.number }) :
    exec (.tallyMemberLate t) s = .next (if y.uptree = 0xFF then releaseBarrier t 6 (u.settledTimeout t y ownRank r) u
      else sendControl 0 9 t y.round 0 0 r.bytes [y.uptree] (u.setTally t fun y => { y with requested := true })) := by
  have hm : y.genMode = false := by simpa using hm
  have hq : y.requested = false := by simpa using hq
  subst hu hr
  refine (guardUnit_of_exists (decide_eq_true ht)).trans (congrArg _ ?_)
  simp only [hy, hl]
  exact if_neg (by simp [hm, ha, hq])

/-- With no TIMEOUT_REQ of the tally waiting at a die, the cause at hand stands (R67, log 59). -/
theorem settledTimeout_of_none {s : State} {t port : Nat} {r : AbortRec}
    (h : ∀ d ∈ s.dies, ∀ rx ∈ d.reseq.inbox, (!(isControl 9 rx.frame && rx.frame.traverse == t)) = true) :
    s.settledTimeout t y port r = r := by
  unfold State.settledTimeout
  rw [List.filterMap_eq_nil_iff.2]
  · rfl
  · intro rx hrx
    obtain ⟨d, hd, hin⟩ := List.mem_flatMap.1 hrx
    have hne := h d hd rx hin
    exact if_neg fun ⟨hreq, _, htally, _⟩ => by simp [hreq, htally] at hne

end

/-! ### O46 -/

/-- Settles O46: each clause is the lemma on its frame, at the tally it meets. -/
theorem tallyRoundsComplete : Obligations.TallyRoundsComplete := by
  unfold Obligations.TallyRoundsComplete
  refine ⟨?arrival, ?release, ?late, ?request, ?alone, ?ends⟩
  case arrival =>
    intro s die rx u y hd hu hy
    subst hu
    refine ⟨fun hf => ?_, fun hf => ⟨_, rfl, fun hlt => ?_, fun hge hroot => ?_, fun hge hroot => ?_⟩⟩ <;> rw [exec_tallyArrival hd]
    · rw [arrivalEffect_foreign hy hf]
      rfl
    · rw [arrivalEffect_recorded hy hf, if_pos hlt]
      rfl
    · rw [arrivalEffect_recorded hy hf, if_neg (Nat.not_lt.2 hge), if_pos hroot]
      rfl
    · rw [arrivalEffect_recorded hy hf, if_neg (Nat.not_lt.2 hge), if_neg hroot]
      rfl
  case release =>
    intro s die rx u y st hd hu hy hm hr hup hp hst hok
    rw [exec_tallyRelease hd, ← hu, releaseEffect_current hy hm hr hup hp hst hok]
  case late => exact fun s t y p ps u r ht hy hl hm ha hq hu hr => tallyMemberLate_late ht hy hl hm ha hq hu hr
  case request =>
    intro s die rx u y hd hu hy hm hp
    rw [exec_timeoutReqFrame hd, ← hu, timeoutReqEffect_member hy hm hp]
    rfl
  case alone => exact fun s t y port r h => settledTimeout_of_none h
  case ends =>
    intro s t y st r hy
    refine ⟨_, _, rfl, rfl, ?_⟩
    unfold releaseBarrier
    rw [hy]
    rfl

end Sys2Proof.Proofs
end

section
/-! SURVEY, OPEN and DATUM frames of a generation that is admitted here (R61, R71, R400), and O57, assembled from what each does. -/
namespace Sys2Proof.Proofs
open Sys2Proof.Machine Sys2Proof.Laws

/-! ### Frames of an admitted generation -/

/-- The surveying member or child a SURVEY frame comes from, with its place in the member table (R71). -/
def surveySource (c : Ctx) (port : Nat) : Option (Member × Nat) :=
  c.entries.zipIdx.find? fun e => e.1.port == port && c.kind == .reduce &&
    ((e.1.role == .endpoint && e.1.rankCount > 0) || e.1.role == .child)

/-- The direction in which a frame opens its generation: down from the parent, up from a member or child (R61). -/
def openingHow (parent : Bool) : How := if parent then .explicit else .implicit

section
variable {rx : Rx} {u w : State} {t : Nat} {g : BitVec 32} {v : Traverse} {c : Ctx} {x : Gen}

theorem surveyEffect_closed (hv : u.traverse rx.frame.traverse = none) :
    surveyEffect rx u = u.bump Counter.discardClosed rx.frame.traverse := by
  unfold surveyEffect
  simp only [hv]

theorem surveyEffect_admitted {m : Member} {i : Nat} (ht : t = rx.frame.traverse) (hg : g = rx.frame.gen) (hv : u.traverse t = some v)
    (hc : c = v.ctxAt g) (hm : surveySource c rx.port = some (m, i)) (ha : admitGen t g false .implicit none rx.port u = (w, true))
    (hx : w.genOf t g = some x) :
    surveyEffect rx u = if !c.surveys then abortGen t g 6 rx.port noChain w
      else if x.phase ≠ .surveying ∨ (x.progress.getD i {}).surveyed then abortGen t g 5 rx.port noChain w
      else settleSurvey t g (w.setGen t g fun x =>
        { x with survey := max x.survey rx.frame.survey
                 progress := lmap i (fun p => { p with surveyed := true, lastAt := w.clock }) x.progress }) := by
  subst ht hg hc
  unfold surveySource at hm
  unfold surveyEffect
  simp only [hv, hm, ha, hx, Bool.not_true, Bool.false_eq_true, if_false]

theorem openEffect_admitted (ht : t = rx.frame.traverse) (hg : g = rx.frame.gen) (hv : u.traverse t = some v) (hc : c = v.ctxAt g)
    (hp : c.fromParent rx.port = true ∨ (c.entryAt rx.port).isSome = true)
    (ha : admitGen t g (c.fromParent rx.port) (openingHow (c.fromParent rx.port)) (if c.dmode = .fixed then some rx.frame.datum else none)
      rx.port u = (w, true)) (hx : w.genOf t g = some x) {z : State}
    (hz : z = if (v.gen? g).isSome then sendOpen t (openingHow (c.fromParent rx.port)) g c x.datum w else w) :
    openEffect rx u = if c.dmode ≠ .survey ∧ rx.frame.datum ≠ x.datum then abortGen t g 6 rx.port noChain w
      else if c.fromParent rx.port then z else touchMember t g rx.port z := by
  subst ht hg hc hz
  have hfrom : ¬ ((!(v.ctxAt rx.frame.gen).fromParent rx.port) = true ∧ ((v.ctxAt rx.frame.gen).entryAt rx.port).isNone = true) := by
    rcases hp with hparent | hmember
    · simp [hparent]
    · obtain ⟨i, hi⟩ := Option.isSome_iff_exists.1 hmember
      simp [hi]
  unfold openingHow at ha ⊢
  unfold openEffect
  simp only [hv, if_neg hfrom, ha, hx, Bool.not_true, Bool.false_eq_true, if_false]

theorem datumEffect_admitted (ht : t = rx.frame.traverse) (hg : g = rx.frame.gen) (hv : u.traverse t = some v) (hc : c = v.ctxAt g)
    (hp : c.fromParent rx.port = true) (ha : admitGen t g true .explicit (some rx.frame.datum) rx.port u = (w, true))
    (hx : w.genOf t g = some x) :
    datumEffect rx u = if x.phase = .surveying then
        sendControl 0 3 t g rx.frame.datum 0 [] c.downPorts (w.setGen t g fun x => { x with phase := .open_, datum := rx.frame.datum })
      else if (v.gen? g).isNone then sendControl 0 3 t g rx.frame.datum 0 [] c.downPorts w else w := by
  subst ht hg hc
  unfold datumEffect
  simp only [hv, hp, ha, hx, Bool.not_true, Bool.false_eq_true, if_false]

end

/-! ### O57 -/

/-- Settles O57: each clause is what the frame does to the generation it is admitted to. -/
theorem surveyOpenDatumComplete : Obligations.SurveyOpenDatumComplete := by
  unfold Obligations.SurveyOpenDatumComplete
  refine ⟨?survey, ?open_, ?datum, ?closed⟩
  case survey =>
    intro s die rx u v t g c m i w x hd hu ht hg hv hc hm ha hx
    rw [exec_surveyFrame hd, ← hu, surveyEffect_admitted ht hg hv hc hm ha hx]
  case open_ =>
    intro s die rx u v t g c w x hd hu ht hg hv hc hp ha hx
    refine ⟨_, _, rfl, rfl, ?_⟩
    rw [exec_openFrame hd, ← hu, openEffect_admitted ht hg hv hc hp ha hx rfl]
    rfl
  case datum =>
    intro s die rx u v t g c w x hd hu ht hg hv hc hp ha hx
    rw [exec_datumFrame hd, ← hu, datumEffect_admitted ht hg hv hc hp ha hx]
  case closed =>
    intro s die rx u hd hu hv
    rw [exec_surveyFrame hd, ← hu, surveyEffect_closed hv]

end Sys2Proof.Proofs
end

section
/-! Verdicts (R65-R68), abort requests (R66, R67), the order of causes (Table 3.8, log 59), the queries of R113, and O58, assembled from them. -/
namespace Sys2Proof.Proofs
open Sys2Proof.Machine Sys2Proof.Laws

section
variable {rx : Rx} {s u w : State} {t : Nat} {g : BitVec 32} {v : Traverse} {c : Ctx}

/-! ### Verdicts from the parent (R65, R66, R68) -/

theorem doneEffect_admitted (ha : admitVerdict rx.frame.traverse rx.frame.gen rx.port u = (w, true)) :
    doneEffect rx u = completeHere rx.frame.traverse rx.frame.gen rx.frame.survey w := by
  unfold doneEffect
  rw [ha]
  rfl

theorem abortCommonEffect_admitted (ha : admitVerdict rx.frame.traverse rx.frame.gen rx.port u = (w, true)) :
    abortCommonEffect rx u = abortedHere rx.frame.traverse rx.frame.gen (abortRecOf rx.frame.payload) w := by
  unfold abortCommonEffect
  rw [ha]
  rfl

theorem abortCommonEffect_refused (ha : admitVerdict rx.frame.traverse rx.frame.gen rx.port u = (w, false)) :
    abortCommonEffect rx u = w := by
  unfold abortCommonEffect
  rw [ha]
  rfl

/-! ### Abort requests (R66, R80) -/

/-- The generation is complete at its root: a request to abort it comes too late (R66). -/
def abortTooLate (v : Traverse) (g : BitVec 32) : Prop :=
  (v.ctxAt g).isRoot = true ∧ ((v.gen? g).any (·.phase == .complete) || v.completed? g) = true

theorem abortReqEffect_late (ht : t = rx.frame.traverse) (hg : g = rx.frame.gen) (hv : u.traverse t = some v)
    (hm : ((v.ctxAt g).entryAt rx.port).isSome = true) (hl : abortTooLate v g) : abortReqEffect rx u = u.bump Counter.abortReqLate t := by
  subst ht hg
  obtain ⟨i, hi⟩ := Option.isSome_iff_exists.1 hm
  unfold abortReqEffect
  simp only [hv, hi, Option.isNone_some, Bool.false_eq_true, if_false]
  exact if_pos hl

/-- A request that is not too late meets the generation's state (R80). -/
theorem abortReqEffect_refused (ht : t = rx.frame.traverse) (hg : g = rx.frame.gen) (hv : u.traverse t = some v)
    (hm : ((v.ctxAt g).entryAt rx.port).isSome = true) (hl : ¬ abortTooLate v g)
    (ha : admitGen t g false .implicit none rx.port u = (w, false)) : abortReqEffect rx u = w := by
  subst ht hg
  obtain ⟨i, hi⟩ := Option.isSome_iff_exists.1 hm
  unfold abortTooLate at hl
  unfold abortReqEffect
  simp only [hv, hi, Option.isNone_some, Bool.false_eq_true, if_false, if_neg hl, ha, Bool.not_false, if_true]

/-- Of an open generation it goes on toward the root, which aborts (R66). -/
theorem abortReqEffect_admitted (ht : t = rx.frame.traverse) (hg : g = rx.frame.gen) (hv : u.traverse t = some v)
    (hm : ((v.ctxAt g).entryAt rx.port).isSome = true) (hl : ¬ abortTooLate v g)
    (ha : admitGen t g false .implicit none rx.port u = (w, true)) :
    abortReqEffect rx u = if (v.ctxAt g).isRoot then finishAborted t g rx.port (abortRecOf rx.frame.payload) w
      else sendToward (w.homePort t) rx.frame (v.ctxAt g).uptree w := by
  subst ht hg
  obtain ⟨i, hi⟩ := Option.isSome_iff_exists.1 hm
  unfold abortTooLate at hl
  unfold abortReqEffect
  simp only [hv, hi, Option.isNone_some, Bool.false_eq_true, if_false, if_neg hl, ha, Bool.not_true]

/-! ### The cause that is settled (R67) -/

theorem firstCause_of_lt {a b : Nat × AbortRec} (h : causePriority a.2.cause < causePriority b.2.cause) : firstCause a b = a :=
  if_neg (by omega)

theorem firstCause_of_gt {a b : Nat × AbortRec} (h : causePriority b.2.cause < causePriority a.2.cause) : firstCause a b = b :=
  if_pos (.inl h)

/-- Of causes of one priority the lower port's goes first. -/
theorem firstCause_of_eq {a b : Nat × AbortRec} (h : causePriority a.2.cause = causePriority b.2.cause) :
    firstCause a b = if b.1 < a.1 then b else a := by
  unfold firstCause
  simp only [h, lt_irrefl, true_and, false_or]

/-- With no request waiting and no linked BROADCAST, the root aborts the one generation with the cause at hand. -/
theorem finishAborted_alone {port : Nat} {r : AbortRec} (hv : s.traverse t = some v) (hq : s.abortReqs t g (v.ctxAt g) = [])
    (hl : s.linkedTo t g = []) : finishAborted t g port r s = abortedHere t g r s := by
  have hr : s.settledCause t g port r = r := by
    unfold State.settledCause
    simp only [hv, hq, List.foldl_nil]
  unfold finishAborted
  rw [hl, hr]
  rfl

/-! ### Queries (R113) -/

theorem verdictQueryEffect_known {o : Verdict} (ht : t = rx.frame.traverse) (hg : g = rx.frame.gen) (hv : u.traverse t = some v)
    (ho : v.verdicts.find? (fun w => w.gen = g) = some o) (hm : ((v.ctxAt g).entryAt rx.port).isSome = true) :
    verdictQueryEffect rx u = if o.phase = .complete then sendControl (v.ctxAt g).verdictVc 4 t g 0 o.survey [] [rx.port] u
      else sendControl (v.ctxAt g).verdictVc 5 t g 0 0 o.record.bytes [rx.port] u := by
  subst ht hg
  obtain ⟨i, hi⟩ := Option.isSome_iff_exists.1 hm
  unfold verdictQueryEffect
  simp only [hv, ho, hi, Option.isNone_some, Bool.false_eq_true, if_false]

theorem releaseQueryEffect_last {y : Tally} {st : Nat} {r : AbortRec} (ht : t = rx.frame.traverse) (hy : u.tally t = some y)
    (hp : y.ports.contains rx.port = true) (hn : rx.frame.gen ≠ y.round) (hr : y.released = some (rx.frame.gen, st, r)) :
    releaseQueryEffect rx u =
      sendControl 0 8 t rx.frame.gen 0 0 (releasePayload st (if st = 0 ∧ !y.genMode then none else some r)) [rx.port] u := by
  subst ht
  unfold releaseQueryEffect
  simp only [hy, hp, hr, if_neg hn, if_true, Bool.not_true, Bool.false_eq_true, if_false]

end

/-! ### O58 -/

/-- Settles O58: each clause is the lemma on its frame, on the order of causes, or on the verdict that waits. -/
theorem verdictFramesComplete : Obligations.VerdictFramesComplete := by
  unfold Obligations.VerdictFramesComplete
  refine ⟨?done, ?abort, ?refused, ?request, ?order, ?alone, ?waits, ?query, ?releaseQuery⟩
  case done =>
    intro s die rx u w hd hc hu ha
    rw [exec_doneFrame hd (by simpa using hc), ← hu, doneEffect_admitted ha]
  case abort =>
    intro s die rx u w hd hu ha
    rw [exec_abortCommonFrame hd, ← hu, abortCommonEffect_admitted ha]
  case refused =>
    intro s die rx u w hd hu ha
    rw [exec_abortCommonFrame hd, ← hu, abortCommonEffect_refused ha]
  case request =>
    intro s die rx u v t g c hd hu ht hg hv hc hm
    subst hc
    rw [exec_abortReqFrame hd, ← hu]
    refine ⟨fun hroot hlate => ?_, fun w htimely => ⟨fun ha => ?_, fun ha => ⟨fun hroot => ?_, fun hroot => ?_⟩⟩⟩
    · rw [abortReqEffect_late ht hg hv hm ⟨hroot, hlate⟩]
    · rw [abortReqEffect_refused ht hg hv hm htimely ha]
    · rw [abortReqEffect_admitted ht hg hv hm htimely ha, if_neg (by simpa using hroot)]
    · rw [abortReqEffect_admitted ht hg hv hm htimely ha, if_pos hroot]
  case order => exact fun a b => ⟨firstCause_of_lt, firstCause_of_gt, firstCause_of_eq⟩
  case alone => exact fun s t g port r v hv hq hl => finishAborted_alone hv hq hl
  case waits => exact fun s t g c r hk hc => if_pos ⟨hk, hc⟩
  case query =>
    intro s die rx u v t g o hd hu ht hg hv ho hm
    rw [exec_verdictQueryFrame hd, ← hu, verdictQueryEffect_known ht hg hv ho hm]
  case releaseQuery =>
    intro s die rx u t y st r hd hu ht hy hp hn hr
    rw [exec_releaseQueryFrame hd, ← hu, releaseQueryEffect_last ht hy hp hn hr]

end Sys2Proof.Proofs
end

section
/-! Results on their way down (R65, R80, R400), serve requests and the generations they open (R155, R157, R158), and O59, assembled from them. -/
namespace Sys2Proof.Proofs
open Sys2Proof.Machine Sys2Proof.Laws

section
variable {rx : Rx} {s u w : State} {t l die : Nat} {g : BitVec 32} {v : Traverse} {c : Ctx} {only : Option Nat}

/-! ### Results (R65, R400) -/

/-- A result of an admitted generation goes to its receiving entries, and what its passing settles is settled. -/
theorem resultEffect_admitted {ts : List Nat} {z : State} (ht : t = rx.frame.traverse) (hg : g = rx.frame.gen) (hv : u.traverse t = some v)
    (hc : c = v.ctxAt g) (hk : c.kind = .broadcast) (hp : c.fromParent rx.port = true) (hh : rx.handed = false)
    (hna : (v.gen? g).map (·.phase) ≠ some .aborting) (ha : admitGen t g true .explicit (some rx.frame.datum) rx.port u = (w, true))
    (hts : ts = (if rx.frame.type = 5 then c.receiversOf rx.frame.chain else c.receivers).map (·.port))
    (hz : z = forwardDown rx.port rx.frame ts w) :
    resultEffect rx u = settleBroadcast t (z.setGen t g fun x => { x with endSent := x.endSent || rx.frame.isEnd, sourceAt := z.clock }) := by
  subst ht hg hc hz hts
  unfold resultEffect
  simp only [hv, hk, hp, hh, if_neg hna, ha, ne_eq, not_true, Bool.not_true, Bool.false_eq_true, or_self, if_false]

/-- RESULT_FRAME takes the frame that has waited longest for its lookup (R66, R230). -/
theorem exec_resultFrame {rest : List Rx} (h : s.xbar.lookup = rx :: rest) :
    exec .resultFrame s =
      .next (ingressCredits rx.port rx.frame s (resultEffect rx (s.setXbar fun x => { x with lookup := rest }))) := by
  change execResultFrame s = _
  unfold execResultFrame
  simp only [h]

/-! ### Serve requests (R157) -/

theorem exec_serveRequest (hd : die < 30) (hr : s.running (groupOfDie die) = true) (hh : headOf die (fun f => f.type == 6) s = some rx) :
    exec (.serveRequest die) s = .next (serveEffect die rx (s.received die rx)) := by
  refine (guardUnit_of_exists (decide_eq_true hd)).trans (congrArg _ ?_)
  simp only [hh, onDie_of_running hr]
  rfl

theorem serveEffect_reserved (ht : rx.frame.taint = false) (hc : Frame.crcOk rx.frame = true) (hr : reservedOk rx.frame = false) :
    serveEffect die rx u = u.bump Counter.dieTypeErr die := by
  unfold serveEffect
  simp only [ht, hc, hr, Bool.false_eq_true, Bool.not_true, Bool.not_false, or_self, if_false, if_true]

/-- A good request at a BROADCAST meets the position of the part: below the root it goes on toward it. -/
theorem serveEffect_below (htaint : rx.frame.taint = false) (hcrc : Frame.crcOk rx.frame = true) (hr : reservedOk rx.frame = true)
    (ht : t = rx.frame.traverse) (hv : u.traverse t = some v) (hk : v.ctx.kind = .broadcast) (hroot : v.ctx.isRoot = false) :
    serveEffect die rx u = sendToward (u.homePort t) rx.frame v.ctx.uptree u := by
  subst ht
  unfold serveEffect
  simp only [htaint, hcrc, hr, hv, hk, hroot, ne_eq, not_true, Bool.false_eq_true, Bool.not_true, Bool.not_false, or_self, if_false, if_true]

/-- At the root one that comes from a receiver and names a layer of the traverse's format is a request for that layer. -/
theorem serveEffect_root (htaint : rx.frame.taint = false) (hcrc : Frame.crcOk rx.frame = true) (hr : reservedOk rx.frame = true)
    (ht : t = rx.frame.traverse) (hv : u.traverse t = some v) (hk : v.ctx.kind = .broadcast) (hroot : v.ctx.isRoot = true)
    (hp : v.ctx.receivers.any (fun e => e.port = rx.port) = true) (hch : rx.frame.chain % 2 ^ 24 = 0) (hf : rx.frame.fmt = v.ctx.fmtOut)
    (hg : rx.frame.gen = 0) (hreg : v.ctx.entries.any (fun e => e.role = .region) = true) :
    serveEffect die rx u = layerRequest t (rx.frame.chain / 2 ^ 24) none u := by
  subst ht
  unfold serveEffect
  simp only [htaint, hcrc, hr, hv, hk, hroot, hp, hch, hf, hg, hreg, ne_eq, not_true, Bool.false_eq_true, Bool.not_true, or_self, if_false]

/-! ### Layers (R155, R158) -/

/-- A source region of the layer is NOT_LOADED: the layer cannot be served yet (R157). -/
def sourceNotLoaded (s : State) (c : Ctx) (l : Nat) : Prop := ((s.sources c (some l)).any fun e => e.2.stateCode = 0) = true

theorem layerRequest_merged (hv : s.traverse t = some v) (hn : s.layerChains v.ctx l ≤ 2 ^ 24) (hl : v.hasLayer l only = true) :
    layerRequest t l only s = s.bump Counter.serveMerged t := by
  unfold layerRequest
  simp only [hv, gt_iff_lt, if_neg (Nat.not_lt.2 hn), hl, if_true]

theorem layerRequest_refused (hv : s.traverse t = some v) (hn : s.layerChains v.ctx l ≤ 2 ^ 24) (hl : v.hasLayer l only = false)
    (hr : v.state = .closing ∨ sourceNotLoaded s v.ctx l) : layerRequest t l only s = s.bump Counter.serveRefused t := by
  unfold sourceNotLoaded at hr
  unfold layerRequest
  simp only [hv, gt_iff_lt, if_neg (Nat.not_lt.2 hn), hl, Bool.false_eq_true, if_false, if_pos hr]

theorem layerRequest_new (hv : s.traverse t = some v) (hn : s.layerChains v.ctx l ≤ 2 ^ 24) (hl : v.hasLayer l only = false)
    (hc : v.state ≠ .closing) (hr : ¬ sourceNotLoaded s v.ctx l) : layerRequest t l only s = requestLayer t l only s := by
  have hserved : ¬ (v.state = .closing ∨ sourceNotLoaded s v.ctx l) := not_or.2 ⟨hc, hr⟩
  unfold sourceNotLoaded at hserved
  unfold layerRequest
  simp only [hv, gt_iff_lt, if_neg (Nat.not_lt.2 hn), hl, Bool.false_eq_true, if_false, if_neg hserved]

theorem requestLayer_opens (hv : s.traverse t = some v) (hw : v.inWindow v.nextGen = true) (hq : v.queue = []) :
    requestLayer t l only s = openOne t .explicit none (some { layer := l, only := only }) s := by
  unfold requestLayer
  simp only [hv, hw, hq, List.isEmpty_nil, and_self, if_true]

/-- While 8 generations are open or others wait, the layer waits where there is room for it. -/
theorem requestLayer_waits (hv : s.traverse t = some v) (hw : (!v.inWindow v.nextGen) = true ∨ v.queue ≠ []) :
    requestLayer t l only s = if v.queue.length < 64 then s.setTraverse t fun v => { v with queue := v.queue ++ [(l, only)] }
      else s.bump Counter.serveDrop t := by
  have hfull : ¬ (v.inWindow v.nextGen = true ∧ v.queue.isEmpty = true) := by
    rintro ⟨hin, hempty⟩
    exact hw.elim (fun hout => by simp [hin] at hout) fun hne => hne (List.isEmpty_iff.1 hempty)
  unfold requestLayer
  simp only [hv, if_neg hfull]

theorem layerGenerationOpen_queued {rest : List (Nat × Option Nat)} (ht : t < 4096) (hv : s.traverse t = some v)
    (hq : v.queue = (l, only) :: rest) (hw : v.inWindow v.nextGen = true) (hc : v.state ≠ .closing) :
    exec (.layerGenerationOpen t) s = .next (openOne t .explicit none (some { layer := l, only := only })
      (s.setTraverse t fun v => { v with queue := rest })) := by
  refine (guardUnit_of_exists (decide_eq_true ht)).trans (congrArg _ ?_)
  simp only [hv, hq]
  exact if_pos ⟨hw, hc⟩

end

/-! ### O59 -/

/-- Settles O59: each clause is the lemma on the frame, or on the layer it asks for. -/
theorem resultsAndServesComplete : Obligations.ResultsAndServesComplete := by
  unfold Obligations.ResultsAndServesComplete
  refine ⟨?result, ?serve, ?layer, ?queued⟩
  case result =>
    intro s rx rest u v t g c w ts z hq hu ht hg hv hc hk hp hh hna ha hts hz
    rw [exec_resultFrame hq, ← hu, resultEffect_admitted ht hg hv hc hk hp (by simpa using hh) hna ha hts hz]
  case serve =>
    intro s die rx u v t hd hr hh hu htaint hcrc
    have htaint : rx.frame.taint = false := by simpa using htaint
    rw [exec_serveRequest hd hr hh, ← hu]
    refine ⟨fun hres => ?_, fun hres ht hv hk => ⟨fun hroot => ?_, fun hroot hp hch hf hg hreg => ?_⟩⟩
    · rw [serveEffect_reserved htaint hcrc (by simpa using hres)]
    · rw [serveEffect_below htaint hcrc hres ht hv hk (by simpa using hroot)]
    · rw [serveEffect_root htaint hcrc hres ht hv hk hroot hp hch hf hg hreg]
  case layer =>
    intro s t l only v hv hn
    refine ⟨layerRequest_merged hv hn, fun hl hr => layerRequest_refused hv hn (by simpa using hl) hr, fun hl hc hr => ?_⟩
    rw [layerRequest_new hv hn (by simpa using hl) hc (by simpa [sourceNotLoaded] using hr)]
    refine ⟨fun hw hq => requestLayer_opens hv hw hq, fun hw hlt => ?_, fun hw hge => ?_⟩
    · rw [requestLayer_waits hv hw, if_pos hlt]
    · rw [requestLayer_waits hv hw, if_neg (Nat.not_lt.2 hge)]
  case queued => exact fun s t v l only rest ht hv hq hw hc => layerGenerationOpen_queued ht hv hq hw hc

end Sys2Proof.Proofs
end

section
/-! Members and parents that are silent (R75-R77, R113): what each timer of a generation or a tally does once it has run out, and O60,
assembled from them. -/
namespace Sys2Proof.Proofs
open Sys2Proof.Machine Sys2Proof.Laws

section
variable {s u : State} {t i : Nat} {g : BitVec 32} {v : Traverse} {x : Gen} {c : Ctx}

/-! ### Members that owe (R76) -/

theorem genMemberTimeout_silent {p : Progress} (ht : t < 4096) (hv : s.traverse t = some v) (hx : s.genOf t g = some x) (hc : c = v.ctxAt g)
    (hp : p = x.progress.getD i {}) (hk : c.kind ≠ .broadcast) (hi : c.contributors.contains i = true)
    (hph : x.phase = .surveying ∨ x.phase = .open_) (he : p.ended = false) :
    exec (.genMemberTimeout t g i) s = .next (abortGen t g 1 (c.entries.getD i {}).port (if x.phase = .surveying then noChain else p.owed)
      (s.reach (max x.openedAt p.lastAt + limitNs c.height c.timeoutUs))) := by
  subst hc hp
  refine (guardUnit_of_exists (decide_eq_true ht)).trans (congrArg _ ?_)
  simp only [hv, hx]
  exact if_neg (by simp only [hk, hi, hph, he]; simp)

/-! ### The two sides of a broadcast (R77) -/

/-- The parent of a part that has no other source and has not ended is late; its record names no chain (log 84). -/
theorem broadcastMemberTimeout_parent (ht : t < 4096) (hv : s.traverse t = some v) (hx : s.genOf t g = some x) (hc : c = v.ctxAt g)
    (hk : c.kind = .broadcast) (hph : x.phase = .open_) (hi : i = c.entries.length) (hroot : c.isRoot = false) (hl : c.linkValid = false)
    (he : x.endSent = false) :
    exec (.broadcastMemberTimeout t g i) s =
      .next (abortGen t g 1 c.uptree noChain (s.reach (max x.openedAt x.sourceAt + limitNs c.height c.timeoutUs))) := by
  subst hc hi
  refine (guardUnit_of_exists (decide_eq_true ht)).trans (congrArg _ ?_)
  simp only [hv, hx, hk, hph, hroot, hl, he, ne_eq, not_true, Bool.false_eq_true, or_self, if_false, if_true]

theorem broadcastMemberTimeout_source (ht : t < 4096) (hv : s.traverse t = some v) (hx : s.genOf t g = some x) (hc : c = v.ctxAt g)
    (hk : c.kind = .broadcast) (hph : x.phase = .open_) (hi : i < c.entries.length) (ho : c.owes (c.entries.getD i {}) = true)
    (he : (x.progress.getD i {}).ended = false) :
    exec (.broadcastMemberTimeout t g i) s = .next (abortGen t g 1 (c.entries.getD i {}).port (x.progress.getD i {}).owed
      (s.reach (max x.openedAt (x.progress.getD i {}).lastAt + limitNs c.height c.timeoutUs))) := by
  subst hc
  refine (guardUnit_of_exists (decide_eq_true ht)).trans (congrArg _ ?_)
  simp only [hv, hx, hk, hph, hi.ne, ho, he, ne_eq, not_true, Bool.false_eq_true, or_self, if_false, if_true]

/-- A receiver returns no credits while chains wait for it: the record names the first of these. -/
theorem broadcastMemberTimeout_receiver {q : Nat × Nat} {qs : List (Nat × Nat)} (ht : t < 4096) (hv : s.traverse t = some v)
    (hx : s.genOf t g = some x) (hc : c = v.ctxAt g) (hk : c.kind = .broadcast) (hph : x.phase = .open_) (hi : i < c.entries.length)
    (ho : c.owes (c.entries.getD i {}) = false) (hr : c.receivers.contains (c.entries.getD i {}) = true)
    (hw : s.waitingFor t g (c.entries.getD i {}).port = q :: qs) :
    exec (.broadcastMemberTimeout t g i) s = .next (abortGen t g 1 (c.entries.getD i {}).port (qs.foldl (fun m q => min m q.1) q.1)
      (s.reach (max (max x.openedAt (s.link (c.entries.getD i {}).port).vc2At) (qs.foldl (fun m q => min m q.2) q.2) +
        limitNs c.height c.timeoutUs))) := by
  subst hc
  refine (guardUnit_of_exists (decide_eq_true ht)).trans (congrArg _ ?_)
  simp only [hv, hx, hk, hph, hi.ne, ho, hr, hw, ne_eq, not_true, Bool.false_eq_true, or_self, if_false, if_true]

/-! ### Waits for the parent (R113) -/

theorem verdictWaitTimeout_tally {y : Tally} {a : Nat} (ht : t < 4096) (hy : s.tally t = some y) (ha : y.waitAt = some a)
    (hp : y.uptree ≠ 0xFF) (hu : u = s.reach (a + limitNs y.height y.timeoutUs)) :
    exec (.verdictWaitTimeout true t y.round) s = .next (sendControl 0 0xB t y.round 0 0 [] [y.uptree]
      (u.setTally t fun y => { y with waitAt := some u.clock })) := by
  subst hu
  refine (guardUnit_of_exists (decide_eq_true ht)).trans (congrArg _ ?_)
  simp only [hy, ha, hp, ne_eq, not_true, or_self, if_false, if_true]

theorem verdictWaitTimeout_gen (ht : t < 4096) (hv : s.traverse t = some v) (hx : s.genOf t g = some x) (hc : c = v.ctxAt g)
    (hroot : c.isRoot = false) (hph : x.phase = .sent ∨ x.phase = .aborting) (hu : u = s.reach (x.waitAt + limitNs c.height c.timeoutUs)) :
    exec (.verdictWaitTimeout false t g) s =
      .next (sendControl 0 0xA t g 0 0 [] [c.uptree] (u.setGen t g fun x => { x with waitAt := u.clock })) := by
  subst hc hu
  refine (guardUnit_of_exists (decide_eq_true ht)).trans (congrArg _ ?_)
  simp only [hv, hx, Bool.false_eq_true, if_false]
  exact if_neg (by simp [hroot, hph])

end

/-! ### O60 -/

/-- Settles O60: each clause is the lemma on its timer. -/
theorem generationTimersComplete : Obligations.GenerationTimersComplete := by
  unfold Obligations.GenerationTimersComplete
  refine ⟨?member, ?broadcast, ?tally, ?verdict⟩
  case member =>
    intro s t g i v x c p ht hv hx hc hp hk hi hph he
    exact genMemberTimeout_silent ht hv hx hc hp hk hi hph (by simpa using he)
  case broadcast =>
    intro s t g i v x c ht hv hx hc hk hph
    refine ⟨fun hi hroot hl he => ?_, fun hi ho he => ?_, fun w ws hi ho hr hw => ?_⟩
    · exact broadcastMemberTimeout_parent ht hv hx hc hk hph hi (by simpa using hroot) (by simpa using hl) (by simpa using he)
    · exact broadcastMemberTimeout_source ht hv hx hc hk hph hi ho (by simpa using he)
    · exact broadcastMemberTimeout_receiver ht hv hx hc hk hph hi (by simpa using ho) hr hw
  case tally => exact fun s t y a u ht hy ha hp hu => verdictWaitTimeout_tally ht hy ha hp hu
  case verdict =>
    intro s t g v x c u ht hv hx hc hroot hph hu
    exact verdictWaitTimeout_gen ht hv hx hc (by simpa using hroot) hph hu

end Sys2Proof.Proofs
end

section
/-! Basis slots and array self-tests (R165, R180, R182, R186), bindings and contexts that a newer one supersedes (R58, R181), and O51,
assembled from them. -/
namespace Sys2Proof.Proofs
open Sys2Proof.Machine Sys2Proof.Laws

/-! ### The end of a load (R165, R172, R180) -/

/-- A slot whose load failed: it holds no constants. -/
def emptied (b : Basis) : Basis := { b with state := .empty, sc := [], q := [], z := [], y := [] }

section
variable {w k crc : Nat} {data : Bytes} {b : Basis}

theorem finishBasis_busFailed : finishBasis w k crc data false b = (emptied b, Status.closure) := by
  unfold finishBasis
  dsimp only
  split
  · rfl
  · exact if_pos (by simp)

theorem finishBasis_crcDiffers (h : crc32c (data.take (32 * 2 ^ w * k + k)) ≠ crc) :
    finishBasis w k crc data true b = (emptied b, Status.closure) := by
  unfold finishBasis
  dsimp only
  split
  · rfl
  · exact if_pos (.inr h)

theorem finishBasis_good {c : Basis} {q : List Int} {sc : List Nat} (h : crc32c (data.take (32 * 2 ^ w * k + k)) = crc)
    (hq : basisOf w k data = some (q, sc))
    (hc : c = { b with state := .ready, widthCode := w, rank := k, crc := BitVec.ofNat 32 crc, sc := sc, q := q }) :
    finishBasis w k crc data true b = ({ c with z := c.zs, y := c.ys }, 0) := by
  subst hc
  unfold finishBasis
  simp only [hq]
  exact if_neg (by simp [h])

end

/-! ### Copies in the basis stores (R182) -/

section
variable {s : State} {slot i t die : Nat} {v : Traverse}

theorem writeStores_die (hi : i < s.dies.length) :
    ((writeStores slot s).die i).activeBasis = (if (s.die i).activeBasis = some slot then none else (s.die i).activeBasis) ∧
      ((writeStores slot s).die i).cells = (if (s.die i).activeBasis = some slot then [] else (s.die i).cells) := by
  unfold State.die writeStores
  simp [List.getD_eq_getElem?_getD, List.getElem?_eq_getElem hi]

/-- The tile of the slot is loaded anew before its next use. -/
theorem writeStores_inactive (hi : i < s.dies.length) : ((writeStores slot s).die i).activeBasis ≠ some slot := by
  rw [(writeStores_die hi).1]
  split
  case isTrue => exact nofun
  case isFalse hother => exact hother

theorem writeStores_otherActive (hi : i < s.dies.length) (h : (s.die i).activeBasis ≠ some slot) :
    ((writeStores slot s).die i).activeBasis = (s.die i).activeBasis ∧ ((writeStores slot s).die i).cells = (s.die i).cells := by
  obtain ⟨hactive, hcells⟩ := writeStores_die (slot := slot) hi
  rw [hactive, hcells, if_neg h, if_neg h]
  exact ⟨rfl, rfl⟩

/-! ### The rows (R180, R181, R186, R58) -/

/-- The oldest load of the slot ends; the slot stays LOADING while another load of it runs (log 55). -/
theorem basisReady_oldest {r : Running} {n w k crc : Nat} {data : Bytes} {ok : Bool} {b : Basis × Nat} {c : Basis} {u : State} (hs : slot < 8)
    (hl : (s.bases.getD slot {}).state = .loading) (ht : s.projDies.all (fun i => !(s.die i).selfTestOwed) = true)
    (hr : s.mailbox.running.find? (fun r => r.loads slot) = some r) (he : r.ending = .basisLoad n w k crc data ok)
    (hb : b = finishBasis w k crc data ok (s.bases.getD slot {}))
    (hc : c = if s.mailbox.running.any (fun x => x.seq != r.seq && x.loads slot) then { b.1 with state := .loading } else b.1)
    (hu : u = writeStores slot { s with bases := s.bases.set slot c }) :
    exec (.basisReady slot) s = .next (u.setMailbox fun m =>
      { m with running := m.running.map fun x => if x.seq = r.seq then { x with ready := true, status := b.2, ending := .plain } else x }) := by
  subst hb hc hu
  have htested : s.projDies.any (fun i => (s.die i).selfTestOwed) = false := by
    simpa [List.any_eq_false, List.all_eq_true] using ht
  refine (guardUnit_of_exists (decide_eq_true hs)).trans (congrArg _ ?_)
  simp only [hl, htested, hr, he, ne_eq, not_true, Bool.false_eq_true, or_self, if_false]

theorem arraySelftestDone_owed {cs : List (Nat × Nat)} {u : State} (hd : die < 30) (ho : (s.die die).selfTestOwed = true)
    (hu : u = s.setDie die (softRepair cs)) :
    exec (.arraySelftestDone die cs) s = .next (forEach u.traverses (fun e s => forEach e.2.gens (fun x s =>
      if (s.projection e.1 x.gen).isSome ∧ x.phase = .open_ then settleGen e.1 x.gen s else s) s) u) := by
  subst hu
  exact (guardUnit_of_exists (decide_eq_true hd)).trans (congrArg _ (if_pos ho))

theorem bindingPrevClear_of_traverse (ht : t < 4096) (hv : s.traverse t = some v) :
    exec (.bindingPrevClear t) s = .next { s with bindings := tmap t (fun b =>
      if b.prevValid ∧ ¬ before32 v.oldestGen b.firstGen then { b with prevValid := false } else b) s.bindings } := by
  refine (guardUnit_of_exists (decide_eq_true ht)).trans (congrArg _ ?_)
  simp only [hv]

theorem traverse_setTraverse_same (f : Traverse → Traverse) : (s.setTraverse t f).traverse t = (s.traverse t).map f :=
  tget_tmap_same t f s.traverses

theorem traverse_setTraverse_other {j : Nat} (h : j ≠ t) (f : Traverse → Traverse) : (s.setTraverse t f).traverse j = s.traverse j :=
  tget_tmap_other h f s.traverses

/-- The previous context goes where the oldest generation has reached the newer one's FIRST_GEN; every other traverse stays. -/
theorem contextDrop_passed {c : Ctx} {first : BitVec 32} (ht : t < 4096) (hv : s.traverse t = some v) (hp : v.prev = some (c, first))
    (hb : ¬ before32 v.oldestGen first) :
    ∃ u, exec (.contextDrop t) s = .next u ∧ u.traverse t = some { v with prev := none } ∧ ∀ j, j ≠ t → u.traverse j = s.traverse j := by
  refine ⟨_, guardUnit_of_exists (decide_eq_true ht), ?_, fun j hj => traverse_setTraverse_other hj _⟩
  rw [traverse_setTraverse_same, hv, Option.map_some]
  simp only [hp, if_neg hb]

end

/-! ### O51 -/

/-- Settles O51: each clause is the lemma on its row, or on the end of a load. -/
theorem projectionRowsComplete : Obligations.ProjectionRowsComplete := by
  unfold Obligations.ProjectionRowsComplete
  refine ⟨?ready, ?bus, ?crc, ?good, ?stores, ?selftest, ?binding, ?context⟩
  case ready =>
    intro s slot r n w k crc data ok b hs hl ht hr he hb
    exact ⟨_, _, rfl, rfl, basisReady_oldest hs hl ht hr he hb rfl rfl⟩
  case bus => exact fun w k crc data b => finishBasis_busFailed
  case crc => exact fun w k crc data b h => finishBasis_crcDiffers h
  case good => exact fun w k crc data b c q sc h hq hc => finishBasis_good h hq hc
  case stores => exact fun s slot i hi => ⟨writeStores_inactive hi, writeStores_otherActive hi⟩
  case selftest => exact fun s die cs u hd ho hu => arraySelftestDone_owed hd ho hu
  case binding => exact fun s t v ht hv => bindingPrevClear_of_traverse ht hv
  case context => exact fun s t v c first ht hv hp hb => contextDrop_passed ht hv hp hb

end Sys2Proof.Proofs
end

section
/-! Chain frames at a ledger die: which die takes a frame and when (R134, R218, R285), the checks of R112 in their order, and O56, assembled
from them. -/
namespace Sys2Proof.Proofs
open Sys2Proof.Machine Sys2Proof.Laws

/-! ### Checks in their order -/

/-- `r` is what the checks of `bad`, made in their order, lead to: the first that fails aborts with its cause, and where none fails `r` has `passed`. -/
def FirstFailing (abort : Nat → State) (passed : State → Prop) (bad : List (Prop × Nat)) (r : State) : Prop :=
  (∀ (k : Nat) (b : Prop × Nat), bad[k]? = some b → b.1 → (∀ (j : Nat), j < k → ∀ (a : Prop × Nat), bad[j]? = some a → ¬ a.1) → r = abort b.2) ∧
  ((∀ b ∈ bad, ¬ b.1) → passed r)

section
variable {abort : Nat → State} {passed : State → Prop} {bad : List (Prop × Nat)} {P : Prop} {cause : Nat} {r : State}

theorem firstFailing_nil (h : passed r) : FirstFailing abort passed [] r := ⟨fun _ _ hb => by simp at hb, fun _ => h⟩

/-- A check that stands in front: it aborts where it fails, and elsewhere the others decide. -/
theorem firstFailing_cons (hfail : P → r = abort cause) (hpass : ¬ P → FirstFailing abort passed bad r) :
    FirstFailing abort passed ((P, cause) :: bad) r := by
  refine ⟨fun k b hb hbad hbefore => ?_, fun hall => ?_⟩
  · cases k with
    | zero =>
      obtain rfl : (P, cause) = b := Option.some.inj hb
      exact hfail hbad
    | succ k => exact (hpass (hbefore 0 k.succ_pos _ rfl)).1 k b hb hbad fun j hj => hbefore (j + 1) (Nat.succ_lt_succ hj)
  · obtain ⟨hhead, htail⟩ := List.forall_mem_cons.1 hall
    exact (hpass hhead).2 htail

theorem firstFailing_ite [Decidable P] (h : ¬ P → FirstFailing abort passed bad r) :
    FirstFailing abort passed ((P, cause) :: bad) (if P then abort cause else r) :=
  firstFailing_cons (fun hp => if_pos hp) fun hp => by rw [if_neg hp]; exact h hp

end

/-! ### The checks of R112 -/

section
variable {rx : Rx} {s w : State} {t i : Nat} {g : BitVec 32} {v v' : Traverse} {c : Ctx} {e : Member} {x : Gen} {p : Progress}

/-- Step 7 of R112: the frame's type, kind, reserved bits, place in the member's sequence, and payload (log 82 for GAP). -/
def malformed (w : State) (t : Nat) (g : BitVec 32) (c : Ctx) (x : Gen) (e : Member) (p : Progress) (f : Frame) : Prop :=
  f.type ≠ c.typeFrom e.role ∨ f.ckind ≠ c.ckindFor f.type ∨ !reservedOk f ∨ f.gap ∨ (f.isEnd ∧ !f.last) ∨
    f.payloadLen ≠ f.payload.length ∨ !p.allows f ∨ parseChain w t g c x.datum e f = none

/-- The checks of R112 from taint and CRC on, each with its cause. -/
def chainChecks (w : State) (t : Nat) (g : BitVec 32) (c : Ctx) (x : Gen) (e : Member) (p : Progress) (f : Frame) : List (Prop × Nat) :=
  [(f.taint ∨ !Frame.crcOk f, 4),
   (x.phase = .surveying ∨ f.fmt ≠ c.fmtFor f.type ∨ (f.type ≠ 4 ∧ f.datum ≠ x.datum), 6),
   (f.poison, 3),
   (p.sent.contains f.chain, 5),
   (malformed w t g c x e p f, 4),
   (∃ q, parseChain w t g c x.datum e f = some q ∧ q.closure ≠ f.closure, 2)]

/-- The generation with the frame's input added and its member's position moved on. -/
def chainAdded (t : Nat) (g : BitVec 32) (c : Ctx) (i : Nat) (e : Member) (p : Progress) (f : Frame) (q : Parsed) (w : State) : State :=
  let y := addInput t g c f.chain q.input w
  settleGen t g (y.setGen t g fun x =>
    { x with progress := x.progress.set i (p.after c e y.clock f q)
             survey := if c.dmode = .carried ∧ f.type ≠ 4 then max x.survey f.survey else x.survey })

theorem receiveChain_closed (hv : s.traverse rx.frame.traverse = none) :
    receiveChain rx s = s.bump Counter.discardClosed rx.frame.traverse := by
  unfold receiveChain
  simp only [hv]

theorem receiveChain_misdirected (hv : s.traverse rx.frame.traverse = some v) (hi : (v.ctxAt rx.frame.gen).entryFor rx.port rx.frame.type = none) :
    receiveChain rx s = s.bump Counter.misdirected rx.frame.traverse := by
  unfold receiveChain
  simp only [hv, hi]

theorem receiveChain_refused (hv : s.traverse rx.frame.traverse = some v)
    (hi : (v.ctxAt rx.frame.gen).entryFor rx.port rx.frame.type = some i)
    (ha : admitGen rx.frame.traverse rx.frame.gen false .implicit none rx.port s = (w, false)) : receiveChain rx s = w := by
  unfold receiveChain
  simp only [hv, hi, ha, Bool.not_false, if_true]

theorem receiveChain_admitted (ht : t = rx.frame.traverse) (hg : g = rx.frame.gen) (hv : s.traverse t = some v)
    (hi : (v.ctxAt g).entryFor rx.port rx.frame.type = some i) (ha : admitGen t g false .implicit none rx.port s = (w, true))
    (hv' : w.traverse t = some v') (hx : w.genOf t g = some x) (hc : c = v'.ctxAt g) (he : e = c.entries.getD i {})
    (hp : p = x.progress.getD i {}) :
    FirstFailing (fun cause => abortGen t g cause rx.port rx.frame.chain w)
      (fun r => ∀ q, parseChain w t g c x.datum e rx.frame = some q → r = chainAdded t g c i e p rx.frame q w)
      (chainChecks w t g c x e p rx.frame) (receiveChain rx s) := by
  subst ht hg hc he hp
  unfold receiveChain chainChecks
  simp only [hv, hi, ha, hv', hx, Bool.not_true, Bool.false_eq_true, if_false]
  refine firstFailing_ite fun _ => firstFailing_ite fun _ => firstFailing_ite fun _ => firstFailing_ite fun _ => ?_
  cases hq : parseChain w rx.frame.traverse rx.frame.gen (v'.ctxAt rx.frame.gen) x.datum ((v'.ctxAt rx.frame.gen).entries.getD i {}) rx.frame with
  | none => exact firstFailing_cons (fun _ => ite_self _) fun hgood => absurd (by simp only [malformed, hq, or_true]) hgood
  | some q =>
    simp only [malformed, hq, reduceCtorEq, or_false, Option.some.injEq, exists_eq_left']
    exact firstFailing_ite fun _ => firstFailing_ite fun _ => firstFailing_nil fun _ h => h ▸ rfl

/-! ### The row (R134, R218, R285) -/

theorem ledgerFrameReceive_head {die : Nat} (hd : die < 30) (hh : headOf die (fun f => 1 ≤ f.type && f.type ≤ 4) s = some rx)
    (hin : s.earlierInside die rx = false) (hr : s.running (groupOfDie die) = true) :
    exec (.ledgerFrameReceive die) s = .next (chainRow die rx (s.setGroup (groupOfDie die) fun x => { x with workAt := s.clock })) := by
  refine (guardUnit_of_exists (decide_eq_true hd)).trans (congrArg _ ?_)
  simp only [hh, hin, onDie_of_running hr, Bool.false_eq_true, if_false]

theorem chainRow_handedOn {die : Nat} {u : State} (hd : (u.accDie rx.frame).getD die ≠ die) (hn : rx.handed = false) :
    chainRow die rx u =
      stageFrame (Config.diePort die) rx.port true rx.frame [Config.diePort ((u.accDie rx.frame).getD die)] (passHead die u) :=
  if_pos ⟨hd, by rw [hn]; rfl⟩

theorem chainRow_here {die : Nat} {u : State} (hh : (u.accDie rx.frame).getD die = die ∨ rx.handed = true) :
    (waitFor u die rx.frame = .yes → chainRow die rx u = u) ∧
    (waitFor u die rx.frame = .fill → chainRow die rx u = u.setGen rx.frame.traverse rx.frame.gen fun x =>
      { x with accs := x.accs.map fun a => if a.chain = rx.frame.chain then { a with residency := .filling } else a }) ∧
    (waitFor u die rx.frame = .no → chainRow die rx u = receiveChain rx (takeHead die rx u)) := by
  have hstays : ¬ ((u.accDie rx.frame).getD die ≠ die ∧ (!rx.handed) = true) := by
    rcases hh with hdie | hhanded
    · simp [hdie]
    · simp [hhanded]
  unfold chainRow
  refine ⟨fun hw => ?_, fun hw => ?_, fun hw => ?_⟩ <;> simp only [if_neg hstays, hw]

end

/-! ### O56 -/

/-- Settles O56: the row hands the frame on, waits or takes it, and a frame taken meets the checks of R112 in their order. -/
theorem chainFramesComplete : Obligations.ChainFramesComplete := by
  unfold Obligations.ChainFramesComplete
  refine ⟨?row, ?checks⟩
  case row =>
    intro s die rx u hd hh hin hr hu
    subst hu
    rw [ledgerFrameReceive_head hd hh (by simpa using hin) hr]
    refine ⟨fun ht hn => congrArg _ (chainRow_handedOn ht (by simpa using hn)), fun hhere => ?_⟩
    obtain ⟨hyes, hfill, hno⟩ := chainRow_here hhere
    exact ⟨fun hw => congrArg _ (hyes hw), fun hw => congrArg _ (hfill hw), fun hw => congrArg _ (hno hw)⟩
  case checks =>
    intro s rx t g ht hg
    refine ⟨?closed, ?misdirected, ?refused, ?admitted⟩
    case closed => subst ht; exact receiveChain_closed
    case misdirected => subst ht hg; exact fun v hv hi => receiveChain_misdirected hv hi
    case refused => subst ht hg; exact fun v i w hv hi ha => receiveChain_refused hv hi ha
    case admitted =>
      intro v i w v' x c e p hv hi ha hv' hx hc he hp
      obtain ⟨hfails, hpasses⟩ := receiveChain_admitted ht hg hv hi ha hv' hx hc he hp
      exact ⟨_, rfl, hfails, fun q y hall hq hy => by subst hy; exact hpasses hall q hq⟩

end Sys2Proof.Proofs
end

section
/-! Resequencers: what a flow does with a frame, and a place with its arrivals, its holes and its idle flows (R106, R107, R220), and O42,
assembled from them. -/
namespace Sys2Proof.Proofs
open Sys2Proof.Machine Sys2Proof.Laws

/-! ### One flow (R106) -/

section
variable {f : Flow} {rx : Rx} {now : Nat} {x : BitVec 24}

theorem take_awaited (hx : f.x = some x) (hr : rx.frame.resync = false) (hs : BitVec.ofNat 24 rx.frame.seq = x) :
    f.take now rx = ((Flow.drain f.held.length { f with x := some (x + 1), lastAt := now }).1,
      rx :: (Flow.drain f.held.length { f with x := some (x + 1), lastAt := now }).2, []) := by
  unfold Flow.take
  simp [hx, hr, hs]

/-- A number beyond the awaited one: held within the window of 4,095, an overrun up to half the numbers away, an old one further on. -/
theorem take_beyond {d : Nat} (hx : f.x = some x) (hr : rx.frame.resync = false) (hd : d = (BitVec.ofNat 24 rx.frame.seq - x).toNat)
    (h0 : d ≠ 0) :
    f.take now rx =
      if d ≤ 4095 then
        if f.held.any fun h => h.seq = BitVec.ofNat 24 rx.frame.seq then ({ f with lastAt := now }, [], [(0, rx)])
        else ({ f with held := f.held ++ [{ seq := BitVec.ofNat 24 rx.frame.seq, at_ := now, rx := rx }], lastAt := now }, [], [])
      else if d < 2 ^ 23 then ({ f with lastAt := now }, [], [(1, rx)])
      else ({ f with lastAt := now }, [], [(0, rx)]) := by
  subst hd
  unfold Flow.take
  simp only [hx, hr, Bool.false_eq_true, if_false, if_neg h0]

end

/-! ### Where a place's work is done (R346, R347) -/

@[simp] theorem setGroup_reseqAt {s : State} {g place : Nat} {f : Group → Group} : (s.setGroup g f).reseqAt place = s.reseqAt place := rfl

@[simp] theorem setReseq_clock {s : State} {place : Nat} {f : Reseq → Reseq} : (s.setReseq place f).clock = s.clock := by
  simp only [State.setReseq, apply_ite State.clock, setDie_clock, ite_self]

section
variable {s : State} {place die chiplet : Nat} {work work' : State → State}

theorem onGroup_of_running {g : Nat} (h : s.running g = true) (work : State → State) :
    onGroup g work s = work (s.setGroup g fun x => { x with workAt := s.clock }) := if_pos h

theorem onPlace_die (hd : die < 30) (hr : s.running (groupOfDie die) = true) (work : State → State) :
    onPlace die work s = work (s.setGroup (groupOfDie die) fun x => { x with workAt := s.clock }) :=
  (if_pos hd).trans (onDie_of_running hr work)

theorem chiplet_not_die : ¬ 31 + chiplet < Config.pairs := Nat.not_lt.2 (Nat.le_add_right_of_le (by decide))

theorem chiplet_ne_md : 31 + chiplet ≠ Config.pairs := Nat.ne_of_gt (Nat.lt_add_right chiplet (by decide))

theorem onPlace_chiplet (hr : s.running (groupOfPort (4 * chiplet)) = true) (work : State → State) :
    onPlace (31 + chiplet) work s = work (s.setGroup (groupOfPort (4 * chiplet)) fun x => { x with workAt := s.clock }) := by
  rw [onPlace, if_neg chiplet_not_die, if_neg chiplet_ne_md, Nat.add_sub_cancel_left, onGroup_of_running hr]

/-- Two works that agree wherever the place's resequencer is as it is here are the same work of that place. -/
theorem onPlace_congr (h : ∀ u : State, u.reseqAt place = s.reseqAt place → work u = work' u) : onPlace place work s = onPlace place work' s := by
  have hgroup (g : Nat) : onGroup g work s = onGroup g work' s := by
    unfold onGroup
    rw [h _ setGroup_reseqAt]
  unfold onPlace onDie
  rw [hgroup, hgroup, h s rfl]

/-! ### Arrivals (R106, R217) -/

section
variable {rx : Rx} {rest : List Rx} {f : Flow}

theorem arrive_delivers (ha : (s.reseqAt place).arrivals = rx :: rest) (h : rx.handed = true ∨ (!sequencedAt place rx.frame) = true) :
    arrive place s = deliverRx place rx (s.setReseq place fun r => { r with arrivals := rest }) := by
  unfold arrive
  rw [ha]
  exact if_pos h

theorem makeHeldRoom_of_room (h : (s.reseqAt place).flows.foldl (fun a f => a + f.held.length) 0 < seqRoom place) :
    makeHeldRoom place s = s := if_pos h

/-- A frame of a flow that is known, where the store of held frames has room. -/
theorem arrive_sequenced {u : State} {r : Flow × List Rx × List (Nat × Rx)} (ha : (s.reseqAt place).arrivals = rx :: rest)
    (hh : rx.handed = false) (hs : sequencedAt place rx.frame = true) (hu : u = s.setReseq place fun r => { r with arrivals := rest })
    (hf : (u.reseqAt place).flow? (rx.frame.srcPart, rx.frame.srcPort, rx.frame.flow) = some f)
    (hroom : (u.reseqAt place).flows.foldl (fun a f => a + f.held.length) 0 < seqRoom place) (hr : r = f.take s.clock rx) :
    arrive place s = forEach r.2.2 (fun d s => countSeq place d.1 (dropRx d.2 s)) (settleFlow place r.1 r.2.1 u) := by
  have hpass : ¬ (rx.handed = true ∨ (!sequencedAt place rx.frame) = true) := by simp [hh, hs]
  unfold arrive
  rw [ha]
  refine (if_neg hpass).trans ?_
  rw [← hu]
  extract_lets key known flowOf holds kept
  have hknown : known = u := if_neg (by rw [hf]; exact Bool.false_ne_true)
  have hkept : kept = u := (congrArg (fun v => if holds then makeHeldRoom place v else v) hknown).trans
    (by rw [makeHeldRoom_of_room hroom, ite_self])
  have hflow : flowOf u = f := congrArg (Option.getD · _) hf
  have htake : Flow.take kept.clock rx (flowOf kept) = r := by rw [hkept, hflow, hr, hu, setReseq_clock]
  rw [htake, hkept]

theorem deliverRx_chiplet (rx : Rx) (s : State) :
    deliverRx (31 + chiplet) rx s = dropRx rx (if s.portUp rx.port then sendOut rx.port rx.frame s else s) := by
  rw [deliverRx, if_neg fun h => (Nat.lt_or_eq_of_le h).elim chiplet_not_die chiplet_ne_md]

/-! ### Holes (R107) -/

theorem skipHole_held {key : Nat × Nat × Nat} {t : Nat} (hf : (s.reseqAt place).flow? key = some f) (ht : f.holeSince = some t) :
    skipHole place key s =
      if f.skip.2.2 then countSeq place 2 (settleFlow place f.skip.1 f.skip.2.1 (s.reach (t + 32000)))
      else settleFlow place f.skip.1 f.skip.2.1 (s.reach (t + 32000)) := by
  unfold skipHole
  simp only [hf, ht]

theorem countSeq_die {event : Nat} (hd : die < 30) (he : event ≠ 4) : countSeq die event s = s.bump (0x51 + event) die := by
  have hdie : die < Config.pairs := hd
  rw [countSeq, if_pos hdie, if_neg he]

theorem countSeq_chiplet (event : Nat) : countSeq (31 + chiplet) event s = s.bump (0x30 + event) chiplet := by
  rw [countSeq, if_neg chiplet_not_die, if_neg chiplet_ne_md, Nat.add_sub_cancel_left]

end

/-! ### The rows -/

section
variable {rx : Rx} {rest : List Rx} {f : Flow} {a b c t : Nat}

theorem reseqFrameArrival_delivers (hd : die ≤ 30) (ha : (s.reseqAt die).arrivals = rx :: rest)
    (h : rx.handed = true ∨ (!sequencedAt die rx.frame) = true) :
    exec (.reseqFrameArrival die) s =
      .next (onPlace die (fun s => deliverRx die rx (s.setReseq die fun r => { r with arrivals := rest })) s) :=
  (guardUnit_of_exists (decide_eq_true hd)).trans (congrArg _ (onPlace_congr fun u hu => arrive_delivers (by rw [hu, ha]) h))

theorem reseqFrameArrival_sequenced {u : State} {r : Flow × List Rx × List (Nat × Rx)} (hd : die < 30) (hg : s.running (groupOfDie die) = true)
    (ha : (s.reseqAt die).arrivals = rx :: rest) (hh : rx.handed = false) (hs : sequencedAt die rx.frame = true)
    (hu : u = (s.setGroup (groupOfDie die) fun x => { x with workAt := s.clock }).setReseq die fun r => { r with arrivals := rest })
    (hf : (u.reseqAt die).flow? (rx.frame.srcPart, rx.frame.srcPort, rx.frame.flow) = some f)
    (hroom : (u.reseqAt die).flows.foldl (fun a f => a + f.held.length) 0 < 65536) (hr : r = f.take s.clock rx) :
    exec (.reseqFrameArrival die) s =
      .next (forEach r.2.2 (fun d s => countSeq die d.1 (dropRx d.2 s)) (settleFlow die r.1 r.2.1 u)) := by
  have hplace : seqRoom die = 65536 := if_pos (Nat.le_of_lt hd)
  refine (guardUnit_of_exists (decide_eq_true (Nat.le_of_lt hd))).trans (congrArg _ ?_)
  rw [onPlace_die hd hg]
  exact arrive_sequenced ha hh hs hu hf (by rwa [hplace]) hr

theorem egReseqFrameArrival_delivers {u : State} (hc : chiplet < 32) (ha : (s.reseqAt (31 + chiplet)).arrivals = rx :: rest)
    (h : rx.handed = true ∨ (!sequencedAt (31 + chiplet) rx.frame) = true) (hg : s.running (groupOfPort (4 * chiplet)) = true)
    (hu : u = (s.setGroup (groupOfPort (4 * chiplet)) fun x => { x with workAt := s.clock }).setReseq (31 + chiplet)
      fun r => { r with arrivals := rest }) :
    exec (.egReseqFrameArrival chiplet) s = .next (dropRx rx (if u.portUp rx.port then sendOut rx.port rx.frame u else u)) := by
  subst hu
  refine (guardUnit_of_exists (decide_eq_true hc)).trans (congrArg _ ?_)
  rw [onPlace_chiplet hg, arrive_delivers (by rw [setGroup_reseqAt, ha]) h, deliverRx_chiplet]

theorem holeSkip_held {u : State} (hd : die < 30) (hg : s.running (groupOfDie die) = true)
    (hf : ((s.setGroup (groupOfDie die) fun x => { x with workAt := s.clock }).reseqAt die).flow? (a, b, c) = some f) (ht : f.holeSince = some t)
    (hu : u = settleFlow die f.skip.1 f.skip.2.1 ((s.setGroup (groupOfDie die) fun x => { x with workAt := s.clock }).reach (t + 32000))) :
    exec (.holeSkip die a b c) s = .next (if f.skip.2.2 then u.bump 0x53 die else u) := by
  subst hu
  refine (guardUnit_of_exists (decide_eq_true (Nat.le_of_lt hd))).trans (congrArg _ ?_)
  rw [onPlace_die hd hg, skipHole_held hf ht, countSeq_die hd (by decide)]

theorem egHoleSkip_held {u : State} (hc : chiplet < 32) (hg : s.running (groupOfPort (4 * chiplet)) = true)
    (hf : ((s.setGroup (groupOfPort (4 * chiplet)) fun x => { x with workAt := s.clock }).reseqAt (31 + chiplet)).flow? (a, b, c) = some f)
    (ht : f.holeSince = some t)
    (hu : u = settleFlow (31 + chiplet) f.skip.1 f.skip.2.1
      ((s.setGroup (groupOfPort (4 * chiplet)) fun x => { x with workAt := s.clock }).reach (t + 32000))) :
    exec (.egHoleSkip chiplet a b c) s = .next (if f.skip.2.2 then u.bump 0x32 chiplet else u) := by
  subst hu
  refine (guardUnit_of_exists (decide_eq_true hc)).trans (congrArg _ ?_)
  rw [onPlace_chiplet hg, skipHole_held hf ht, countSeq_chiplet]

theorem seqFlowRetire_idle (hd : die ≤ 62) (hf : (s.reseqAt die).flow? (a, b, c) = some f) (hheld : f.held = []) :
    exec (.seqFlowRetire die a b c) s = .next ((s.reach (max f.lastAt f.busyAt + 10000000)).setReseq die (Reseq.dropFlow f)) := by
  refine (guardUnit_of_exists (decide_eq_true hd)).trans (congrArg _ ?_)
  simp only [hf, hheld, List.isEmpty_nil, if_true]

end

end

/-! ### O42 -/

/-- Settles O42: each clause is the lemma on its row, or on what the flow does with the frame. -/
theorem resequencersDeliverAndRetire : Obligations.ResequencersDeliverAndRetire := by
  unfold Obligations.ResequencersDeliverAndRetire
  refine ⟨⟨?delivered, ?sequenced, ?egress, ?awaited, ?beyond⟩, ?hole, ?egressHole, ?idle⟩
  case delivered => exact fun s die rx rest hd ha h => reseqFrameArrival_delivers hd ha h
  case sequenced =>
    exact fun s die rx rest u f r hd hg ha hh hs hu hf hroom hr =>
      reseqFrameArrival_sequenced hd hg ha (by simpa using hh) hs hu hf hroom hr
  case egress => exact fun s chiplet rx rest hc ha h hg => ⟨_, rfl, egReseqFrameArrival_delivers hc ha h hg rfl⟩
  case awaited => exact fun f rx now x hx hr hs => ⟨_, _, take_awaited hx (by simpa using hr) hs, rfl⟩
  case beyond =>
    intro f rx now x d hx hr hd h0
    rw [take_beyond hx (by simpa using hr) hd h0]
    refine ⟨fun hnear hnew => ?_, fun hfar hhalf => ?_, fun hold => ?_⟩
    · have hfresh : ¬ (f.held.any fun h => h.seq = BitVec.ofNat 24 rx.frame.seq) = true := by simpa using hnew
      rw [if_pos hnear, if_neg hfresh]
    · rw [if_neg (Nat.not_le.2 hfar), if_pos hhalf]
    · rw [if_neg (by omega), if_neg (Nat.not_lt.2 hold)]
  case hole => exact fun s die a b c f t _ hd hg hf ht => ⟨_, rfl, holeSkip_held hd hg hf ht rfl⟩
  case egressHole =>
    intro s chiplet a b c f t g hc hgroup hg hf ht
    subst hgroup
    exact ⟨_, rfl, egHoleSkip_held hc hg hf ht rfl⟩
  case idle => exact fun s die a b c f hd hf hheld => seqFlowRetire_idle hd hf hheld

end Sys2Proof.Proofs
end

section
/-! Fields of a header: a replaced field reads back, and every bit outside it stays (R97). -/
namespace Sys2Proof.Proofs
open Sys2Proof.Machine

theorem replaceField_eq (n lo w v : Nat) :
    n - bitsAt n lo w <<< lo + v <<< lo = 2 ^ lo * (2 ^ w * (n / 2 ^ (lo + w)) + v) + n % 2 ^ lo := by
  have hfield : bitsAt n lo w = n / 2 ^ lo % 2 ^ w := by rw [bitsAt, Nat.shiftRight_eq_div_pow]
  have hlow : 2 ^ lo * (n / 2 ^ lo) + n % 2 ^ lo = n := Nat.div_add_mod ..
  have hmid : 2 ^ w * (n / 2 ^ (lo + w)) + n / 2 ^ lo % 2 ^ w = n / 2 ^ lo := by
    rw [Nat.pow_add, ← Nat.div_div_eq_div_mul, Nat.div_add_mod]
  rw [Nat.shiftLeft_eq, Nat.shiftLeft_eq, hfield]
  have hsum := congrArg (2 ^ lo * ·) hmid
  simp only [Nat.mul_add, Nat.mul_comm _ (2 ^ lo)] at hsum ⊢
  omega

theorem getLsbD_withBits {h : BitVec 256} {lo w v i : Nat} (hw : lo + w ≤ 256) :
    (withBits h lo w v).getLsbD i = if lo ≤ i ∧ i < lo + w then v.testBit (i - lo) else h.getLsbD i := by
  have hlow : h.toNat % 2 ^ lo < 2 ^ lo := Nat.mod_lt _ (Nat.two_pow_pos lo)
  have hmid : v % 2 ^ w < 2 ^ w := Nat.mod_lt _ (Nat.two_pow_pos w)
  rw [withBits, replaceField_eq, BitVec.getLsbD_ofNat, Nat.testBit_two_pow_mul_add _ hlow, Nat.testBit_two_pow_mul_add _ hmid,
    Nat.testBit_mod_two_pow, Nat.testBit_mod_two_pow, Nat.testBit_div_two_pow]
  by_cases hbelow : i < lo
  · simp [hbelow, Nat.not_le.2 hbelow, show i < 256 by omega, BitVec.getLsbD]
  · by_cases hin : i < lo + w
    · simp [hbelow, Nat.not_lt.1 hbelow, hin, show i < 256 by omega, show i - lo < w by omega]
    · simp only [hbelow, hin, show ¬ i - lo < w by omega, if_false, and_false]
      rw [show i - lo - w + (lo + w) = i by omega]
      by_cases hlast : i < 256
      · simp [hlast, BitVec.getLsbD]
      · simp [hlast, BitVec.getLsbD_of_ge h i (Nat.not_lt.1 hlast)]

theorem ce_eq_getLsbD (f : Frame) : f.ce = f.header.getLsbD 8 := by
  unfold Frame.ce Frame.field bitsAt BitVec.getLsbD
  rw [Nat.shiftRight_eq_div_pow, Nat.testBit_eq_decide_div_mod_eq]
  rfl

/-- The echo that was taken is gone from the header, whose HCRC is good again (R97, R238). -/
theorem ce_withHcrc_cleared (f : Frame) : Frame.ce { f with header := withHcrc (withBits f.header 8 1 0) } = false := by
  rw [ce_eq_getLsbD, withHcrc, getLsbD_withBits (by decide), if_neg (by decide), getLsbD_withBits (by decide), if_pos (by decide)]
  rfl

end Sys2Proof.Proofs
end

section
/-! The way of a row into the part: rows join a port's stream, frames are cut from it, checked and admitted (R95, R97, R109, R110, R230, R250,
R313, R343, R371, R399), and O52, assembled from the steps. -/
namespace Sys2Proof.Proofs
open Sys2Proof.Machine Sys2Proof.Laws

/-! ### Rows (R250, R256) -/

/-- A port that carries data rows: UP, or in step 7 of its training. -/
def carriesRows (s : State) (p : Nat) : Prop := s.portUp p = true ∨ ((s.port p).state = .training ∧ (s.port p).step = 7)

section
variable {s : State} {p n : Nat} {rows : List (List (BitVec 256))}

theorem laneFrameIngress_rows (hp : p < 128) (hl : ∀ r ∈ rows, r.length = 8) (h : carriesRows s p) :
    exec (.laneFrameIngress p rows) s = .next (forEach rows (takeRow p) (onGroup (groupOfPort p) id s)) :=
  (guardUnit_of_exists (by simpa using ⟨hp, hl⟩)).trans (congrArg _ (if_pos h))

theorem laneFrameIngress_ignored (hp : p < 128) (hl : ∀ r ∈ rows, r.length = 8) (h : ¬ carriesRows s p) :
    exec (.laneFrameIngress p rows) s = .next s :=
  (guardUnit_of_exists (by simpa using ⟨hp, hl⟩)).trans (congrArg _ (if_neg h))

/-! ### The front of a stream (R250, R399) -/

section
variable {l : Link} {b : Byte} {rest : Bytes}

theorem frameStep_filler (hl : l.rx = b :: rest) (hb : b.toNat % 16 = 0) : frameStep l = some (8, none, false) := by
  unfold frameStep
  simp only [hl, List.head?_cons, hb, if_true]

theorem frameStep_noHeader (hl : l.rx = b :: rest) (hb : b.toNat % 16 ≠ 0) (hn : 32 ≤ l.rx.length)
    (hh : Frame.hcrcOk (cutFrame l.rx 0) = false) : frameStep l = some (8, none, true) := by
  unfold frameStep
  simp only [show l.rx.head? = some b by rw [hl]; rfl, if_neg hb, if_neg (Nat.not_lt.2 hn), hh, Bool.not_false, if_true]

theorem frameStep_header (hl : l.rx = b :: rest) (hb : b.toNat % 16 ≠ 0) (hn : 32 ≤ l.rx.length)
    (hh : Frame.hcrcOk (cutFrame l.rx 0) = true) (hf : frontLen l.rx = some n) :
    frameStep l = if l.rx.length < wireBytes n then none
      else if stubInFront l.rx n then some (48, some (cutFrame l.rx 0), false)
      else some (wireBytes n, some (cutFrame l.rx n), false) := by
  unfold frameStep
  simp only [show l.rx.head? = some b by rw [hl]; rfl, if_neg hb, if_neg (Nat.not_lt.2 hn), hh, hf, Bool.not_true, Bool.false_eq_true, if_false]

end

/-! ### Frames of a stream (R97, R254) -/

/-- An update of a link is known by what it makes of that link. -/
theorem setLink_congr {f f' : Link → Link} (h : f (s.link p) = f' (s.link p)) : s.setLink p f = s.setLink p f' := by
  unfold State.link at h
  unfold State.setLink lmap
  congr 1
  refine List.ext_getElem? fun i => ?_
  rw [List.getElem?_modify, List.getElem?_modify]
  by_cases hi : p = i
  · subst hi
    cases hlink : s.links[p]? with
    | none => rfl
    | some l =>
      rw [List.getD_eq_getElem?_getD, hlink] at h
      exact congrArg some (by simpa using h)
  · simp only [if_neg hi]

theorem takeFrames_skip {fuel : Nat} {u : State} (hup : s.portUp p = true) (hack : (s.link p).awaitAck = false)
    (hstep : frameStep (s.link p) = some (n, none, true))
    (hu : u = s.setLink p fun l => { l with rx := l.rx.drop n, skipping := true }) :
    takeFrames (fuel + 1) p s = takeFrames fuel p (if (s.link p).skipping then u else u.bump Counter.hdrErr p) := by
  subst hu
  rw [takeFrames]
  simp only [hstep, hack, hup, Bool.true_or, Bool.and_true, Option.isNone_none, Bool.not_true, Bool.or_false, Bool.not_false, true_and,
    and_true]
  cases (s.link p).skipping <;> rfl

theorem takeFrames_frame {fuel : Nat} {f : Frame} (hup : s.portUp p = true) (hack : (s.link p).awaitAck = false)
    (hstep : frameStep (s.link p) = some (n, some f, false)) (hvoid : (s.link p).rxVoid = false) :
    takeFrames (fuel + 1) p s =
      takeFrames fuel p (ingressFrame p f (s.setLink p fun l => { l with rx := l.rx.drop n, skipping := false })) := by
  have hlink : (s.setLink p fun l => { l with rx := l.rx.drop n, skipping := false, rxVoid := false }) =
      s.setLink p fun l => { l with rx := l.rx.drop n, skipping := false } := setLink_congr (by rw [← hvoid])
  rw [takeFrames, ← hlink]
  simp only [hstep, hack, hup, hvoid, Option.isNone_some, Bool.and_false, Bool.or_false, Bool.not_true, Bool.false_eq_true, false_and,
    or_self, if_false]

/-! ### A frame whose header is good (R95, R109, R110, R237, R238) -/

section
variable {f : Frame}

theorem ingressFrame_echo (hce : f.ce = true) :
    ingressFrame p f s = ingressFrame p { f with header := withHcrc (withBits f.header 8 1 0) } (s.setLink p (takeEchoIn s.clock)) := by
  unfold ingressFrame takeCe
  rw [if_pos hce, if_neg (by simp [ce_withHcrc_cleared])]

theorem ingressFrame_reserved (hce : f.ce = false) (h : (!typeOk f) = true ∨ (!subtypeOk f) = true) :
    ingressFrame p f s = returnCredits p f.vc (creditsOf f.payload.length) (s.bump Counter.portTypeErr p) := by
  unfold ingressFrame takeCe
  simp only [hce, Bool.false_eq_true, if_false, if_pos h]

theorem ingressFrame_known (hce : f.ce = false) (ht : typeOk f = true) (hs : subtypeOk f = true) :
    ingressFrame p f s = if f.taint then admitFrame p false f (s.bump Counter.taintSeen p)
      else if Frame.crcOk f then admitFrame p false f s else admitFrame p true (setTaint f) (s.bump Counter.crcErr p) := by
  unfold ingressFrame takeCe
  cases htaint : f.taint <;> cases hcrc : Frame.crcOk f <;> simp [hce, ht, hs, htaint, hcrc]

/-! ### Admission (R230, R313, R343, R371) -/

theorem admitFrame_noCredit {bad : Bool} (h : (!mayStart (s.occupied p) f.vc (creditsOf f.payload.length)) = true) :
    admitFrame p bad f s = ingressCredits p f s (s.bump Counter.creditViol p) := by
  unfold admitFrame
  rw [if_pos h]

theorem admitFrame_credit {bad : Bool} (h : mayStart (s.occupied p) f.vc (creditsOf f.payload.length) = true) :
    admitFrame p bad f s = ingressCredits p f s
      (if forMd s f then stageFrame p p false f [Config.mdPort] s
       else if !s.routes.committed then s.bump Counter.noRoute partWide
       else if foreignPort s p f then s.bump Counter.platMiss p
       else lookupFrame p bad f s) := by
  unfold admitFrame
  rw [if_neg (by simp [h])]

end

end

/-! ### O52 -/

/-- Settles O52: a row, the front of the stream, a frame and its admission, each by the lemma on its case. -/
theorem laneIngressCompletes : Obligations.LaneIngressCompletes := by
  unfold Obligations.LaneIngressCompletes
  refine ⟨?rows, ?row, ?front, ?stream, ?echo, ?frame, ?admission⟩
  case rows =>
    exact fun s p rows hp hl => ⟨fun h => laneFrameIngress_rows hp hl h,
      fun hup htrain => laneFrameIngress_ignored hp hl (not_or.2 ⟨by simpa using hup, htrain⟩)⟩
  case row =>
    intro s p row r u hr hu
    subst hr hu
    rfl
  case front =>
    intro l b rest n hl
    refine ⟨frameStep_filler hl, fun hb hn hh => frameStep_noHeader hl hb hn (by simpa using hh), fun hb hn hh hf => ?_⟩
    rw [frameStep_header hl hb hn hh hf]
    exact ⟨fun hshort => if_pos hshort, fun hwhole hstub => by rw [if_neg (Nat.not_lt.2 hwhole), if_neg (by simpa using hstub)]⟩
  case stream =>
    intro s p fuel n hup hack
    have hack' : (s.link p).awaitAck = false := by simpa using hack
    exact ⟨fun hstep => ⟨_, rfl, takeFrames_skip hup hack' hstep rfl⟩,
      fun f hstep hvoid => takeFrames_frame hup hack' hstep (by simpa using hvoid)⟩
  case echo => exact fun s p f hce => ingressFrame_echo hce
  case frame =>
    intro s p f hce
    have hce' : f.ce = false := by simpa using hce
    refine ⟨ingressFrame_reserved hce', fun ht hs => ?_⟩
    rw [ingressFrame_known hce' ht hs]
    exact ⟨fun htaint => if_pos htaint, fun htaint hcrc => by rw [if_neg (by simpa using htaint), if_pos hcrc],
      fun htaint hcrc => by rw [if_neg (by simpa using htaint), if_neg (by simpa using hcrc)]⟩
  case admission =>
    intro s p bad f
    refine ⟨admitFrame_noCredit, fun hcredit => ?_⟩
    rw [admitFrame_credit hcredit]
    refine ⟨fun hmd => ?_, fun hmd hroutes => ?_, fun hmd hroutes hport => ?_, fun hmd hroutes hport => ?_⟩
    · rw [if_pos hmd]
    · rw [if_neg (by simpa using hmd), if_pos hroutes]
    · rw [if_neg (by simpa using hmd), if_neg (by simpa using hroutes), if_pos hport]
    · rw [if_neg (by simpa using hmd), if_neg (by simpa using hroutes), if_neg (by simpa using hport)]

end Sys2Proof.Proofs
end

section
/-! Acceptance of a command, seen from the state its effect begins in: the journal, the mailbox, the memories and the groups are all it may
write (R304, R316, R347). With it O17, by what each opcode's verdict makes of the command. -/
namespace Sys2Proof.Proofs
open Sys2Proof.Machine Sys2Proof.Laws

/-! ### What acceptance leaves as it was (R304) -/

/-- A state without the parts that taking and journaling a command may write. -/
def unjournaled (s : State) : State :=
  { s with groups := [], mailbox := {}, book := {}, pokes := [], hbmStacks := [], counters := [] }

theorem workGroup_unjournaled (g : Nat) (s : State) : unjournaled (workGroup g s) = unjournaled s := by
  unfold workGroup wakeGroup
  split
  · rfl
  · split <;> rfl

theorem workPairs_unjournaled (pairs : List Nat) (s : State) : unjournaled (workPairs pairs s) = unjournaled s :=
  forEach_keeps unjournaled workGroup_unjournaled _ s

@[simp] theorem setStack_unjournaled (i : Nat) (f : Hbm → Hbm) (s : State) : unjournaled (s.setStack i f) = unjournaled s := rfl

@[simp] theorem countCorrected_unjournaled (pair pch symbols : Nat) (s : State) :
    unjournaled (countCorrected pair pch symbols s) = unjournaled s := rfl

@[simp] theorem countLost_unjournaled (pair pch : Nat) (s : State) : unjournaled (countLost pair pch s) = unjournaled s := rfl

theorem decodeCount_unjournaled (pair a : Nat) (back : Bool) (s : State) : unjournaled (decodeCount pair a back s) = unjournaled s := by
  unfold decodeCount
  dsimp only
  split
  case h_1 => exact setStack_unjournaled ..
  case h_2 => simp only [apply_ite unjournaled, setStack_unjournaled, countCorrected_unjournaled, ite_self]
  case h_3 => simp only [countLost_unjournaled, setStack_unjournaled]

theorem writeBookLine_unjournaled (seq : Nat) (s : State) : unjournaled (writeBookLine seq s) = unjournaled s := by
  refine forEach_keeps unjournaled (fun c s => ?_) _ s
  dsimp only
  split
  · exact decodeCount_unjournaled ..
  · exact decodeCount_unjournaled ..

theorem journalCommand_unjournaled (c : Cmd) (index : BitVec 16) (a : Accepted) (s : State) :
    unjournaled (journalCommand c index a s) = unjournaled s :=
  (writeBookLine_unjournaled _ _).trans (workPairs_unjournaled _ _)

theorem begun_unjournaled (s : State) (c : Command) (a : Accepted) : unjournaled (s.begun c a) = unjournaled s :=
  (workPairs_unjournaled _ _).trans (journalCommand_unjournaled ..)

theorem begun_monitor (s : State) (c : Command) (a : Accepted) : (s.begun c a).monitor = s.monitor :=
  (congrArg State.monitor (begun_unjournaled s c a) :)

theorem begun_clock (s : State) (c : Command) (a : Accepted) : (s.begun c a).clock = s.clock :=
  (congrArg State.clock (begun_unjournaled s c a) :)

/-! ### A stream after a change on both dies (Table 5.2) -/

/-- A changed stream reads as changed; one that no die holds reads as it does after reset. -/
theorem stream_setStream (n : Nat) (f : Stream → Stream) (s : State) :
    (setStream n f s).stream n = f (s.stream n) ∨ (setStream n f s).stream n = {} := by
  simp only [State.stream, setStream, lmap, List.getD_eq_getElem?_getD, List.getElem?_map]
  cases s.timebases[s.refclk.active]? with
  | none => exact .inr rfl
  | some b =>
    simp only [Option.map_some, Option.getD_some, List.getElem?_modify_eq]
    cases b.streams[n]? with
    | none => exact .inr rfl
    | some x => exact .inl rfl

theorem sourceStream_off {c : Cmd} (h : c.flag 7 = true) :
    sourceStream c = fun x => { x with state := .off, version := x.version + 1 } :=
  funext fun _ => if_pos h

/-- A stream set OFF is OFF, or UNSET where no die holds it: its marks are numbered anew. -/
theorem setStream_off_ends {c : Cmd} (h : c.flag 7 = true) (n : Nat) (s : State) :
    ((setStream n (sourceStream c) s).stream n).state = .unset ∨ ((setStream n (sourceStream c) s).stream n).state = .off := by
  rcases stream_setStream n (sourceStream c) s with hx | hx
  · exact .inr (by rw [hx, sourceStream_off h])
  · exact .inl (by rw [hx])

/-! ### What an accepted verdict does (Table 15.6) -/

section
variable {c : Cmd} {s : State} {a : Accepted}

theorem stageVerdict_stages (h : stageVerdict c s = .accept a) (k : Nat) (u : State) :
    a.effect k u = u.setRoutes fun r => { r with
      version := r.version + 1
      staged := (stagedWords (c.arg 16 11) c.buffer).zipIdx.foldl (fun l e => tset (c.arg 0 16 + e.2) (destOf e.1) l)
        (if c.flag 27 then [] else r.staged) } := by
  cases (verdictOf_accept h).1
  rfl

theorem commitVerdict_commits (h : commitVerdict c s = .accept a) (k : Nat) (u : State) :
    a.effect k u = joinNew u (u.setRoutes Routes.commit) := by
  cases (verdictOf_accept h).1
  rfl

theorem mirrorVerdict_session (h : mirrorVerdict c s = .accept a) (hi : c.arg 0 4 ≠ 15) (k : Nat) (u : State) :
    a.effect k u = { u with monitor := { u.monitor with sessions := u.monitor.sessions.modify (c.arg 0 4) fun o =>
      { mirrorOf (leNat (c.buffer.take 16)) with copies := o.copies, drops := o.drops, version := o.version + 1 } } } := by
  unfold mirrorVerdict at h
  dsimp only at h
  rw [if_neg hi] at h
  cases (verdictOf_accept h).1
  rfl

theorem mirrorVerdict_part (h : mirrorVerdict c s = .accept a) (hi : c.arg 0 4 = 15) (k : Nat) (u : State) :
    a.effect k u = { u with monitor := { u.monitor with
      analysisPort := c.arg 8 8, limit := c.arg 32 32, collectorPart := c.arg 64 16, collectorPort := c.arg 80 8
      periodUs := c.arg 96 32, version := u.monitor.version + 1, lastAt := u.clock } } := by
  unfold mirrorVerdict at h
  dsimp only at h
  rw [if_pos hi] at h
  cases (verdictOf_accept h).1
  rfl

/-- R349-R351: the budgets are written, a stream newly bound gets its WAKE action, and the parcel's idle WAKE actions go. -/
theorem budgetVerdict_writes {gs : List Nat} {t v : State} (h : budgetVerdict c s = .accept a) (k : Nat) (u : State)
    (hgs : gs = (List.range 20).filter (fun g => c.flag g))
    (ht : t = u.setParcel c.parcel fun p => { p with
      version := p.version + 1
      budgets := gs.foldl (fun l g => if c.arg 32 32 == 0xFFFFFFFF then tdel g l
        else tset g { ns := c.arg 32 32, stream := if c.flag 70 then some (c.arg 64 6) else none } l) p.budgets })
    (hv : v = if c.flag 70 ∧ c.arg 32 32 ≠ 0xFFFFFFFF ∧ !s.hasWake c.parcel (c.arg 64 6) then
      addAction c.parcel (wakeTrigger (c.arg 64 6)) (.wake c.parcel (c.arg 64 6)) t else t) :
    a.effect k u = settleDebug (forEach gs exitIfDeep (dropWakes c.parcel v)) := by
  have hwakes : (c.flag 70 && !(c.arg 32 32 == 0xFFFFFFFF) && !s.hasWake c.parcel (c.arg 64 6)) = true ↔
      c.flag 70 ∧ c.arg 32 32 ≠ 0xFFFFFFFF ∧ !s.hasWake c.parcel (c.arg 64 6) := by simp [and_assoc]
  subst hgs ht hv
  cases (verdictOf_accept h).1
  simp only [hwakes]
  rfl

/-- R118: a stream set anew, its marks numbered anew where it enters UNSET, and with RESET the end of its HOLD and of too deep states. -/
theorem sourceVerdict_sets {n : Nat} {t v w : State} (h : sourceVerdict c s = .accept a) (hoff : c.flag 7 = false) (k : Nat) (u : State)
    (hn : n = c.arg 0 6) (ht : t = setStream n (sourceStream c) u)
    (hv : v = if (t.stream n).state = .unset ∨ (t.stream n).state = .off then renewStream n t else t)
    (hw : w = if (s.stream n).state = .hold then stationEvent n (v.stream n) v else v) :
    a.effect k u = if c.flag 6 then forEach (w.boundGroups n) exitIfDeep w else v := by
  subst hn ht hv hw
  cases (verdictOf_accept h).1
  cases c.flag 6 <;> simp [hoff]

theorem sourceVerdict_off (h : sourceVerdict c s = .accept a) (hoff : c.flag 7 = true) (k : Nat) (u : State) :
    a.effect k u = renewStream (c.arg 0 6) (setStream (c.arg 0 6) (fun x => { x with state := .off, version := x.version + 1 }) u) := by
  cases (verdictOf_accept h).1
  simp only [if_pos (setStream_off_ends hoff _ u), hoff, Bool.not_true, Bool.and_false, Bool.false_eq_true, false_and, if_false]
  rw [sourceStream_off hoff]

end

/-! ### O17 -/

/-- Settles O17: each clause is what the opcode's verdict makes of the command, in the state that has journaled it. -/
theorem routeMirrorBudgetStationCommandsComplete : Obligations.RouteMirrorBudgetStationCommandsComplete := by
  unfold Obligations.RouteMirrorBudgetStationCommandsComplete
  refine ⟨?stage, ?commit, ?session, ?part, ?budget, ?source, ?off⟩
  case stage => exact fun c s a h => runCommand_of_effect h (stageVerdict_stages (Accepts.own h) _ _)
  case commit => exact fun c s a h => runCommand_of_effect h (commitVerdict_commits (Accepts.own h) _ _)
  case session =>
    intro c s a h
    have hi : (s.loaded c).arg 0 4 ≠ 15 := (of_decide_eq_true h.form).2
    exact runCommand_of_effect h ((mirrorVerdict_session (Accepts.own h) hi _ _).trans (by rw [← begun_monitor s c a]))
  case part =>
    intro c s a h
    have hi : (s.loaded c).arg 0 4 = 15 := (of_decide_eq_true h.form).2
    exact runCommand_of_effect h ((mirrorVerdict_part (Accepts.own h) hi _ _).trans (by rw [← begun_monitor s c a, ← begun_clock s c a]))
  case budget =>
    exact fun c s a h => ⟨_, _, _, _, rfl, rfl, rfl, rfl, runCommand_of_effect h (budgetVerdict_writes (Accepts.own h) _ _ rfl rfl rfl)⟩
  case source =>
    exact fun c s a h => ⟨_, _, _, _, rfl, rfl, rfl, rfl,
      runCommand_of_effect h (sourceVerdict_sets (Accepts.own h) (flag_clear_of_form h.form) _ _ rfl rfl rfl rfl)⟩
  case off =>
    intro c s a h
    have hoff : (s.loaded c).flag 7 = true := (of_decide_eq_true h.form).2
    exact ⟨_, rfl, runCommand_of_effect h (sourceVerdict_off (Accepts.own h) hoff _ _)⟩

end Sys2Proof.Proofs
end

section
/-! Marks at a timebase die: the case a mark meets (R119), what the stream, the standby and the active die make of each case (R120, R122-R125),
and O43, assembled from them. -/
namespace Sys2Proof.Proofs
open Sys2Proof.Machine Sys2Proof.Laws

/-! ### The case of a mark (R119) -/

section
variable {x : Stream} {source : Bool} {c : Coord} {n : BitVec 32}

theorem markCase_refused (h : x.state = .off ∨ source = false) : markCase x source c n = 1 :=
  if_pos (h.imp_right fun hs => by rw [hs]; rfl)

theorem markCase_first (hs : source = true) (h : x.state = .unset) : markCase x source c n = 2 := by
  unfold markCase
  rw [if_neg (by simp [hs, h]), if_pos h]

/-- Past the first two cases, number and STEP decide. -/
theorem markCase_started (hs : source = true) (hoff : x.state ≠ .off) (hunset : x.state ≠ .unset) :
    markCase x source c n = if n = x.markNo then (if c = x.coord then 3 else 4)
      else if (n - x.markNo).toInt < 0 ∨ c.step < x.coord.step then 5
      else if n = x.markNo + 1 ∧ c.step ≤ x.coord.step + 1 then 6 else 7 := by
  unfold markCase
  rw [if_neg (by simp [hs, hoff]), if_neg hunset]

/-- The next mark number differs and is not behind, whether or not it wraps. -/
theorem markNo_succ (m : BitVec 32) : m + 1 ≠ m ∧ ¬ (m + 1 - m).toInt < 0 := by
  have hdiff : m + 1 - m = 1 := by rw [BitVec.add_comm, BitVec.add_sub_cancel]
  refine ⟨fun h => ?_, by rw [hdiff]; decide⟩
  rw [h, BitVec.sub_self] at hdiff
  exact absurd hdiff (by decide)

end

/-! ### The stream after a mark (R117, R119) -/

/-- A case that does not accept a new mark leaves coordinate, number and STATE. -/
theorem mark_keeps {k : Nat} (hk : k ∈ [1, 3, 4, 5, 7]) (x : Stream) (now : Nat) (c : Coord) (m : BitVec 32) :
    (x.mark now k c m).coord = x.coord ∧ (x.mark now k c m).markNo = x.markNo ∧ (x.mark now k c m).state = x.state := by
  simp only [List.mem_cons, List.not_mem_nil, or_false] at hk
  rcases hk with rfl | rfl | rfl | rfl | rfl <;> exact ⟨rfl, rfl, rfl⟩

/-! ### A die meets a mark (R119, R120, R122, R123) -/

section
variable {s u : State} {tb n flow k : Nat} {source : Bool} {c : Coord} {m : BitVec 32}

/-- What a die does with a mark of case `k`: `u` has it counted or taken, `w` has the replica on its way, and `z` has reported the end of HOLD. -/
theorem meetMark_of_case {w z : State} (hk : k = markCase (s.streamAt tb n) source c m) (hu : u = setStreamAt tb n (Stream.mark s.clock k c m) s)
    (hw : w = { u with ringSync := u.ringSync ++ [RingSync.mk n (u.streamAt tb n)] })
    (hz : z = if (s.streamAt tb n).state = .hold then stationEvent n (u.streamAt tb n) w else w) :
    meetMark tb n flow source c m s =
      if tb ≠ s.refclk.active then (if k = 2 ∨ k = 6 then holdActions n m c u else u)
      else if k = 7 then sendNack tb n flow u
      else if k = 2 ∨ k = 3 ∨ k = 6 then (if k = 3 then w else forEach (z.firedBy n c) (fireAction m c) z)
      else u := by
  subst hk hu hw hz
  rfl

/-- A mark that no case accepts anew and that calls for no NACK of this die is only counted. -/
theorem meetMark_counted (hk : k = markCase (s.streamAt tb n) source c m) (hu : u = setStreamAt tb n (Stream.mark s.clock k c m) s)
    (h : k = 1 ∨ k = 4 ∨ k = 5 ∨ (tb ≠ s.refclk.active ∧ (k = 3 ∨ k = 7))) : meetMark tb n flow source c m s = u := by
  rw [meetMark_of_case hk hu rfl rfl]
  by_cases ha : tb = s.refclk.active
  · have hcase : k = 1 ∨ k = 4 ∨ k = 5 := by tauto
    rw [if_neg (not_not.2 ha), if_neg (by omega), if_neg (by omega)]
  · rw [if_pos ha, if_neg (by omega)]

/-- R125: the standby holds the actions of a mark it accepts. -/
theorem meetMark_standby (hk : k = markCase (s.streamAt tb n) source c m) (hu : u = setStreamAt tb n (Stream.mark s.clock k c m) s)
    (ha : tb ≠ s.refclk.active) (h : k = 2 ∨ k = 6) : meetMark tb n flow source c m s = holdActions n m c u := by
  rw [meetMark_of_case hk hu rfl rfl, if_pos ha, if_pos h]

/-- R120: the active die answers a mark too far ahead with a NACK. -/
theorem meetMark_skip (hk : k = markCase (s.streamAt tb n) source c m) (hu : u = setStreamAt tb n (Stream.mark s.clock k c m) s)
    (ha : tb = s.refclk.active) (h : k = 7) : meetMark tb n flow source c m s = sendNack tb n flow u := by
  rw [meetMark_of_case hk hu rfl rfl, if_neg (not_not.2 ha), if_pos h]

/-- R122, R123: the active die sends its replica of a mark it accepts and, but for a repeat, fires the mark's actions. -/
theorem meetMark_accepted {w z : State} (hk : k = markCase (s.streamAt tb n) source c m)
    (hu : u = setStreamAt tb n (Stream.mark s.clock k c m) s) (ha : tb = s.refclk.active) (h : k = 3 ∨ k = 2 ∨ k = 6)
    (hw : w = { u with ringSync := u.ringSync ++ [RingSync.mk n (u.streamAt tb n)] })
    (hz : z = if (s.streamAt tb n).state = .hold then stationEvent n (u.streamAt tb n) w else w) :
    meetMark tb n flow source c m s = if k = 3 then w else forEach (z.firedBy n c) (fireAction m c) z := by
  rw [meetMark_of_case hk hu hw hz, if_neg (not_not.2 ha), if_neg (by omega), if_pos (by omega)]

end

/-! ### The row (R94, R110, R125) -/

section
variable {s : State} {tb : Nat} {rx : Rx} {rest : List Rx}

/-- With no record lost the row takes the die's oldest mark. -/
theorem exec_stationMark (htb : tb < 2) (s : State) : exec (.stationMark { tb := tb }) s = .next (takeMark tb s) :=
  guardUnit_of_exists (by simp [htb])

theorem takeMark_good (hm : (s.timebases.getD tb {}).marks = rx :: rest) (ht : (!rx.frame.taint) = true) (hc : Frame.crcOk rx.frame = true)
    (hr : reservedOk rx.frame = true) (hp : rx.frame.payload = []) {v : State} {x : Stream}
    (hv : v = s.setTimebase tb fun b => { b with marks := rest }) (hx : x = v.streamAt tb rx.frame.stream) :
    takeMark tb s = meetMark tb rx.frame.stream rx.frame.flow
      (rx.port == x.ingressPort && rx.frame.srcPart == x.originPart && rx.frame.srcPort == x.originPort)
      (markCoord rx.frame) (BitVec.ofNat 32 (rx.frame.field 160 32)) v := by
  subst hv hx
  unfold takeMark
  simp only [hm]
  rw [if_neg (by simpa [hc] using ht), if_neg (by simp [hr, hp])]

theorem takeMark_bad (hm : (s.timebases.getD tb {}).marks = rx :: rest) (h : rx.frame.taint ∨ !Frame.crcOk rx.frame) :
    takeMark tb s = s.setTimebase tb fun b => { b with marks := rest } := by
  unfold takeMark
  simp only [hm]
  rw [if_pos h]

/-- R125: an ordinal received for the mark or a later one is not fired again. -/
theorem fireAction_ran {m : BitVec 32} {a : Action} (h : ∃ l, a.last = some l ∧ (m - l).toInt ≤ 0) (c : Coord) (s : State) :
    fireAction m c a s = s := by
  obtain ⟨l, hl, hle⟩ := h
  have hran : a.ran m = true := by rw [Action.ran, hl]; exact decide_eq_true hle
  exact if_pos hran

end

/-! ### O43 -/

/-- Settles O43: each clause is the lemma on the case of R119, on the row, or on the action that has run. -/
theorem stationMarksFollowTheirCases : Obligations.StationMarksFollowTheirCases := by
  unfold Obligations.StationMarksFollowTheirCases
  refine ⟨⟨?mark, ?ran, ?bad, ?stream⟩, ?cases⟩
  case mark =>
    intro s tb rx rest v n c m k u htb hm ht hc hr hp hv hn hco hmn hk hu
    have hactive : v.refclk.active = s.refclk.active := by rw [hv, setTimebase_refclk]
    rw [exec_stationMark htb, takeMark_good hm ht hc hr hp hv rfl, ← hn, ← hco, ← hmn, ← hactive]
    refine ⟨fun h => congrArg _ (meetMark_counted hk hu h), fun ha h => congrArg _ (meetMark_standby hk hu ha h),
      fun ha h => congrArg _ (meetMark_skip hk hu ha h), fun ha h => ⟨_, _, rfl, rfl, fun h3 => ?_, fun h3 => ⟨_, rfl, ?_⟩⟩⟩
    · rw [meetMark_accepted hk hu ha h rfl rfl, if_pos h3]
    · rw [meetMark_accepted hk hu ha h rfl rfl, if_neg h3]
  case ran => exact fun m c a s h => fireAction_ran h c s
  case bad => exact fun s tb rx rest htb hm h => by rw [exec_stationMark htb, takeMark_bad hm h]
  case stream => exact fun x now c m => ⟨rfl, rfl, rfl, rfl, fun k hk => mark_keeps hk x now c m⟩
  case cases =>
    rintro x src c n _ rfl
    refine ⟨markCase_refused, markCase_first, fun hs hoff hunset => ?_⟩
    rw [markCase_started hs hoff hunset]
    refine ⟨fun hn hc => ?repeat_, fun hn hc => ?conflict, fun hn hback => ?back, fun hn hlo hhi => ?next, fun hn hfar => ?step,
      fun hn hn1 hpos hlo => ?skip⟩
    case repeat_ => rw [if_pos hn, if_pos hc]
    case conflict => rw [if_pos hn, if_neg hc]
    case back => rw [if_neg hn, if_pos hback]
    case next =>
      obtain ⟨hne, hahead⟩ := markNo_succ x.markNo
      rw [← hn] at hne hahead
      rw [if_neg hne, if_neg (not_or.2 ⟨hahead, Nat.not_lt.2 hlo⟩), if_pos ⟨hn, hhi⟩]
    case step =>
      obtain ⟨hne, hahead⟩ := markNo_succ x.markNo
      rw [← hn] at hne hahead
      rw [if_neg hne, if_neg (not_or.2 ⟨hahead, by omega⟩), if_neg fun h => absurd h.2 (Nat.not_le.2 hfar)]
    case skip => rw [if_neg hn, if_neg (not_or.2 ⟨not_lt.2 hpos, Nat.not_lt.2 hlo⟩), if_neg fun h => hn1 h.1]

end Sys2Proof.Proofs
end

section
/-! The pin's words (R121), the copies and losses of a stream's record (R122, R126, Table 18.1), the end of a stream's time (R126), and O44,
assembled from them. -/
namespace Sys2Proof.Proofs
open Sys2Proof.Machine Sys2Proof.Laws

/-! ### The pin (R121) -/

/-- A good word is a mark of the stream it names, numbered by whether its coordinate is new. -/
theorem pinWord_good {w n : Nat} {x : Stream} {c : Coord} {s : State} {tb : Nat} (hn : n = bitsAt w 88 6) (hx : x = s.streamAt tb n)
    (hsync : bitsAt w 0 16 = 0xB38F) (hzero : bitsAt w 94 26 = 0) (hcrc : bitsAt w 120 8 = crc8 0x07 0 (leBytes 15 w))
    (hc : c = { step := bitsAt w 16 40, layer := bitsAt w 56 16, phase := bitsAt w 72 4, sub := bitsAt w 76 12 }) :
    pinWord tb w s = meetMark tb n 0 x.pin c (if c = x.coord then x.markNo else x.markNo + 1) s := by
  subst hn hx hc
  exact if_pos ⟨hsync, hzero, hcrc⟩

/-! ### Copies of the active die's replica (R122) -/

theorem syncReplica_arrives {s z : State} {y : RingSync} {rest : List RingSync} {tb : Nat} (hr : s.ringSync = y :: rest)
    (htb : tb = 1 - s.refclk.active) (hruns : (!(s.timebases.getD tb {}).stopped) = true)
    (hw : (!(s.timebases.getD tb {}).awaits y) = true)
    (hz : z = { s with ringSync := rest, fired := s.fired.filter fun f =>
      f.issued || f.action.trigger.stream != y.stream || decide (0 < (f.markNo - y.replica.markNo).toInt) }) :
    syncReplica s = if (z.streamAt tb y.stream).agrees y.replica then z
      else (setStreamAt tb y.stream y.replica.follow z).bump Counter.replicaSync partWide := by
  subst htb hz
  unfold syncReplica
  simp only [hr]
  rw [if_neg (by simpa using hruns), if_neg (by simpa using hw)]

/-! ### Lost records (R126, Table 18.1) -/

/-- The records found lost are dealt with before the mark is taken (log 104). -/
theorem exec_stationMark_lost {tb : Nat} {lost : List (Nat × Nat)} (htb : tb < 2) (hl : lost.all (fun e => e.1 < 2 && e.2 < 64) = true)
    (s : State) : exec (.stationMark { tb := tb, lost := lost }) s = exec (.stationMark { tb := tb }) (loseRecordsOf lost s) := by
  rw [exec_stationMark htb]
  exact guardUnit_of_exists (by rw [decide_eq_true htb, hl]; rfl)

section
variable {s : State} (hruns : ∀ j, j < 2 → (!(s.timebases.getD j {}).stopped) = true)
include hruns

/-- With both dies running, the good record is the first that is not lost. -/
theorem find_goodRecord (bad : List Nat) :
    ((List.range 2).find? fun j => !(s.timebases.getD j {}).stopped && !(bad.contains j)) = (List.range 2).find? fun j => !(bad.contains j) :=
  List.find?_congr fun j hj => by rw [hruns j (List.mem_range.1 hj), Bool.true_and]

/-- A die whose record is lost takes the other's, which REPLICA_SYNC counts where the standby does it. -/
theorem loseReplica_one {tb : Nat} (n : Nat) (htb : tb < 2) :
    loseReplica n [tb] s = if 1 - tb = s.refclk.active
      then (setStreamAt tb n (fun _ => s.streamAt (1 - tb) n) s).bump Counter.replicaSync partWide
      else setStreamAt tb n (fun _ => s.streamAt (1 - tb) n) s := by
  unfold loseReplica
  simp only [find_goodRecord hruns]
  obtain rfl | rfl : tb = 0 ∨ tb = 1 := by omega
  · exact if_pos ⟨rfl, hruns 0 (by decide)⟩
  · exact if_pos ⟨rfl, hruns 1 (by decide)⟩

/-- With no good record left the stream returns to UNSET. -/
theorem loseReplica_both (n : Nat) : loseReplica n [0, 1] s = unsetStream n s := by
  have hsome : (!(s.timebases.getD 0 {}).stopped) = true := hruns 0 (by decide)
  unfold loseReplica
  simp only [find_goodRecord hruns]
  exact if_pos (List.any_eq_true.2 ⟨0, by decide, hsome⟩)

end

theorem unsetStream_started {s u : State} {n : Nat} (h : (s.stream n).state = .running ∨ (s.stream n).state = .hold)
    (hu : u = renewStream n (setStream n (fun x => { x with state := .unset, coord := {}, markNo := 0, intervals := [], marked := false }) s)) :
    unsetStream n s = forEach (u.boundGroups n) exitIfDeep (stationEvent n (u.stream n) u) := by
  subst hu
  exact if_neg fun hn => h.elim hn.1 hn.2

/-! ### The end of a stream's time (R126) -/

/-- A RUNNING stream enters HOLD on the die whose timer ends; the active die reports it for the part. -/
theorem stationTimeout_running {s u w : State} {tb n : Nat} {x : Stream} (htb : tb < 2) (hn : n < 64) (hx : x = s.streamAt tb n)
    (hruns : (!(s.timebases.getD tb {}).stopped) = true) (hs : x.state = .running)
    (hu : u = setStreamAt tb n (fun x => { x with state := .hold, timeouts := sat16 x.timeouts }) (s.reach (x.markAt + 1000 * x.timeoutUs)))
    (hw : w = yieldEvent x.parcel 5 3 4 n 0 0xFFFF (stationEvent n (u.streamAt tb n) u)) :
    exec (.stationTimeout tb n) s = .next (if tb ≠ s.refclk.active then u else forEach (w.boundGroups n) exitIfDeep w) := by
  subst hx hu hw
  refine (guardUnit_of_exists (by simp [htb, hn])).trans (congrArg _ ?_)
  exact if_neg (not_or.2 ⟨by simpa using hruns, not_not.2 hs⟩)

/-! ### O44 -/

/-- Settles O44: each clause is the lemma on the pin, the copy, the loss or the timer it speaks of. -/
theorem pinReplicaAndTimeoutComplete : Obligations.PinReplicaAndTimeoutComplete := by
  unfold Obligations.PinReplicaAndTimeoutComplete
  refine ⟨?word, ?good, ?confirm, ?copy, ?follow, ?lost, ?lose, ?unset, ?timeout⟩
  case word => exact fun s w => rfl
  case good => exact fun s tb w n x c hn hx hsync hzero hcrc hc => pinWord_good hn hx hsync hzero hcrc hc
  case confirm => exact fun s o => rfl
  case copy => exact fun s y rest tb z hr htb hruns hw hz => congrArg _ (syncReplica_arrives hr htb hruns hw hz)
  case follow => exact fun x y => ⟨rfl, rfl, rfl, rfl, rfl, rfl, rfl, rfl, rfl, rfl, rfl, rfl, rfl, rfl⟩
  case lost => exact fun s tb lost htb hl => exec_stationMark_lost htb hl s
  case lose => exact fun s n tb _ htb hruns => ⟨loseReplica_one hruns n htb, loseReplica_both hruns n⟩
  case unset => exact fun s n h => ⟨_, rfl, unsetStream_started h rfl⟩
  case timeout =>
    intro s tb n x u htb hn hx hruns hs hu
    rw [stationTimeout_running htb hn hx hruns hs hu rfl]
    exact ⟨fun ha => by rw [if_pos ha], fun ha => ⟨_, rfl, by rw [if_neg (not_not.2 ha)]⟩⟩

end Sys2Proof.Proofs
end

section
/-! Commands on ledger regions (R129-R140, R148, R160, R161, Table 15.5): what the verdict of each opcode makes of the region its handle
names, and O15, assembled from them. -/
namespace Sys2Proof.Proofs
open Sys2Proof.Machine Sys2Proof.Laws

theorem begun_regions (s : State) (c : Command) (a : Accepted) : (s.begun c a).regions = s.regions :=
  (congrArg State.regions (begun_unjournaled s c a) :)

theorem begun_serials (s : State) (c : Command) (a : Accepted) : (s.begun c a).serials = s.serials :=
  (congrArg State.serials (begun_unjournaled s c a) :)

/-- The flag that a row's form asks to be set. -/
theorem flag_set_of_form {d : Cmd} {o n : Nat} (h : decide (d.opcode = o ∧ d.flag n = true) = true) : d.flag n = true :=
  (of_decide_eq_true h).2

/-! ### What an accepted verdict does (Table 15.5) -/

section
variable {c : Cmd} {s : State} {a : Accepted} {x : Nat × Region} {xs : List Extent}

/-- R129, R131: a region is created in a slot no region has, with the slot's next serial. -/
theorem allocVerdict_creates (h : allocVerdict c s = .accept a) (hf : c.flag 32 = false) (h0 : c.arg 0 32 = 0)
    (hxs : allocExtents s ((regionOf c.buffer).needs s) = .inl xs) (n : Nat) (u : State) :
    a.effect n u = State.draw 1 { u with
      regions := tset s.freshSlot { regionOf c.buffer with serial := s.nextSerial s.freshSlot, extents := xs } u.regions
      serials := tset s.freshSlot (s.nextSerial s.freshSlot) u.serials } := by
  unfold allocVerdict at h
  dsimp only at h
  rw [if_neg (by simp [hf]), if_pos h0] at h
  cases (verdictOf_accept h).1
  simp only [hxs]

/-- R136: the tunable fields of a region take new values. -/
theorem allocVerdict_changes (h : allocVerdict c s = .accept a) (hf : c.flag 32 = false) (h0 : c.arg 0 32 ≠ 0) :
    ∃ x, s.regionAt (c.arg 0 32) = some x ∧
      ∀ n u, a.effect n u = takeRegion x.1 n (u.setRegion x.1 fun r => r.tuned (regionOf c.buffer)) := by
  unfold allocVerdict at h
  dsimp only at h
  rw [if_neg (by simp [hf]), if_neg h0] at h
  split at h
  · cases h
  next hx =>
    cases (verdictOf_accept h).1
    exact ⟨_, hx, fun _ _ => rfl⟩

theorem allocVerdict_frees (h : allocVerdict c s = .accept a) (hf : c.flag 32 = true) :
    ∃ x, s.regionAt (c.arg 0 32) = some x ∧
      ∀ n u, a.effect n u = freeExtents x.2.extents { u with regions := tdel x.1 u.regions } := by
  unfold allocVerdict at h
  dsimp only at h
  rw [if_pos hf] at h
  split at h
  · cases h
  next hx =>
    cases (verdictOf_accept h).1
    exact ⟨_, hx, fun _ _ => rfl⟩

/-- A load that is accepted names stripes its region has (Table 6.4). -/
theorem loadVerdict_runOk (h : loadVerdict c s = .accept a) (hx : s.regionAt (c.arg 0 32) = some x) :
    x.2.runOk (c.arg 32 2) (c.arg 64 28) (c.arg 96 28) = true := by
  unfold loadVerdict at h
  simp only [hx] at h
  have hrun := (verdictOf_accept h).2 (!x.2.runOk (c.arg 32 2) (c.arg 64 28) (c.arg 96 28), Status.badArg) (by simp)
  simpa using hrun

/-- R137: a load reserves new space for the lost stripes it names. -/
theorem loadVerdict_reserves (h : loadVerdict c s = .accept a) (hx : s.regionAt (c.arg 0 32) = some x)
    (hxs : allocExtents s (s.reloadNeeds x.2 (c.arg 32 2) (c.arg 64 28) (c.arg 96 28)) = .inl xs) (n : Nat) (u : State) :
    a.effect n u = takeRegion x.1 n (u.setRegion x.1 fun r => { r with extents := r.extents ++ xs }) := by
  have hrun := loadVerdict_runOk h hx
  unfold loadVerdict at h
  simp only [hx, hrun, if_true] at h
  cases (verdictOf_accept h).1
  simp only [hxs]

/-- R138, R163: a save of FP32 accumulators that were added to since the last one counts in the parcel's NONDET. -/
theorem saveVerdict_takes (h : saveVerdict c s = .accept a) :
    ∃ x, s.regionAt (c.arg 0 32) = some x ∧ ∀ n u, a.effect n u = takeRegion x.1 n
      (if c.arg 32 2 = 3 ∧ x.2.accType = 1 ∧ x.2.addedSinceSave then
        bumpNondet x.2.parcel (u.setRegion x.1 fun r => { r with addedSinceSave := false }) else u) := by
  unfold saveVerdict at h
  dsimp only at h
  split at h
  · cases h
  next hx =>
    cases (verdictOf_accept h).1
    refine ⟨_, hx, fun n u => ?_⟩
    simp only [Bool.and_eq_true, beq_iff_eq, and_assoc]

/-- R148: an APPLY holds the region until its effect ends; one with DISCARD drops the pending slot of its generation at once. -/
theorem applyVerdict_takes (h : applyVerdict c s = .accept a) (hf : c.flag 32 = false) :
    ∃ x, s.regionAt (c.arg 0 32) = some x ∧ ∀ n u, a.effect n u = takeRegion x.1 n u := by
  unfold applyVerdict at h
  dsimp only at h
  split at h
  · cases h
  next hx =>
    cases (verdictOf_accept h).1
    refine ⟨_, hx, fun n u => ?_⟩
    dsimp only
    split
    · exact if_neg (by simp [hf])
    · rfl

theorem applyVerdict_discards {k : Nat × Slot} (h : applyVerdict c s = .accept a) (hf : c.flag 32 = true)
    (hx : s.regionAt (c.arg 0 32) = some x) (hk : x.2.slotOf (c.word 64) = some k) (n : Nat) (u : State) :
    a.effect n u = (takeRegion x.1 n u).setRegion x.1 fun r => r.putSlot k.1 none := by
  unfold applyVerdict at h
  simp only [hx, hk] at h
  cases (verdictOf_accept h).1
  exact if_pos hf

/-- R160, R161: what EASEMENT_GRANT and its REVOKE have in common: the region's grantees change, and the command holds the region. -/
theorem easementVerdict_acts (h : easementVerdict c s = .accept a) :
    ∃ x, s.regionAt (c.arg 0 32) = some x ∧ ∀ n u, a.effect n u = takeRegion x.1 n (u.setRegion x.1 fun r =>
      { r with grantees := if c.flag 48 then r.grantees.filter (· ≠ c.arg 32 16)
                           else if r.grantees.contains (c.arg 32 16) then r.grantees else r.grantees ++ [c.arg 32 16] }) := by
  unfold easementVerdict at h
  dsimp only at h
  split at h
  · cases h
  next hx =>
    cases (verdictOf_accept h).1
    exact ⟨_, hx, fun _ _ => rfl⟩

end

/-! ### O15 -/

/-- Settles O15: each clause is what the opcode's verdict makes of the command, in the state that has journaled it. -/
theorem ledgerCommandsComplete : Obligations.LedgerCommandsComplete := by
  unfold Obligations.LedgerCommandsComplete
  refine ⟨?create, ?change, ?free, ?load, ?zero, ?save, ?apply, ?discard, ?grant, ?revoke⟩
  case create =>
    intro c s a xs h hxs
    obtain ⟨-, hflag, h0⟩ := of_decide_eq_true h.form
    refine runCommand_of_effect h ((allocVerdict_creates (Accepts.own h) (by simpa using hflag) h0 hxs _ _).trans ?_)
    rw [begun_regions, begun_serials]
  case change =>
    intro c s a h
    obtain ⟨-, hflag, h0⟩ := of_decide_eq_true h.form
    obtain ⟨x, hx, he⟩ := allocVerdict_changes (Accepts.own h) (by simpa using hflag) h0
    exact ⟨x, hx, runCommand_of_effect h (he _ _)⟩
  case free =>
    intro c s a h
    obtain ⟨x, hx, he⟩ := allocVerdict_frees (Accepts.own h) (flag_set_of_form h.form)
    exact ⟨x, hx, runCommand_of_effect h ((he _ _).trans (by rw [begun_regions]))⟩
  case load => exact fun c s a x xs h hx hxs => runCommand_of_effect h (loadVerdict_reserves (Accepts.own h) hx hxs _ _)
  case zero => exact fun c s a x xs h hx hxs => runCommand_of_effect h (loadVerdict_reserves (Accepts.own h) hx hxs _ _)
  case save =>
    rintro c s a u rfl h
    obtain ⟨x, hx, he⟩ := saveVerdict_takes (Accepts.own h)
    exact ⟨x, hx, runCommand_of_effect h (he _ _)⟩
  case apply =>
    intro c s a h
    obtain ⟨x, hx, he⟩ := applyVerdict_takes (Accepts.own h) (flag_clear_of_form h.form)
    exact ⟨x, hx, runCommand_of_effect h (he _ _)⟩
  case discard =>
    exact fun c s a x k h hx hk => runCommand_of_effect h (applyVerdict_discards (Accepts.own h) (flag_set_of_form h.form) hx hk _ _)
  case grant =>
    intro c s a h
    obtain ⟨x, hx, he⟩ := easementVerdict_acts (Accepts.own h)
    refine ⟨x, hx, runCommand_of_effect h ((he _ _).trans ?_)⟩
    simp only [flag_clear_of_form h.form, Bool.false_eq_true, if_false]
  case revoke =>
    intro c s a h
    obtain ⟨x, hx, he⟩ := easementVerdict_acts (Accepts.own h)
    refine ⟨x, hx, runCommand_of_effect h ((he _ _).trans ?_)⟩
    simp only [flag_set_of_form h.form, if_true]

end Sys2Proof.Proofs
end

section
/-! NORM_READ, SERVE_ARM and BASIS_LOAD (R153, R154, R159, R165, R180, R181): what the verdict of each makes of the command, and O16,
assembled from them. -/
namespace Sys2Proof.Proofs
open Sys2Proof.Machine Sys2Proof.Laws

/-! ### What an accepted verdict does (Tables 15.4, 15.5) -/

section
variable {c : Cmd} {s : State} {a : Accepted}

/-- R153: the local sum of the norm set's oldest slots enters the norm traverse's generation. -/
theorem normVerdict_contributes (h : normVerdict c s = .accept a) (hf : c.flag 0 = false) (n : Nat) (u : State) :
    a.effect n u = contributeNorm (c.arg 16 12) (c.word 32) (localNorm (s.normSet c.parcel (c.arg 4 4)))
      ((oldestSlots (s.normSet c.parcel (c.arg 4 4))).any (·.lostNorm)) u := by
  unfold normVerdict at h
  dsimp only at h
  split at h
  · cases h
  · rw [if_pos (by simp [hf])] at h
    cases (verdictOf_accept h).1
    rfl

/-- R154: a READ that is accepted has found chain 0 of the generation kept with its value, and frees it. -/
theorem normVerdict_reads (h : normVerdict c s = .accept a) (hf : c.flag 0 = true) :
    ∃ v k, s.traverse (c.arg 16 12) = some v ∧ v.kept.find? (fun e => e.1 = c.word 32 ∧ e.2.2.chain = 0 ∧ !s.fillFails e.2.2) = some k ∧
      ∀ n u, a.effect n u = dropKept (c.arg 16 12) (c.word 32) k.2.2 u := by
  unfold normVerdict at h
  dsimp only at h
  split at h
  · cases h
  next v hv =>
    rw [if_neg (by simp [hf])] at h
    split at h
    next g d acc hk =>
      cases (verdictOf_accept h).1
      exact ⟨v, _, hv, (Option.ite_none_right_eq_some.1 hk).2, fun _ _ => rfl⟩
    next => cases (verdictOf_accept h).1

/-- R159: an arming creates its PREFETCH action. -/
theorem serveVerdict_arms (h : serveVerdict c s = .accept a) (hf : c.flag 12 = false) (n : Nat) (u : State) :
    a.effect n u = addAction c.parcel c.trigger (.prefetch (c.arg 0 12) (c.arg 16 4) (c.flag 13) (c.arg 32 16)) u := by
  unfold serveVerdict at h
  dsimp only at h
  rw [if_neg (by simp [hf])] at h
  split at h
  · cases h
  · cases (verdictOf_accept h).1
    rfl

/-- R159: DISARM deletes the action of the ordinal it names. -/
theorem serveVerdict_disarms (h : serveVerdict c s = .accept a) (hf : c.flag 12 = true) (n : Nat) (u : State) :
    a.effect n u = dropAction (c.word 64) u := by
  unfold serveVerdict at h
  dsimp only at h
  rw [if_pos hf] at h
  split at h
  · cases h
  next e hfound =>
    have hordinal := List.find?_some hfound
    cases (verdictOf_accept h).1
    exact congrArg (dropAction · u) (of_decide_eq_true hordinal)

theorem basisVerdict_loads (h : basisVerdict c s = .accept a) (hf : c.flag 0 = false) (n : Nat) (u : State) :
    a.effect n u = startBasis c.parcel (c.arg 1 3) u := by
  unfold basisVerdict at h
  dsimp only at h
  rw [if_neg (by simp [hf])] at h
  cases (verdictOf_accept h).1
  rfl

theorem basisVerdict_binds (h : basisVerdict c s = .accept a) (hf : c.flag 0 = true) (n : Nat) (u : State) :
    a.effect n u = bind (c.arg 16 12) (c.arg 1 3) (c.flag 28) (c.flag 29) (c.word 32) u := by
  unfold basisVerdict at h
  dsimp only at h
  rw [if_pos hf] at h
  split at h
  · cases h
  · cases (verdictOf_accept h).1
    rfl

end

/-! ### O16 -/

/-- Settles O16: each clause is what the opcode's verdict makes of the command, in the state that has journaled it. -/
theorem normServeBasisCommandsComplete : Obligations.NormServeBasisCommandsComplete := by
  unfold Obligations.NormServeBasisCommandsComplete
  refine ⟨?contribute, ?read, ?arm, ?disarm, ?load, ?bind⟩
  case contribute =>
    exact fun c s a h => ⟨_, rfl, runCommand_of_effect h (normVerdict_contributes (Accepts.own h) (flag_clear_of_form h.form) _ _)⟩
  case read =>
    intro c s a h
    obtain ⟨v, k, hv, hk, he⟩ := normVerdict_reads (Accepts.own h) (flag_set_of_form h.form)
    exact ⟨v, k, hv, hk, runCommand_of_effect h (he _ _)⟩
  case arm => exact fun c s a h => runCommand_of_effect h (serveVerdict_arms (Accepts.own h) (flag_clear_of_form h.form) _ _)
  case disarm => exact fun c s a h => runCommand_of_effect h (serveVerdict_disarms (Accepts.own h) (flag_set_of_form h.form) _ _)
  case load => exact fun c s a h => runCommand_of_effect h (basisVerdict_loads (Accepts.own h) (flag_clear_of_form h.form) _ _)
  case bind => exact fun c s a h => runCommand_of_effect h (basisVerdict_binds (Accepts.own h) (flag_set_of_form h.form) _ _)

end Sys2Proof.Proofs
end

section
/-! Bytes of the stacks: a run of bytes reads back as written, and what a store to one stack leaves of every stack (R6, R268, R270). -/
namespace Sys2Proof.Proofs
open Sys2Proof.Machine Sys2Proof.Laws

/-! ### Bytes written, read back (R6) -/

/-- A string of `k` bytes holds a number mod 256^k. -/
theorem leNat_leBytes_mod (k n : Nat) : leNat (leBytes k n) = n % 2 ^ (8 * k) := by
  induction k generalizing n with
  | zero => simp [leBytes, leNat, Nat.mod_one]
  | succ k ih =>
    rw [leBytes, leNat, ih, BitVec.toNat_ofNat, show 8 * (k + 1) = 8 + 8 * k by omega, pow_add]
    exact (Nat.mod_mul ..).symm

/-- A read of bytes before every cell begins with a blank byte. -/
theorem run_below {m : List Host.Cell} {a : Nat} (h : ∀ c ∈ m, a < c.1) (n : Nat) :
    Memory.run a (n + 1) m = Memory.blank :: Memory.run (a + 1) n m := by
  cases m with
  | nil => rfl
  | cons c r => exact if_neg (h c (List.mem_cons_self ..)).ne'

theorem run_cells (bs : Bytes) (a : Nat) : Memory.run a bs.length (Memory.cells a bs) = bs := by
  induction bs generalizing a with
  | nil => rfl
  | cons b bs ih =>
    rw [List.length_cons]
    unfold Memory.cells
    split
    next hb => rw [run_below (fun c hc => (cells_range bs _ c hc).1), ih, hb]
    next => exact (if_pos rfl).trans (congrArg _ (ih _))

/-- The cells of a memory just written that stand in the range of the write are those of the bytes written. -/
theorem filter_write_range (m : List Host.Cell) (a : Nat) (bs : Bytes) :
    (Memory.write a bs m).filter (fun c => a ≤ c.1 ∧ c.1 < a + bs.length) = Memory.cells a bs := by
  have hbelow : (m.filter fun c => c.1 < a).filter (fun c => a ≤ c.1 ∧ c.1 < a + bs.length) = [] := by
    simp [List.filter_eq_nil_iff]; omega
  have habove : (m.filter fun c => a + bs.length ≤ c.1).filter (fun c => a ≤ c.1 ∧ c.1 < a + bs.length) = [] := by
    simp [List.filter_eq_nil_iff]
  have hcells : (Memory.cells a bs).filter (fun c => a ≤ c.1 ∧ c.1 < a + bs.length) = Memory.cells a bs :=
    List.filter_eq_self.2 fun c hc => decide_eq_true (cells_range bs a c hc)
  rw [Memory.write, List.filter_append, List.filter_append, hbelow, hcells, habove, List.nil_append, List.append_nil]

theorem readBytes_write_same (m : List Host.Cell) (a : Nat) (bs : Bytes) : Memory.readBytes (Memory.write a bs m) a bs.length = bs := by
  rw [Memory.readBytes, filter_write_range, run_cells]

/-! ### One stack changed -/

@[simp] theorem touchChecks_mem (first count : Nat) (dirty : Bool) (h : Hbm) : (touchChecks first count dirty h).mem = h.mem := rfl

theorem stack_setStack {p : Nat} {s : State} (hp : p < s.hbmStacks.length) (f : Hbm → Hbm) : (s.setStack p f).stack p = f (s.stack p) :=
  (getD_lmap hp).trans (if_pos rfl)

/-- A stack after a change of one of them is as it was, or it is the one changed. -/
theorem stack_setStack_cases (p i : Nat) (f : Hbm → Hbm) (s : State) :
    (s.setStack p f).stack i = s.stack i ∨ p = i ∧ (s.setStack p f).stack i = f (s.stack i) := by
  by_cases hp : p < s.hbmStacks.length
  · by_cases hi : p = i
    · subst hi; exact .inr ⟨rfl, stack_setStack hp f⟩
    · exact .inl ((getD_lmap hp).trans (if_neg (Ne.symm hi)))
  · exact .inl (congrArg (·.getD i {}) (List.modify_eq_self (Nat.le_of_not_lt hp)))

/-- A byte reads as it did after a change of one stack that leaves it. -/
theorem read_setStack {p i x : Nat} {f : Hbm → Hbm} {s : State}
    (hf : p = i → ∀ h : Hbm, Memory.read (f h).mem x = Memory.read h.mem x) :
    Memory.read ((s.setStack p f).stack i).mem x = Memory.read (s.stack i).mem x := by
  rcases stack_setStack_cases p i f s with h | ⟨hi, h⟩ <;> rw [h]
  exact hf hi _

/-! ### A sector stored (R268) -/

theorem read_storeSector_other {p addr i x : Nat} {bs : Bytes} (s : State) (h : p ≠ i ∨ x < addr ∨ addr + bs.length ≤ x) :
    Memory.read ((storeSector p addr bs s).stack i).mem x = Memory.read (s.stack i).mem x :=
  read_setStack fun hp _ => Memory.read_write_other (h.resolve_left (not_not.2 hp))

theorem readBytes_storeSector_same {p n : Nat} {s : State} (hp : p < s.hbmStacks.length) (addr : Nat) {bs : Bytes} (hn : bs.length = n) :
    Memory.readBytes ((storeSector p addr bs s).stack p).mem addr n = bs := by
  subst hn
  rw [storeSector, stack_setStack hp, touchChecks_mem, readBytes_write_same]

/-! ### Stores where no line is in error (R268, R270) -/

/-- No symbol of any stack reads wrong, and no pseudo-channel is silent. -/
def errorFree (s : State) : Prop := ∀ j, (s.stack j).errors = [] ∧ (s.stack j).deaf = []

/-- What stores to other bytes keep from one state to another: the dies, that no line is in error, and one byte of a stack. -/
structure Spares (i x : Nat) (s t : State) : Prop where
  dies : t.dies = s.dies
  clean : errorFree t
  byte : Memory.read (t.stack i).mem x = Memory.read (s.stack i).mem x

section
variable {i x : Nat} {s t : State}

theorem Spares.refl (h : errorFree s) : Spares i x s s := ⟨rfl, h, rfl⟩

theorem Spares.setStack {p : Nat} {f : Hbm → Hbm} (h : Spares i x s t)
    (hf : ∀ b : Hbm, b.errors = [] → b.deaf = [] → (f b).errors = [] ∧ (f b).deaf = [])
    (hx : p = i → ∀ b : Hbm, Memory.read (f b).mem x = Memory.read b.mem x) : Spares i x s (t.setStack p f) := by
  refine ⟨h.dies, fun j => ?_, (read_setStack hx).trans h.byte⟩
  obtain ⟨herrors, hdeaf⟩ := h.clean j
  rcases stack_setStack_cases p j f t with hj | ⟨-, hj⟩ <;> rw [hj]
  · exact ⟨herrors, hdeaf⟩
  · exact hf _ herrors hdeaf

theorem Spares.forEach {α : Type} {f : α → State → State} (xs : List α) (h : Spares i x s t)
    (hf : ∀ e ∈ xs, ∀ u, Spares i x s u → Spares i x s (f e u)) : Spares i x s (forEach xs f t) :=
  List.foldlRecOn xs _ h fun u hu e he => hf e he u hu

/-- With no line in error the decode of a copy's lines finds nothing: only the check cache changes. -/
theorem Spares.decodeCopy (h : Spares i x s t) (slot a stripe copy lo n : Nat) :
    Spares i x s (decodeCopy slot a stripe copy lo n t) := by
  unfold Machine.decodeCopy
  split
  · exact h
  · dsimp only
    split
    · exact h
    next l _ _ =>
      obtain ⟨herrors, hdeaf⟩ := h.clean l.1
      rw [if_pos (by simp [herrors, hdeaf])]
      exact h.setStack (fun _ he hd => ⟨he, hd⟩) fun _ _ => rfl

theorem Spares.storeBytes {p addr : Nat} {bs : Bytes} (h : Spares i x s t) (hx : p ≠ i ∨ x < addr ∨ addr + bs.length ≤ x) :
    Spares i x s (storeBytes p addr bs t) := by
  refine h.setStack (fun b he hd => ?clean) fun hp b => ?byte
  case clean =>
    dsimp only
    split
    · exact ⟨he, hd⟩
    · exact ⟨by simp only [touchChecks, he, List.filter_nil], hd⟩
  case byte =>
    dsimp only
    split
    · rfl
    · exact Memory.read_write_other (hx.resolve_left (not_not.2 hp))

end

/-- Where a stripe lies follows from the region and from which dies work. -/
theorem locate_of_dies {s t : State} (h : t.dies = s.dies) : t.locate = s.locate := by
  have hfailed : t.pairFailed = s.pairFailed := funext fun j => by rw [State.pairFailed, State.die, h]; rfl
  funext r a stripe copy
  unfold State.locate
  rw [hfailed]

/-- R131, R133, R270: a store to a stripe spares every byte outside its range in each copy. -/
theorem writeStripe_spares {s : State} {slot : Nat} {r : Region} {a st lo i x : Nat} {bs : Bytes} (hs : errorFree s)
    (hx : ∀ c ∈ s.copiesOf r a st, ∀ p, s.locate r a st c = some p → p.1 ≠ i ∨ x < p.2 + lo ∨ p.2 + lo + bs.length ≤ x) :
    Spares i x s (writeStripe slot r a st lo bs s) := by
  refine (Spares.refl hs).forEach _ fun c hc t ht => ?_
  dsimp only
  rw [locate_of_dies ht.dies]
  split
  next p hp => exact ((ht.decodeCopy ..).decodeCopy ..).storeBytes (hx c hc p hp)
  next => exact ht

end Sys2Proof.Proofs
end

section
/-! SCATTER frames at a ledger die (R162, R275-R278, R381): what the die makes of a frame it has taken, one add to one element, and O49,
assembled from them. -/
namespace Sys2Proof.Proofs
open Sys2Proof.Machine Sys2Proof.Laws

/-! ### The row (R276, R278) -/

/-- What a die makes of a SCATTER frame that reached it whole: discarded and counted, its lost sectors dealt with, or added (R276, R277). -/
def scatterWhole (die : Nat) (rx : Rx) (u : State) : State :=
  (scatterCheck u rx.frame).elim (u.bump 0x59 die) fun (slot, r, es) =>
    if es.any fun e => u.sectorLost r rx.frame.stripe e.1 (r.bits 3 / 8) then loseSectors die slot rx.frame.stripe r es u
    else
      let v := forEach es (addOne rx.frame.stripe rx.frame.vfmt r) u
      if r.accType = 1 then v.setRegion slot fun r => { r with addedSinceSave := true } else v

section
variable {s u : State} {die : Nat} {rx : Rx}

theorem exec_scatterAdd_waits (hdie : die < 30) (hhead : headOf die (fun f => f.type == 11) s = some rx)
    (hwaits : s.addWaits rx.frame = true) : exec (.scatterAdd die) s = .next s := by
  refine (guardUnit_of_exists (decide_eq_true hdie)).trans (congrArg _ ?_)
  simp only [hhead, hwaits, if_true]

/-- A tainted frame, or one whose CRC is wrong, is taken and no more (R110). -/
theorem exec_scatterAdd_takes (hdie : die < 30) (hruns : s.running (groupOfDie die) = true)
    (hhead : headOf die (fun f => f.type == 11) s = some rx) (hwaits : (!s.addWaits rx.frame) = true) (hu : u = s.received die rx) :
    exec (.scatterAdd die) s = .next (if rx.frame.taint = true ∨ (!Frame.crcOk rx.frame) = true then u else scatterWhole die rx u) := by
  subst hu
  refine (guardUnit_of_exists (decide_eq_true hdie)).trans (congrArg _ ?_)
  simp only [hhead]
  rw [if_neg (by simpa using hwaits), onDie_of_running hruns]
  refine if_congr Iff.rfl rfl ?_
  change _ = (scatterCheck (takeHead die rx _) rx.frame).elim _ _
  cases scatterCheck (takeHead die rx _) rx.frame <;> rfl

theorem scatterWhole_refuses (h : scatterCheck u rx.frame = none) : scatterWhole die rx u = u.bump 0x59 die := by
  rw [scatterWhole, h]
  rfl

variable {slot : Nat} {r : Region} {es : List (Nat × Nat)} (hcheck : scatterCheck u rx.frame = some (slot, r, es))
include hcheck

theorem scatterWhole_loses (hlost : ∃ e ∈ es, u.sectorLost r rx.frame.stripe e.1 (r.bits 3 / 8) = true) :
    scatterWhole die rx u = loseSectors die slot rx.frame.stripe r es u := by
  rw [scatterWhole, hcheck]
  exact if_pos (List.any_eq_true.2 hlost)

theorem scatterWhole_adds (hgood : ∀ e ∈ es, (!u.sectorLost r rx.frame.stripe e.1 (r.bits 3 / 8)) = true) {v : State}
    (hv : v = forEach es (addOne rx.frame.stripe rx.frame.vfmt r) u) :
    scatterWhole die rx u = if r.accType = 1 then v.setRegion slot fun r => { r with addedSinceSave := true } else v := by
  subst hv
  rw [scatterWhole, hcheck]
  exact if_neg (by simpa using hgood)

end

/-! ### One add (R277) -/

theorem addOne_of_locate {s : State} {stripe : Nat} {r : Region} {p : Nat × Nat} (hp : s.locate r 3 stripe 0 = some p) (vfmt : Nat)
    (e : Nat × Nat) : addOne stripe vfmt r e s = storeSector p.1 (p.2 + e.1 * (r.bits 3 / 8)) (leBytes (r.bits 3 / 8)
      (scatterAdd r vfmt e.2 (leNat (Memory.readBytes (s.stack p.1).mem (p.2 + e.1 * (r.bits 3 / 8)) (r.bits 3 / 8))))) s := by
  simp only [addOne, hp]

/-- An add leaves in its element the old encoding with the value added, in the element's width. -/
theorem addOne_element {s : State} {stripe : Nat} {r : Region} {p : Nat × Nat} (hp : s.locate r 3 stripe 0 = some p)
    (hlen : p.1 < s.hbmStacks.length) (vfmt : Nat) (e : Nat × Nat) :
    leNat (Memory.readBytes ((addOne stripe vfmt r e s).stack p.1).mem (p.2 + e.1 * (r.bits 3 / 8)) (r.bits 3 / 8)) =
      scatterAdd r vfmt e.2 (leNat (Memory.readBytes (s.stack p.1).mem (p.2 + e.1 * (r.bits 3 / 8)) (r.bits 3 / 8))) %
        2 ^ (8 * (r.bits 3 / 8)) := by
  rw [addOne_of_locate hp, readBytes_storeSector_same hlen _ (length_leBytes ..), leNat_leBytes_mod]

/-! ### O49 -/

/-- Settles O49: a taken frame by the case it falls under, an add as one sector stored, a store to a stripe as one that spares other bytes. -/
theorem scatterAddsComplete : Obligations.ScatterAddsComplete := by
  unfold Obligations.ScatterAddsComplete
  refine ⟨?taken, ?waits, ?add, ?store⟩
  case taken =>
    intro s die rx u hdie hruns hhead hwaits hu
    rw [exec_scatterAdd_takes hdie hruns hhead hwaits hu]
    have hwhole (ht : (!rx.frame.taint) = true) (hc : Frame.crcOk rx.frame = true) :
        ¬ (rx.frame.taint = true ∨ (!Frame.crcOk rx.frame) = true) := by simpa [hc] using ht
    refine ⟨fun h => ?bad, fun ht hc hcheck => ?refused, fun slot r es ht hc hcheck hlost => ?lost,
      fun slot r es v ht hc hcheck hgood hv => ?added⟩
    case bad => rw [if_pos h]
    case refused => rw [if_neg (hwhole ht hc), scatterWhole_refuses hcheck]
    case lost => rw [if_neg (hwhole ht hc), scatterWhole_loses hcheck hlost]
    case added => rw [if_neg (hwhole ht hc), scatterWhole_adds hcheck hgood hv]
  case waits => exact fun s die rx hdie hhead hwaits => exec_scatterAdd_waits hdie hhead hwaits
  case add =>
    rintro s stripe vfmt r e i x size p hp rfl hlen
    refine ⟨fun h => ?_, addOne_element hp hlen vfmt e⟩
    rw [addOne_of_locate hp]
    exact read_storeSector_other s (by rwa [length_leBytes])
  case store => exact fun s slot r a st lo bs i x hclean hx => (writeStripe_spares hclean hx).byte

end Sys2Proof.Proofs
end

section
/-! Credits a port returns to its neighbour (R230, R239): what decides whether they are held back, the return at once, and the return in turn. -/
namespace Sys2Proof.Proofs
open Sys2Proof.Machine Sys2Proof.Laws

section
variable {s : State} {p vc n : Nat}

/-! ### The gap between two credits (R239) -/

/-- What holds credits back lies outside the links. -/
@[simp] theorem returnGap_setLink (q : Nat) (f : Link → Link) (s : State) : (s.setLink q f).returnGap p vc = s.returnGap p vc := rfl

/-- R239: the charge of the head frame's outputs against THROTTLE sets the gap of an endpoint's port. -/
theorem injectionGap_endpoint {m throttle : Nat} (hmark : markAt vc = some (m, throttle)) (hp : s.endpointPort p = true) :
    s.injectionGap p vc = if 2 * throttle ≤ s.headCharge p vc then 8 else if throttle ≤ s.headCharge p vc then 2 else 0 := by
  unfold State.injectionGap
  simp only [hmark, hp, Bool.not_true, Bool.false_eq_true, if_false, ge_iff_le]

/-! ### Credits as they fall due (R230) -/

theorem link_setLink (hp : p < s.links.length) (f : Link → Link) : (s.setLink p f).link p = f (s.link p) :=
  (getD_lmap hp).trans (if_pos rfl)

/-- Credits that join the held ones of a VC. -/
def owing (vc n : Nat) (l : Link) : Link := { l with owed := l.owed.modify vc (· + n) }

/-- Credits that join none held and are released at once only raise CREDIT_TOTAL. -/
theorem release_owing {l : Link} (hvc : vc < l.owed.length) (hnone : l.owed.getD vc 0 = 0) :
    Link.release vc ((owing vc n l).owed.getD vc 0) (owing vc n l) = { l with creditOut := l.creditOut.modify vc (· + n) } := by
  have howed : (owing vc n l).owed.getD vc 0 = n := (getD_lmap hvc).trans (by rw [if_pos rfl, hnone, Nat.zero_add])
  have hback : (fun k => k - n) ∘ (fun k => k + n) = id := funext fun k => Nat.add_sub_cancel k n
  rw [howed, Link.release, owing, List.modify_modify_eq, hback, List.modify_id]

theorem returnCredits_external (hp : p < 128) : returnCredits p vc n s =
    if s.xbar.threeSlice ∨ s.returnGap p vc ≠ 0 then s.setLink p (owing vc n)
    else (s.setLink p (owing vc n)).setLink p fun l => l.release vc (l.owed.getD vc 0) := by
  rw [← returnGap_setLink p (owing vc n), ← setLink_xbar (s := s) (p := p) (f := owing vc n)]
  exact if_pos hp

theorem returnCredits_atOnce (hp : p < 128) (hl : p < s.links.length) (hvc : vc < (s.link p).owed.length) (hnone : (s.link p).owed.getD vc 0 = 0)
    (hthree : s.xbar.threeSlice = false) (hgap : s.returnGap p vc = 0) :
    (returnCredits p vc n s).link p = { s.link p with creditOut := (s.link p).creditOut.modify vc (· + n) } := by
  have hlen : p < (s.setLink p (owing vc n)).links.length := by rwa [setLink_links, lmap_length]
  rw [returnCredits_external hp, if_neg (by simp [hthree, hgap]), link_setLink hlen, link_setLink hl, release_owing hvc hnone]

theorem returnCredits_held (hp : p < 128) (hl : p < s.links.length) (hgap : s.returnGap p vc ≠ 0) :
    (returnCredits p vc n s).link p = { s.link p with owed := (s.link p).owed.modify vc (· + n) } := by
  rw [returnCredits_external hp, if_pos (Or.inr hgap), link_setLink hl, owing]

/-! ### Held credits in their turn (R239) -/

theorem returnTurn_limited (howed : (s.link p).owed.getD vc 0 ≠ 0) (hgap : s.returnGap p vc ≠ 0) :
    returnTurn n p vc s = if n < (s.link p).returnAt.getD vc 0 then s
      else s.setLink p fun l => { l.release vc 1 with returnAt := (s.link p).returnAt.set vc (n + s.returnGap p vc) } := by
  have hmax : max 1 (s.returnGap p vc) = s.returnGap p vc := Nat.max_eq_right (Nat.one_le_iff_ne_zero.2 hgap)
  unfold returnTurn
  dsimp only
  rw [if_neg howed, if_neg fun h => hgap h.1, hmax]
  exact congrArg _ (setLink_congr rfl)

end

end Sys2Proof.Proofs
end

section
/-! Cell slots and outputs of the crossbar (R203-R206, R209, R212, R240, R289, R291): the rows, and O53, assembled from them and from the return
of credits. -/
namespace Sys2Proof.Proofs
open Sys2Proof.Machine Sys2Proof.Laws

/-! ### Cell slots (R203-R205, R289) -/

theorem exec_allocRetry_works {s : State} {i vc : Nat} (hi : i < 159) (hvc : vc < 8) (h : s.xbar.stopped = false) :
    exec (.allocRetry i vc) s = .next (askCells i vc s) := by
  refine (guardUnit_of_exists (by simpa using ⟨hi, hvc⟩)).trans (congrArg _ ?_)
  rw [if_neg (by simp [h])]

theorem exec_cellSlot_stopped {s : State} (h : s.xbar.stopped = true) : exec .cellSlot s = .next (sendRows s) :=
  congrArg (fun t => Host.Outcome.next (sendRows t)) (if_pos h)

theorem exec_cellSlot_works {s : State} (h : s.xbar.stopped = false) (hrun : s.running groupX = true) :
    exec .cellSlot s = .next (sendRows (crossbarSlot (s.setGroup groupX fun x => { x with workAt := s.clock }))) := by
  rw [← onGroup_of_running hrun crossbarSlot]
  exact congrArg (fun t => Host.Outcome.next (sendRows t)) (if_neg (by simp [h]))

/-- R204, R205, R232, R289, R291: a slot in its order, from the groups it wakes (`v`) over the standing matches (`a`) and the two rounds (`b`, `c`)
to the cells it frees. -/
theorem crossbarSlot_of_matches {u v : State} {a : SlotUse × State} {b c : Matching}
    (hv : v = forEach (u.busyInputs.map groupOfXport).eraseDups wakeGroup u) (ha : a = standing u.xbar.threeSlice u.xbar.slots {} v)
    (hb : b = matchOnce u.xbar.threeSlice u.xbar.slots true (a.2.requests, a.1, a.2))
    (hc : c = matchOnce u.xbar.threeSlice u.xbar.slots false b) :
    crossbarSlot u = (returnSlot u.xbar.slots (allocSlot c.2.2)).setXbar fun x => settleFreed { x with slots := u.xbar.slots + 1 } := by
  subst hv ha hb hc
  rfl

/-! ### Outputs (R206, R209, R212, R240) -/

section
variable {s : State} {o : Nat} {r : FrameRec}

theorem exec_outputFrameStart_begins {q : Nat} {x : Xbar} {d : Desc} (ho : o < 159) (hidle : (s.xbar.output o).sending = none)
    (h : s.xbar.stopped = false) (hq : chooseQueue s o = some (q, x)) (hd : (s.xbar.queue q).descs.head? = some d)
    (hr : s.xbar.record d.record = some r) (hrun : s.running (groupOfXport o) = true) :
    exec (.outputFrameStart o) s =
      .next (beginCopy o q d r { s.setGroup (groupOfXport o) fun x => { x with workAt := s.clock } with xbar := x }) := by
  refine (guardUnit_of_exists (decide_eq_true ho)).trans (congrArg _ ?_)
  rw [if_neg (by simp [hidle, h])]
  simp only [hq, hd, hr]
  exact onGroup_of_running hrun _

variable {sd : Sending} (ho : o < 159) (hs : (s.xbar.output o).sending = some sd) (hr : s.xbar.record sd.desc.record = some r)
  (hwhole : r.cells ≤ r.written)
include ho hs hr hwhole

theorem exec_outputFrameEnd_read : exec (.outputFrameEnd o none) s = .next (settleBroadcasts (finishCopy o sd r s)) := by
  refine (guardUnit_of_exists (Bool.and_eq_true_iff.2 ⟨decide_eq_true ho, rfl⟩)).trans (congrArg _ ?_)
  simp only [hs, hr]
  rw [if_neg (Nat.not_lt.2 hwhole), Option.getD_some]

theorem exec_outputFrameEnd_unread {k : Nat} (hk : k < 4) : exec (.outputFrameEnd o (some k)) s =
    .next (settleBroadcasts (finishCopy o ((((cellError o k sd s).xbar.output o).sending).getD sd) r (cellError o k sd s))) := by
  refine (guardUnit_of_exists (by simpa using ⟨ho, hk⟩)).trans (congrArg _ ?_)
  simp only [hs, hr]
  rw [if_neg (Nat.not_lt.2 hwhole)]

end

/-! ### O53 -/

/-- Settles O53: each clause is the lemma on its row, or on the return of credits. -/
theorem cellsAndOutputsComplete : Obligations.CellsAndOutputsComplete := by
  unfold Obligations.CellsAndOutputsComplete
  refine ⟨?alloc, ?slot, ?stopped, ?credits, ?turn, ?gap, ?begin, ?finish⟩
  case alloc => exact fun s i vc hi hvc h => exec_allocRetry_works hi hvc (by simpa using h)
  case slot =>
    intro s u v a b c h hrun hu hv ha hb hc
    rw [exec_cellSlot_works (by simpa using h) hrun, ← hu, crossbarSlot_of_matches hv ha hb hc]
  case stopped => exact fun s h => exec_cellSlot_stopped h
  case credits =>
    exact fun s p vc n hp hl hvc hnone hthree =>
      ⟨returnCredits_atOnce hp hl hvc hnone (by simpa using hthree), returnCredits_held hp hl⟩
  case turn =>
    intro s n p vc howed hgap
    rw [returnTurn_limited howed hgap]
    exact ⟨fun hearly => if_pos hearly, fun hdue => if_neg (Nat.not_lt.2 hdue)⟩
  case gap => exact fun s p vc m th hmark hp => injectionGap_endpoint hmark hp
  case begin =>
    intro s o q x d r u ho hidle h hq hd hr hrun hu
    subst hu
    exact exec_outputFrameStart_begins ho hidle (by simpa using h) hq hd hr hrun
  case finish =>
    exact fun s o sd r ho hs hr hwhole =>
      ⟨exec_outputFrameEnd_read ho hs hr hwhole, fun k hk => exec_outputFrameEnd_unread ho hs hr hwhole hk⟩

end Sys2Proof.Proofs
end

section
/-! Timers of the switch core (R223, R225, R234, R235, R244, R330): epochs, spray joins, age drops, thresholds and telemetry, and O54, assembled
from them. -/
namespace Sys2Proof.Proofs
open Sys2Proof.Machine Sys2Proof.Laws

section
variable {s : State}

/-! ### Epochs, joins and ages (R223, R234, R244) -/

theorem exec_epochDrained_empty (hordered : s.routes.prevOrdered = 0) (hother : s.routes.prevOther = 0) :
    exec .epochDrained s = .next { s with routes := { s.routes with previous := [] } } := by
  change Host.Outcome.next (s.setRoutes _) = _
  rw [State.setRoutes, if_pos ⟨hordered, hother⟩]

theorem exec_sprayJoin_clear {p : Nat} {ahead : List (Nat × Desc)} (hp : p < 128) (hj : tget p s.xbar.joining = some ahead)
    (hclear : ∀ e ∈ ahead, s.descWaits e = false) :
    exec (.sprayJoin p) s = .next { s with xbar := { s.xbar with joining := tdel p s.xbar.joining } } := by
  refine (guardUnit_of_exists (decide_eq_true hp)).trans (congrArg _ ?_)
  simp only [hj]
  exact if_neg (by simpa using hclear)

theorem exec_descriptorAgeDrop_head {q : Nat} {d : Desc} {rest : List Desc} {u : State} (hq : q < 262144)
    (hd : (s.xbar.queue q).descs = d :: rest)
    (hu : u = (s.reach (d.at_ + 10000000)).setXbar fun x =>
      x.setQueue q { descs := rest, deficit := if rest = [] then 0 else (x.queue q).deficit }) :
    exec (.descriptorAgeDrop q) s = .next (settleBroadcasts (releaseRef d.record (u.bump Counter.ageDrop (queuePort q)))) := by
  subst hu
  refine (guardUnit_of_exists (decide_eq_true (Nat.lt_add_right _ hq))).trans (congrArg _ ?_)
  simp only [hd, if_neg (Nat.not_le.2 hq), List.isEmpty_iff]

/-! ### Thresholds (R235) -/

/-- The outputs that have queues, in rising number, each with its weight. -/
def outputWeights (u : State) : List (Nat × Nat) :=
  ((u.xbar.queues.map fun e => queuePort e.1).eraseDups.mergeSort).map fun o => (o, outputWeight u o)

theorem mem_newThresholds {u : State} {all o t : Nat} (hall : all = ((outputWeights u).map (·.2)).foldl (· + ·) 0)
    (h : (o, t) ∈ newThresholds u) : t = 4096 + u.xbar.freeCells * outputWeight u o / (2 * all) := by
  rw [List.foldl_map] at hall
  obtain ⟨e, he, hsome⟩ := List.mem_filterMap.1 h
  obtain ⟨o', -, rfl⟩ := List.mem_map.1 he
  split at hsome
  · cases hsome
  · cases hsome
    rw [hall]
    rfl

/-! ### Telemetry (R225) -/

/-- The frames of one subtype that a period sends: the records in frames of 256 at most, none for no record. -/
def sendRecords (sub : Nat) (records : List Bytes) (s : State) : State :=
  forEach (chunks 256 (records.length / 256 + 1) records) (fun r s => if r.isEmpty then s else sendTelemetry sub r s) s

theorem exec_telemetryPeriod_sends {u v : State} (hperiod : s.monitor.periodUs ≠ 0) (hroutes : s.routes.committed = true)
    (hmd : s.mailbox.failed = false) (hcore : s.isHalted 0x80 3 = false) (hu : u = s.reach (s.monitor.lastAt + 1000 * s.monitor.periodUs))
    (hv : v = sendRecords 2 (eventRecords u) (sendRecords 1 (counterRecords u) u)) :
    exec .telemetryPeriod s = .next { v with monitor := { v.monitor with lastAt := v.clock } } := by
  subst hu hv
  exact congrArg _ (if_neg (by simp [hperiod, hroutes, hmd, hcore]))

end

/-! ### O54 -/

/-- Settles O54: each clause is the lemma on its timer. -/
theorem switchTimersComplete : Obligations.SwitchTimersComplete := by
  unfold Obligations.SwitchTimersComplete
  refine ⟨?epoch, ?join, ?age, ?thresholds, ?telemetry⟩
  case epoch => exact fun s hordered hother => exec_epochDrained_empty hordered hother
  case join => exact fun s p ahead hp hj hclear => exec_sprayJoin_clear hp hj (by simpa using hclear)
  case age => exact fun s q d rest u hq hd hu => exec_descriptorAgeDrop_head hq hd hu
  case thresholds =>
    rintro s u rfl
    refine ⟨rfl, fun all hall _ o t h => mem_newThresholds (hall.trans ?_) h⟩
    rw [outputWeights, List.map_map]
    rfl
  case telemetry =>
    exact fun s u hperiod hroutes hmd hcore hu =>
      ⟨_, rfl, exec_telemetryPeriod_sends hperiod hroutes (by simpa using hmd) (by simpa using hcore) hu rfl⟩

end Sys2Proof.Proofs
end

section
/-! Ports and links as their events leave them (R238, R258-R260): the state of a port after an update, what starts again where a port leaves UP,
and O39, assembled from the rows. -/
namespace Sys2Proof.Proofs
open Sys2Proof.Machine Sys2Proof.Laws

/-! ### A counter raised to its limit, and one port -/

theorem counter_counterSet_same (number inst v : Nat) (s : State) :
    State.counter { s with counters := counterSet number inst v s.counters } number inst = v := by
  unfold State.counter counterSet
  dsimp only
  by_cases hv : v = 0
  · rw [if_pos hv, List.find?_eq_none.2 fun e he => by simpa using (List.mem_filter.1 he).2, hv]
    rfl
  · simp [hv]

theorem counter_bumpPort_same (number inst : Nat) (s : State) :
    (bumpPort number inst s).counter number inst = min 65535 (s.counter number inst + 1) := counter_counterSet_same ..

theorem port_setPort {s : State} {p : Nat} (hp : p < s.ports.length) (f : Port → Port) : (s.setPort p f).port p = f (s.port p) :=
  (getD_lmap hp).trans (if_pos rfl)

theorem setPort_missing {s : State} {p : Nat} (hp : s.ports.length ≤ p) (f : Port → Port) : s.setPort p f = s := by
  rw [State.setPort, lmap, List.modify_eq_self hp]

/-- An update that leaves the state of a port leaves whether it is UP. -/
theorem portUp_setPort {s : State} {p : Nat} {f : Port → Port} (hf : ∀ x, (f x).state = x.state) : (s.setPort p f).portUp p = s.portUp p := by
  by_cases hp : p < s.ports.length
  · rw [State.portUp, port_setPort hp, hf, State.portUp]
  · rw [setPort_missing (Nat.not_lt.1 hp)]

/-! ### A port that leaves UP (R252, R259, R260) -/

/-- The part where port `p` has left UP and nothing is yet flushed: LINK_DOWN counts it, and port and link start anew in step 1. -/
def restartPort (p : Nat) (s : State) : State :=
  (enterIdle p (bumpPort Counter.linkDown p s)).setLink p fun l => { l with goingIdleRows := 0 }

/-- What a port was receiving enters the part as its truncated frame, where there is one (R260). -/
def endReceived (p : Nat) (cut : Option Frame) (s : State) : State :=
  cut.elim s fun f => admitFrame p true f (bumpPort Counter.truncErr p s)

section
variable {s : State} {p : Nat}

theorem portDown_of_down (h : s.portUp p = false) : portDown p false s = s := by
  rw [portDown, leaveUp, if_pos (by simp [h])]

/-- An event that leaves the state of a port takes it down where it was UP. -/
theorem portDown_setPort {f : Port → Port} (hf : ∀ x, (f x).state = x.state) :
    portDown p false (s.setPort p f) = if s.portUp p then portDown p false (s.setPort p f) else s.setPort p f := by
  by_cases h : s.portUp p = true
  · rw [if_pos h]
  · rw [if_neg h, portDown_of_down (by rw [portUp_setPort hf]; simpa using h)]

theorem portDown_of_up (h : s.portUp p = true) : portDown p false s = settleBroadcasts (breakTrees p
    ((endReceived p (truncatedFrame (s.link p)) (flushPort p (restartPort p s))).setXbar fun x => { x with joining := tdel p x.joining })) := by
  rw [portDown, leaveUp, if_neg (by simp [h])]
  simp only [Bool.false_eq_true, if_false]
  cases truncatedFrame (s.link p) with
  | none => dsimp only [endReceived, Option.elim]; rfl
  | some f => dsimp only [endReceived, Option.elim]; rfl

theorem counter_restartPort : (restartPort p s).counter Counter.linkDown p = min 65535 (s.counter Counter.linkDown p + 1) :=
  counter_bumpPort_same ..

theorem port_restartPort (hp : p < s.ports.length) :
    ((restartPort p s).port p).state = .idle ∧ ((restartPort p s).port p).neighbour = (s.port p).neighbour := by
  have h : (restartPort p s).port p = _ := port_setPort hp _
  exact ⟨by rw [h], by rw [h]⟩

theorem link_restartPort (hp : p < s.links.length) :
    (restartPort p s).link p = { clearLink (s.link p) with rxScr := scramblerSeeds, goingIdleRows := 0 } := by
  have hlen : p < (enterIdle p (bumpPort Counter.linkDown p s)).links.length := (lmap_length ..).trans_gt hp
  have h : (enterIdle p (bumpPort Counter.linkDown p s)).link p = _ := link_setLink hp _
  rw [restartPort, link_setLink hlen, h]

/-! ### The rows (R238, R258, R259) -/

theorem exec_rateRecovery_up {u : State} (hp : p < 128) (hup : s.portUp p = true) (hu : u = s.reach ((s.link p).echoAt + 8000)) :
    exec (.rateRecovery p) s =
      .next (u.setLink p fun l => { settleBucket u.clock l with rate := min 64 (l.rate + 2), echoAt := u.clock }) := by
  subst hu
  exact (guardUnit_of_exists (decide_eq_true hp)).trans (congrArg _ (if_neg (by simp [hup])))

theorem exec_goingIdleExpiry_up {t : Nat} (hp : p < 128) (hup : s.portUp p = true) (ht : (s.link p).goingIdleAt = some t) :
    exec (.goingIdleExpiry p) s = .next (portDown p false (s.reach (t + 82))) := by
  refine (guardUnit_of_exists (decide_eq_true hp)).trans (congrArg _ ?_)
  simp only [ht]
  exact if_pos hup

theorem exec_lockRegained (hp : p < 128) : exec (.lockRegained p) s = .next (s.setPort p fun x =>
    { x with lol := x.lol &&& ~~~(onePosition x.ckPosition) }) := guardUnit_of_exists (decide_eq_true hp)

section
variable {k : Nat} (hp : p < 128) (hk : k < 9)
include hp hk

theorem exec_losAssert : exec (.losAssert p k) s = .next (if (s.port p).los.getLsbD k then s else
    portDown p false ((bumpPort Counter.losCount (9 * p + k) s).setPort p fun x => { x with
      los := x.los ||| onePosition k, cleanSince := s.clock, losAt := if k = x.ckPosition then x.losAt else s.clock })) :=
  guardUnit_of_exists (by simp [Config.ports, hp, hk])

theorem exec_losClear : exec (.losClear p k) s = .next (if (s.port p).los.getLsbD k then s.setPort p fun x => { x with
    los := x.los &&& ~~~(onePosition k), losAt := if k = x.ckPosition then x.losAt else s.clock } else s) :=
  guardUnit_of_exists (by simp [Config.ports, hp, hk])

theorem exec_lossOfLock : exec (.lossOfLock p k) s = .next (if (s.port p).lol.getLsbD k then s else
    portDown p false ((bumpPort Counter.lolCount (9 * p + k) s).setPort p fun x =>
      { x with lol := x.lol ||| onePosition k, cleanSince := s.clock })) :=
  guardUnit_of_exists (by simp [Config.ports, hp, hk])

end

end

/-! ### O39 -/

/-- Settles O39: each event is the lemma on its row, and what a port that leaves UP loses is read off the restarted port and link. -/
theorem linkEventsAndPortDown : Obligations.LinkEventsAndPortDown := by
  unfold Obligations.LinkEventsAndPortDown
  refine ⟨⟨?rate, ?goingIdle, ?los, ?losAgain, ?lol, ?lock⟩, fun s p hp hports hlinks => ⟨?down, fun hup => ?up⟩⟩
  case rate => exact fun s p u hp hup hu => exec_rateRecovery_up hp hup hu
  case goingIdle => exact fun s p t hp hup ht => exec_goingIdleExpiry_up hp hup ht
  case los =>
    intro s p k u hp hk hnew hu
    rw [exec_losAssert hp hk, if_neg (by simpa using hnew), hu]
    exact congrArg _ (portDown_setPort fun _ => rfl)
  case losAgain =>
    intro s p k hp hk hseen
    exact ⟨by rw [exec_losAssert hp hk, if_pos hseen], by rw [exec_losClear hp hk, if_pos hseen]; rfl⟩
  case lol =>
    intro s p k u hp hk hnew hu
    rw [exec_lossOfLock hp hk, if_neg (by simpa using hnew), hu]
    exact congrArg _ (portDown_setPort fun _ => rfl)
  case lock => exact fun s p hp => exec_lockRegained hp
  case down => exact fun hdown => portDown_of_down (by simpa using hdown)
  case up =>
    obtain ⟨hstate, hneighbour⟩ := port_restartPort (s := s) (hports ▸ hp)
    have hlink := link_restartPort (s := s) (hlinks ▸ hp)
    refine ⟨_, portDown_of_up hup, restartPort p s, ?_, counter_restartPort, hstate, hneighbour,
      by rw [hlink]; rfl, by rw [hlink]; rfl, by rw [hlink]; rfl, rfl, rfl, rfl⟩
    cases truncatedFrame (s.link p) with
    | none => dsimp only [endReceived, Option.elim]
    | some f => dsimp only [endReceived, Option.elim, Counter.truncErr]

end Sys2Proof.Proofs
end

section
/-! A frame at its lookup (R97, R222, R227, R236): the fields that a stamp leaves alone, the frame as staged, and O55, assembled from them. -/
namespace Sys2Proof.Proofs
open Sys2Proof.Machine Sys2Proof.Laws

/-! ### Fields beside a replaced one -/

theorem testBit_bitsAt (n lo w i : Nat) : (bitsAt n lo w).testBit i = (decide (i < w) && n.testBit (lo + i)) := by
  rw [bitsAt, Nat.testBit_mod_two_pow, Nat.testBit_shiftRight]

theorem bitsAt_withBits_apart {lo w : Nat} (hw : lo + w ≤ 256) {j n : Nat} (hapart : j + n ≤ lo ∨ lo + w ≤ j) (h : BitVec 256) (v : Nat) :
    bitsAt (withBits h lo w v).toNat j n = bitsAt h.toNat j n := by
  refine Nat.eq_of_testBit_eq fun i => ?_
  rw [testBit_bitsAt, testBit_bitsAt]
  by_cases hi : i < n
  · have hout : ¬ (lo ≤ j + i ∧ j + i < lo + w) := by omega
    have hbit := getLsbD_withBits (h := h) (v := v) (i := j + i) hw
    rw [if_neg hout] at hbit
    exact congrArg _ hbit
  · rw [decide_eq_false hi, Bool.false_and, Bool.false_and]

/-! ### The frame as staged (R97, R222, R236) -/

/-- One of the frame's targets has the mark threshold of its VC charged to it (R236). -/
def marksReached (s : State) (f : Frame) (ts : List Nat) : Bool :=
  match markAt f.vc with
  | some (m, _) => ts.any fun o => m ≤ s.charged o (some f.vc)
  | none => false

/-- The header with EPOCH, and CM where a threshold is reached. -/
def stampedHeader (s : State) (f : Frame) (ts : List Nat) : BitVec 256 :=
  if marksReached s f ts then withBits (withBits f.header 9 2 s.routes.epoch) 7 1 1 else withBits f.header 9 2 s.routes.epoch

/-- The frame with the header it is staged with. -/
def stampedFrame (s : State) (f : Frame) (ts : List Nat) : Frame := { f with header := withHcrc (stampedHeader s f ts) }

/-- The stamp leaves the frame's VC. -/
theorem vc_stampedFrame (s : State) (f : Frame) (ts : List Nat) : (stampedFrame s f ts).vc = f.vc := by
  refine (bitsAt_withBits_apart (by decide) (by decide) ..).trans ?_
  have hepoch : bitsAt (withBits f.header 9 2 s.routes.epoch).toNat 4 3 = f.vc := bitsAt_withBits_apart (by decide) (by decide) ..
  rw [stampedHeader]
  split
  · exact (bitsAt_withBits_apart (by decide) (by decide) ..).trans hepoch
  · exact hepoch

/-! ### The lookup -/

theorem mirrorSession_none {s : State} (h : ∀ m ∈ s.monitor.sessions, (!m.valid) = true) (a : Nat) (f : Frame) (ts : List Nat) :
    mirrorSession s a f ts = none := by
  refine Option.map_eq_none_iff.2 (List.find?_eq_none.2 fun e he => ?_)
  have hinvalid := h e.1 (List.fst_mem_of_mem_zipIdx he)
  simp only [Bool.not_eq_true'] at hinvalid
  simp [hinvalid]

/-- A frame that no mirror session takes, as it enters staging toward `ts`. -/
def stagedTo (a : Nat) (handed : Bool) (f : Frame) (ts : List Nat) (s : State) : Staged :=
  { vc := (stampedFrame s f ts).vc, frame := stampedFrame s f ts, port := a, handed := handed, targets := ts
    cells := cellsOf s.xbar.threeSlice f.payload.length }

/-- One frame more in flight, and in the staging of input `i`. -/
def lookedUp (i : Nat) (st : Staged) (s : State) : State :=
  (flightUp (orderedVc st.vc) s).setXbar fun x =>
    x.setInput i { s.xbar.input i with staging := (s.xbar.input i).staging ++ [st] }

theorem staging_setInput (i : Nat) (v : Input) (x : Xbar) : ((x.setInput i v).input i).staging = v.staging := by
  rw [Xbar.input, Xbar.setInput, tget_tset_same, Option.getD_some]

theorem staging_lookedUp (i : Nat) (st : Staged) (s : State) :
    ((lookedUp i st s).xbar.input i).staging = (s.xbar.input i).staging ++ [st] := staging_setInput ..

/-- R227, R244: a frame whose targets are all granted and UP, and which no mirror session takes, is staged toward them all. -/
theorem stageFrame_of_targets {i a : Nat} {handed : Bool} {f : Frame} {ts : List Nat} {s : State} (hts : ts ≠ [])
    (hup : ∀ o ∈ ts, o < 128 → s.portUp o = true)
    (hgrants : ∀ o ∈ ts, o < 128 → ∀ p, frameParcel s f = some p → s.granted p o (classOf f) = true)
    (hmirror : ∀ g, mirrorSession s a g ts = none) :
    stageFrame i a handed f ts s = askCells i f.vc (lookedUp i (stagedTo a handed f ts s) s) := by
  have hall : (ts.filter fun o => !([] : List Nat).contains o) = ts := by simp
  unfold stageFrame
  extract_lets cls ungranted s₁ ts₁ down s₂ ts₂ marked h₁ h₂ g session
  have hungranted : ungranted = [] := List.filter_eq_nil_iff.2 fun o ho => by
    cases hparcel : frameParcel s f with
    | none => simp
    | some p => simpa using fun hlow => hgrants o ho hlow p hparcel
  have hs₁ : s₁ = s := congrArg (forEach · _ s) hungranted
  have hts₁ : ts₁ = ts := by rw [← hall, ← hungranted]
  have hdown : down = [] := List.filter_eq_nil_iff.2 fun o ho => by
    rw [hts₁] at ho
    simpa [hs₁] using hup o ho
  have hs₂ : s₂ = s := (congrArg (forEach · _ s₁) hdown).trans hs₁
  have hts₂ : ts₂ = ts := by rw [← hall, ← hdown, ← hts₁]
  have hsession : session = none := by rw [← hmirror g, ← hs₂, ← hts₂]
  clear_value ts₂ s₂ session
  subst hs₂ hts₂ hsession
  rw [if_neg (by simpa using hts), ← vc_stampedFrame s₂ f ts₂]
  rfl

/-! ### O55 -/

/-- Settles O55: the frame keeps its targets, and is staged with the stamped header. -/
theorem stagedFramesAreMarked : Obligations.StagedFramesAreMarked := by
  unfold Obligations.StagedFramesAreMarked
  rintro s i a handed f ts h hts hup hgrants hempty hsessions rfl
  refine ⟨lookedUp i (stagedTo a handed f ts s) s, stagedTo a handed f ts s, rfl, rfl, rfl, rfl, ?staging, ?stage⟩
  case staging => rw [staging_lookedUp, hempty, List.nil_append]
  case stage =>
    exact stageFrame_of_targets hts (fun o ho hlow => (hup o ho).resolve_right (Nat.not_le.2 hlow))
      (fun o ho hlow p hp => (hgrants o ho p hp).resolve_right (Nat.not_le.2 hlow)) (mirrorSession_none hsessions a · ts)

end Sys2Proof.Proofs
end

section
/-! Bring-up of a port (R249, R254-R256, R261): its steps, their limits, the training rows of steps 4 to 7 and the neighbour's identity, and O36
and O37, assembled from the rows. -/
namespace Sys2Proof.Proofs
open Sys2Proof.Machine Sys2Proof.Laws

/-! ### From step to step (R254, Table 11.3) -/

/-- The data positions are the nine but that of CK (R247). -/
theorem mem_dataPositions {x : Port} {k : Nat} : k ∈ x.dataPositions ↔ k < 9 ∧ k ≠ x.ckPosition := by
  simp [Port.dataPositions]

section
variable {s : State} {p : Nat} (hp : p < 128)
include hp

theorem exec_bringupIdleEnd_idle (hidle : (s.port p).state = .idle) (hfree : s.portHeld p = false) :
    exec (.bringupIdleEnd p) s = .next (nextStep p 2 ((s.reach ((s.port p).stepAt + 1000000)).setPort p fun x =>
      { x with state := .training, ckAtZero := false })) :=
  (guardUnit_of_exists (decide_eq_true hp)).trans (congrArg _ (if_neg (by simp [hidle, hfree])))

theorem exec_ckWindowSwitch_step2 (htraining : (s.port p).state = .training) (hstep : (s.port p).step = 2) :
    exec (.ckWindowSwitch p) s =
      .next ((s.reach ((s.port p).stepAt + ((s.clock - (s.port p).stepAt) / 2000000 + 1) * 2000000)).setPort p
        fun x => { x with ckAtZero := !x.ckAtZero }) :=
  (guardUnit_of_exists (decide_eq_true hp)).trans (congrArg _ (if_neg (by simp [htraining, hstep])))

theorem exec_ckLock_step2 (htraining : (s.port p).state = .training) (hstep : (s.port p).step = 2) :
    exec (.ckLock p) s = .next (nextStep p 3 (s.setPort p fun x => { x with
      ckReversed := x.ckAtZero, lol := x.lol &&& ~~~(onePosition (if x.ckAtZero then 0 else 8)), losAt := s.clock })) :=
  (guardUnit_of_exists (decide_eq_true hp)).trans (congrArg _ (if_neg (by simp [htraining, hstep])))

theorem exec_losCheckPass_clear (htraining : (s.port p).state = .training) (hstep : (s.port p).step = 3)
    (hclear : ∀ k ∈ (s.port p).dataPositions, (s.port p).los.getLsbD k = false) :
    exec (.losCheckPass p) s = .next (nextStep p 4 (s.reach (max (s.port p).stepAt (s.port p).losAt + 100000))) := by
  have hany : ((s.port p).dataPositions.any fun k => (s.port p).los.getLsbD k) = false :=
    List.any_eq_false.2 fun k hk => by simp [hclear k hk]
  exact (guardUnit_of_exists (decide_eq_true hp)).trans (congrArg _ (if_neg (by simp [htraining, hstep, hany])))

theorem exec_bringupStepTimeout_limit {limit reason : Nat} (htraining : (s.port p).state = .training)
    (hlimit : stepLimit (s.port p).step = some (limit, reason)) :
    exec (.bringupStepTimeout p) s = .next (failBringup p reason (s.reach ((s.port p).stepAt + limit))) := by
  refine (guardUnit_of_exists (decide_eq_true hp)).trans (congrArg _ ?_)
  simp only [if_pos htraining, hlimit]

end

/-- Table 11.3's limits with the reasons of Table 11.5. -/
theorem stepLimit_of_mem {n limit reason : Nat}
    (h : (n, limit, reason) ∈ [(2, 20000000, 1), (3, 5000000, 2), (4, 2000000, 3), (5, 1000000, 4), (6, 1000000, 5), (7, 50000000, 6)]) :
    stepLimit n = some (limit, reason) := by
  have hall : ∀ e ∈ [(2, 20000000, 1), (3, 5000000, 2), (4, 2000000, 3), (5, 1000000, 4), (6, 1000000, 5), (7, 50000000, 6)],
      stepLimit e.1 = some (e.2.1, e.2.2) := by decide
  exact hall _ h

/-! ### O36 -/

/-- Settles O36: each step is the lemma on its row, and the limits are those of `stepLimit`. -/
theorem bringupStepsComplete : Obligations.BringupStepsComplete := by
  unfold Obligations.BringupStepsComplete
  refine ⟨?idle, ?search, ?los, ?timeout⟩
  case idle => exact fun s p hp hidle hfree => exec_bringupIdleEnd_idle hp hidle (by simpa using hfree)
  case search =>
    exact fun s p hp htraining hstep => ⟨exec_ckWindowSwitch_step2 hp htraining hstep, exec_ckLock_step2 hp htraining hstep⟩
  case los =>
    intro s p hp htraining hstep hclear
    refine exec_losCheckPass_clear hp htraining hstep fun k hk => ?_
    obtain ⟨hk9, hdata⟩ := mem_dataPositions.1 hk
    simpa using hclear k hk9 hdata
  case timeout =>
    rintro s p n limit reason hp htraining rfl hlimit
    exact ⟨_, rfl, exec_bringupStepTimeout_limit hp htraining (stepLimit_of_mem hlimit)⟩

/-! ### Steps 4 to 6: polarity, lane order and deskew (R249, R254) -/

/-- The row as the port reads it, by data position. -/
def uprightRow (x : Port) (row : List (BitVec 272)) : List (BitVec 272) := row.zipIdx.map fun e => x.upright e.2 e.1

/-- What a training row does in each step of bring-up. -/
def trainingStep (p : Nat) (row : List (BitVec 272)) (s : State) : Nat → State
  | 4 => polarityRow p row s
  | 5 => laneRow p (uprightRow (s.port p) row) s
  | 6 => deskewRow p (uprightRow (s.port p) row) s
  | 7 => identRow p (uprightRow (s.port p) row)
      (countBlocks p syncTraining ((uprightRow (s.port p) row).map fun b => b.truncate 16) s)
  | _ => s

theorem exec_trainingRow_training {s : State} {p : Nat} {row : List (BitVec 272)} (hp : p < 128) (hrow : row.length = 8)
    (htraining : (s.port p).state = .training) : exec (.trainingRow p row) s = .next (trainingStep p row s (s.port p).step) := by
  refine (guardUnit_of_exists (by simp [Config.ports, hp, hrow])).trans (congrArg _ ?_)
  rw [if_neg (by simp [htraining]), if_neg (by simp [htraining])]
  generalize (s.port p).step = n
  fun_cases trainingStep p row s n with
  | case5 _ h4 h5 h6 h7 => rw [if_neg h4, if_neg h5, if_neg h6, if_neg h7]
  | _ => rfl

/-- A data position's run of equal markers after one more block (step 4). -/
def nextMarkRun (e : (Option Bool × Nat) × BitVec 272) : Option Bool × Nat :=
  match markerSeen e.2 with
  | none => (none, 0)
  | some b => if e.1.1 == some b then (some b, e.1.2 + 1) else (some b, 1)

/-- A data position's run of equal LANEs after one more block (step 5). -/
def nextLaneRun (e : (Nat × Nat) × BitVec 272) : Nat × Nat :=
  if blockSync e.2 = syncTraining then (if e.1.1 == blockLane e.2 then (blockLane e.2, e.1.2 + 1) else (blockLane e.2, 1)) else (e.1.1, 0)

/-- Every run is 64 blocks long. -/
theorem all_runs_iff {α : Type} {runs : List (α × Nat)} : (runs.all fun r => 64 ≤ r.2) = true ↔ ∀ r ∈ runs, 64 ≤ r.2 := by
  simp only [List.all_eq_true, decide_eq_true_eq]

section
variable {s u : State} {p : Nat} {row : List (BitVec 272)}

theorem polarityRow_eq {runs : List (Option Bool × Nat)} (hruns : runs = ((s.port p).markRuns.zip row).map nextMarkRun)
    (hu : u = s.setPort p fun x => { x with markRuns := runs }) : polarityRow p row s =
      if ∀ r ∈ runs, 64 ≤ r.2 then nextStep p 5 (u.setPort p fun x => { x with
        polarity := BitVec.ofNat 8 ((runs.zipIdx.filter fun r => r.1.1 == some false).foldl (fun a r => a + 2 ^ r.2) 0) })
      else u := by
  subst hruns hu
  exact if_congr all_runs_iff rfl rfl

theorem laneRow_eq {runs : List (Nat × Nat)} (hruns : runs = ((s.port p).laneRuns.zip row).map nextLaneRun)
    (hu : u = s.setPort p fun x => { x with laneRuns := runs }) : laneRow p row s =
      if (∀ r ∈ runs, 64 ≤ r.2) ∧ (runs.map (·.1)).eraseDups.length = 8 then nextStep p 6 (u.setPort p fun x => { x with
        laneMap := BitVec.ofNat 24 (runs.zipIdx.foldl (fun a r => a + (r.1.1 % 8) <<< (3 * r.2)) 0) })
      else u := by
  subst hruns hu
  exact if_congr (and_congr_left' all_runs_iff) rfl rfl

theorem deskewRow_eq : deskewRow p row s = if (∀ b ∈ row, blockSync b = syncTraining) ∧
    (∀ a ∈ row, ∀ b ∈ row, trcAhead (blockTrc a) (blockTrc b) ≤ 15) then nextStep p 7 s else s := by
  simp [deskewRow, skewOk]

/-! ### Step 7: the neighbour's identity (R255, R256, Table 11.4) -/

theorem identRow_remembers (h : rowIdent row = none ∨ (s.port p).lastIdent ≠ rowIdent row) :
    identRow p row s = s.setPort p fun x => { x with lastIdent := rowIdent row } := by
  unfold identRow
  cases hr : rowIdent row with
  | none => rfl
  | some r => exact if_pos (by simpa [hr] using h)

/-- A record met twice in a row is judged by its protocol, its kind and whether it is the port's own. -/
theorem identRow_repeated {r : BitVec 192} {v : State} (hr : rowIdent row = some r) (hlast : (s.port p).lastIdent = some r)
    (hv : v = s.setPort p fun x => { x with lastIdent := some r }) : identRow p row s =
      if identProto r ≠ 1 ∨ (identKind r ≠ 1 ∧ identKind r ≠ 2) then failBringup p 7 v
      else if identSerial r = s.trust.serial.toNat ∧ identPort r = p ∧ identNonce r = (s.port p).nonce then failBringup p 8 v
      else v.setPort p fun x => { x with
        neighbour := r, peerNonce := identNonce r, gotRow := true, finalSent := x.finalSent || identPeerNonce r = x.nonce } := by
  subst hv
  unfold identRow
  simp only [hr]
  exact if_neg (by simp [hlast])

end

/-! ### O37 -/

/-- Settles O37: a row is what its step makes of it, and each step is the lemma on its row. -/
theorem trainingRowsAndIdentity : Obligations.TrainingRowsAndIdentity := by
  unfold Obligations.TrainingRowsAndIdentity
  refine ⟨?rows, ?identity⟩
  case rows =>
    rintro s p row up x hp hrow rfl rfl htraining
    have hexec := exec_trainingRow_training hp hrow htraining
    refine ⟨fun h4 => ?_, fun h5 => ?_, fun h6 => ?_, fun h7 => ?_⟩
    · have h := (h4 ▸ hexec).trans (congrArg _ (polarityRow_eq rfl rfl))
      exact ⟨_, _, rfl, rfl, fun hshort => h.trans (congrArg _ (if_neg hshort)), fun hlong => h.trans (congrArg _ (if_pos hlong))⟩
    · have h := (h5 ▸ hexec).trans (congrArg _ (laneRow_eq rfl rfl))
      exact ⟨_, _, rfl, rfl, fun hshort => h.trans (congrArg _ (if_neg hshort)), fun hlong => h.trans (congrArg _ (if_pos hlong))⟩
    · exact (h6 ▸ hexec).trans (congrArg _ deskewRow_eq)
    · exact ⟨_, rfl, fun hnew => (h7 ▸ hexec).trans (congrArg _ (identRow_remembers hnew))⟩
  case identity =>
    rintro s p row up x r u hp hrow rfl rfl htraining h7 rfl hr hlast
    have h := (h7 ▸ exec_trainingRow_training hp hrow htraining).trans (congrArg _ (identRow_repeated hr hlast rfl))
    refine ⟨fun hproto hkind hown => ?_, fun hunfit => ?_, fun hproto hkind hserial hport hnonce => ?_⟩
    · rw [if_neg (by omega)] at h
      exact h.trans (congrArg _ (if_neg hown))
    · exact h.trans (congrArg _ (if_pos (by omega)))
    · rw [if_neg (by omega)] at h
      exact h.trans (congrArg _ (if_pos ⟨hserial, hport, hnonce⟩))

end Sys2Proof.Proofs
end

section
/-! Link control words (R249, R252, R256, R257, R259): the overheads of a data row, the word they carry, and O38, assembled from them. -/
namespace Sys2Proof.Proofs
open Sys2Proof.Machine Sys2Proof.Laws

section
variable {s u : State} {p : Nat}

/-! ### The row (R249, R252) -/

theorem portUp_iff : s.portUp p = true ↔ (s.port p).state = .up := by simp [State.portUp]

section
variable {o : List (BitVec 16)} (hp : p < 128) (ho : o.length = 8)
include hp ho

theorem exec_linkControlWord_taken {bits : List (BitVec 16)} {w : BitVec 88}
    (hlistens : s.portUp p = true ∨ ((s.port p).state = .training ∧ (s.port p).step = 7))
    (hbits : bits = o.zipIdx.map fun e => (s.port p).upright e.2 e.1) (hw : w = (s.port p).wordOf bits) (hu : u = countBlocks p syncData bits s) :
    exec (.linkControlWord p o) s =
      .next (if (u.port p).state = .idle then u else if lcwOk w then goodWord p w.toNat u else badWord p u) := by
  subst hbits hw hu
  exact (guardUnit_of_exists (by simp [Config.ports, hp, ho])).trans (congrArg _ (if_pos (hlistens.imp_left portUp_iff.1)))

theorem exec_linkControlWord_ignored (h : (s.port p).state = .idle ∨ (s.port p).state = .off) :
    exec (.linkControlWord p o) s = .next s := by
  refine (guardUnit_of_exists (by simp [Config.ports, hp, ho])).trans (congrArg _ (if_neg ?_))
  obtain h | h := h <;> simp [h]

end

/-! ### Valid and invalid words (R252, R256, R257, R259) -/

/-- The identity slice of a word whose credits have been taken: the link, and a record that two assemblies agree on. -/
def sliceTaken (p w : Nat) (u : State) : Link × Option (BitVec 192) := takeSlice w ((u.setLink p (takeCredits u.clock w)).link p)

/-- The part after a valid word's credits and slice. -/
def wordTaken (p w : Nat) (u : State) : State := (u.setLink p (takeCredits u.clock w)).setLink p fun _ => (sliceTaken p w u).1

theorem goodWord_up {w : Nat} (hup : u.portUp p = true) :
    goodWord p w u = (sliceTaken p w u).2.elim (wordTaken p w u) fun r => adoptIdent p r (wordTaken p w u) := by
  refine (if_neg (by simp [hup])).trans ?_
  change (match (sliceTaken p w u).2 with | some r => adoptIdent p r (wordTaken p w u) | none => wordTaken p w u) = _
  cases (sliceTaken p w u).2 <;> rfl

theorem goodWord_training {w : Nat} (hdown : u.portUp p = false) : goodWord p w u =
    if bitAt w 42 ∧ 16 ≤ ((wordTaken p w u).port p).finalRows then enterUp p (wordTaken p w u) else wordTaken p w u :=
  if_pos (by simp [hdown])

end

/-! ### O38 -/

/-- Settles O38: the row's lemma, then what a valid word does in UP and in step 7, and an invalid one. -/
theorem linkControlWordsComplete : Obligations.LinkControlWordsComplete := by
  unfold Obligations.LinkControlWordsComplete
  refine ⟨?taken, ?fell, ?ignored⟩
  case taken =>
    intro s p o bits w u hp ho hbits hw hu hstays hlistens
    have hexec := exec_linkControlWord_taken hp ho hlistens hbits hw hu
    rw [if_neg hstays] at hexec
    refine ⟨fun hup hok => ⟨_, rfl, fun hslice => ?_, fun r hslice => ?_⟩, fun hdown hok => ⟨_, rfl, ?_⟩, fun hbad => ⟨_, rfl, ?_⟩⟩
    · rw [hexec, if_pos hok, goodWord_up hup, sliceTaken, hslice]
      rfl
    · rw [hexec, if_pos hok, goodWord_up hup, sliceTaken, hslice]
      rfl
    · rw [hexec, if_pos hok, goodWord_training (by simpa using hdown)]
      rfl
    · rw [hexec, if_neg (by simpa using hbad)]
      rfl
  case fell =>
    intro s p o u hp ho hup hu hidle
    rw [exec_linkControlWord_taken hp ho (.inl hup) rfl rfl hu, if_pos hidle]
  case ignored => exact fun s p o hp ho h => exec_linkControlWord_ignored hp ho h

end Sys2Proof.Proofs
end

section
/-! Spills and fills of accumulators (R268, R283-R285): which chain a die spills, the three rows, and O47, assembled from them. -/
namespace Sys2Proof.Proofs
open Sys2Proof.Machine Sys2Proof.Laws

/-! ### The order of spilling (R283) -/

/-- The first of the least elements of a list is that of any part of the list that keeps it. -/
theorem argmin_filter {α : Type} {f : α → Nat} {p : α → Bool} {l : List α} {m : α} (h : l.argmin f = some m) (hp : p m = true) :
    (l.filter p).argmin f = some m := by
  induction l with
  | nil => exact h
  | cons a l ih =>
    rw [List.argmin_cons] at h
    cases hl : l.argmin f with
    | none =>
      obtain rfl : a = m := by simpa [hl] using h
      simp [List.argmin_eq_none.1 hl, hp]
    | some c =>
      simp only [hl] at h
      split at h
      next hlt =>
        obtain rfl : c = m := Option.some.inj h
        by_cases ha : p a = true <;> simp [ha, List.argmin_cons, ih hl, hlt]
      next hle =>
        obtain rfl : a = m := Option.some.inj h
        rw [List.filter_cons_of_pos hp, List.argmin_cons]
        cases hd : (l.filter p).argmin f with
        | none => rfl
        | some d =>
          have hcd : f c ≤ f d := List.le_of_mem_argmin (List.mem_filter.1 (List.argmin_mem hd)).1 hl
          exact if_neg (by omega)

theorem oldestAcc_eq_argmin (l : List (Nat × BitVec 32 × Acc)) : oldestAcc l = l.argmin (·.2.2.addedAt) := by
  cases l with
  | nil => rfl
  | cons c cs => exact (List.foldl_hom some fun m d => (apply_ite some ..).symm).symm

/-- The chain spilled first out of some is the one spilled first out of any of them it is among. -/
theorem firstSpill_filter {p : Nat × BitVec 32 × Acc → Bool} {l : List (Nat × BitVec 32 × Acc)} {c : Nat × BitVec 32 × Acc}
    (h : firstSpill l = some c) (hp : p c = true) : firstSpill (l.filter p) = some c := by
  unfold firstSpill at h ⊢
  simp only [oldestAcc_eq_argmin, Option.or_eq_some_iff, List.argmin_eq_none] at h ⊢
  rw [List.filter_comm]
  obtain hdone | ⟨hnone, hall⟩ := h
  · exact .inl (argmin_filter hdone hp)
  · exact .inr ⟨by rw [hnone, List.filter_nil], argmin_filter hall hp⟩

/-- The chain a die spills next is the first that can abort where its own generation can (log 98). -/
theorem spillVictim_of_open {u : State} {die t : Nat} {g : BitVec 32} {a : Acc} (hchoice : u.spillChoice die = some (t, g, a))
    (hopen : (u.genOf t g).any Gen.isOpen = true) : u.spillVictim die = some (t, g, a) :=
  firstSpill_filter (p := fun c => (u.genOf c.1 c.2.1).any Gen.isOpen) hchoice hopen

/-! ### The rows (R283-R285) -/

section
variable {s u : State} {die t : Nat} {g : BitVec 32}

section
variable {a : Acc} (hdie : die < 30) (hruns : s.running (groupOfDie die) = true)
  (hu : u = s.setGroup (groupOfDie die) fun x => { x with workAt := s.clock }) (hchoice : u.spillChoice die = some (t, g, a))
include hdie hruns hu hchoice

theorem exec_spillStart_spills {ls : List Nat} (hls : takeLines u die (u.accLines t g) [] = some ls) :
    exec (.spillStart die) s = .next (setAcc t g a.chain (fun a => { a with residency := .spilling, spilled := ls })
      (u.setStack die fun h => { h with spillLines := h.spillLines ++ ls })) := by
  refine (guardUnit_of_exists (decide_eq_true hdie)).trans (congrArg _ ?_)
  rw [onDie_of_running hruns, ← hu]
  simp only [hchoice, hls]

theorem exec_spillStart_aborts (hls : takeLines u die (u.accLines t g) [] = none) :
    exec (.spillStart die) s =
      .next ((u.spillVictim die).elim u fun w => abortGen w.1 w.2.1 9 0xFF w.2.2.chain u) := by
  refine (guardUnit_of_exists (decide_eq_true hdie)).trans (congrArg _ ?_)
  rw [onDie_of_running hruns, ← hu]
  simp only [hchoice, hls]

end

section
variable {a : Acc} {ch : Nat} (hdie : die < 30) (hacc : s.accOf t g ch = some a) (hhere : a.die = die) (hfilling : a.residency = .filling)
  (hu : u = forEach a.spilled (fun l u => decodeCount die l false u) s)
include hdie hacc hhere hfilling hu

theorem exec_fillDone_restores (hgood : ∀ l ∈ a.spilled, s.decoded die l ≠ .lost) :
    exec (.fillDone die t g ch) s = .next (declareDue die (settleGen t g
      (setAcc t g ch (fun a => { a with residency := .sram, spilled := [] }) (freeAcc a u)))) := by
  subst hu
  refine (guardUnit_of_exists (decide_eq_true hdie)).trans (congrArg _ ?_)
  simp only [hacc]
  exact (if_pos ⟨hhere, hfilling⟩).trans (if_neg (by simpa using hgood))

theorem exec_fillDone_loses (hlost : ∃ l ∈ a.spilled, s.decoded die l = .lost) :
    exec (.fillDone die t g ch) s = .next (declareDue die (loseAcc t g ch u)) := by
  subst hu
  refine (guardUnit_of_exists (decide_eq_true hdie)).trans (congrArg _ ?_)
  simp only [hacc]
  exact (if_pos ⟨hhere, hfilling⟩).trans (if_pos (by simpa using hlost))

end

end

/-! ### O47 -/

/-- Settles O47: the order of spilling, and a lemma for each way a row ends. -/
theorem spillAndFillComplete : Obligations.SpillAndFillComplete := by
  unfold Obligations.SpillAndFillComplete
  refine ⟨?start, ?ack, ?fill⟩
  case start =>
    exact fun s die u t g a hdie hruns hu hchoice =>
      ⟨fun ls => exec_spillStart_spills hdie hruns hu hchoice, exec_spillStart_aborts hdie hruns hu hchoice, spillVictim_of_open hchoice⟩
  case ack => exact fun s die t g ch hdie => guardUnit_of_exists (decide_eq_true hdie)
  case fill =>
    exact fun s die t g ch a u hdie hacc hhere hfilling hu =>
      ⟨exec_fillDone_restores hdie hacc hhere hfilling hu, exec_fillDone_loses hdie hacc hhere hfilling hu⟩

end Sys2Proof.Proofs
end

section
/-! What the end of a generation leaves alone: the model's clock (log 5). It stands still while frames enter staging, while events are posted, while
accumulators are freed, and so while a generation aborts. -/
namespace Sys2Proof.Proofs
open Sys2Proof.Machine Sys2Proof.Laws

@[simp] theorem forEach_clock {α : Type} {f : α → State → State} (hf : ∀ x s, (f x s).clock = s.clock) (xs : List α) (s : State) :
    (forEach xs f s).clock = s.clock :=
  forEach_keeps State.clock hf xs s

section
variable {s : State}

@[simp] theorem forEach_bump_clock (number : Nat) (xs : List Nat) : (forEach xs (fun o => State.bump number o) s).clock = s.clock :=
  forEach_clock (fun _ _ => bump_clock) xs s

/-! ### Frames enter staging (R227, R233, R244, R289) -/

@[simp] theorem flightUp_clock (ordered : Bool) : (flightUp ordered s).clock = s.clock := rfl

@[simp] theorem flightDown_clock (epoch : Nat) (ordered : Bool) : (flightDown epoch ordered s).clock = s.clock := rfl

@[simp] theorem countMirror_clock (i : Nat) (taken : Bool) : (countMirror i taken s).clock = s.clock := by
  cases taken <;> rfl

@[simp] theorem settleMirror_clock (st : Staged) : (settleMirror st s).2.clock = s.clock := by
  unfold settleMirror
  split
  · rfl
  · dsimp only
    split <;> exact countMirror_clock ..

@[simp] theorem takeCells_clock (input idx : Nat) (st : Staged) : (takeCells input idx st s).1.clock = s.clock := by
  unfold takeCells
  split
  · rfl
  · split
    · simp
    · split
      · simp
      · rfl

@[simp] theorem returnCredits_clock (port vc n : Nat) : (returnCredits port vc n s).clock = s.clock := by
  simp [returnCredits, apply_ite State.clock]

@[simp] theorem dropWaiting_clock (input idx : Nat) (st : Staged) : (dropWaiting input idx st s).clock = s.clock := by
  simp [dropWaiting]

@[simp] theorem tryAlloc_clock (input vc : Nat) : (tryAlloc input vc s).1.clock = s.clock := by
  unfold tryAlloc
  split
  · rfl
  · simp [apply_ite Prod.fst, apply_ite State.clock]

@[simp] theorem askCells_clock (input vc : Nat) : (askCells input vc s).clock = s.clock := by
  simp [askCells, countStall, apply_ite State.clock]

@[simp] theorem stageFrame_clock (input arrival : Nat) (handed : Bool) (f : Frame) (targets : List Nat) :
    (stageFrame input arrival handed f targets s).clock = s.clock := by
  unfold stageFrame
  extract_lets cls ungranted s₁ ts₁ down s₂ ts₂ marked h₁ h₂ g session take s₃ s₄ i st s₅
  have hs₂ : s₂.clock = s.clock := by simp [s₂, s₁]
  have hs₃ : s₃.clock = s₂.clock := by
    cases hsession : session with
    | none => simp only [s₃, hsession]
    | some n => simp [s₃, hsession, apply_ite State.clock]
  split
  · exact hs₂
  · simp [s₅, s₄, hs₃, hs₂]

@[simp] theorem chooseSpray_clock (input : Nat) (f : Frame) (set : List Nat) : (chooseSpray input f set s).2.clock = s.clock := by
  unfold chooseSpray
  split
  · rfl
  · rfl
  · split
    · dsimp only
      split <;> rfl
    · rfl

@[simp] theorem sendToward_clock (input : Nat) (f : Frame) (port : Nat) : (sendToward input f port s).clock = s.clock := by
  simp only [sendToward]
  split <;> simp

@[simp] theorem sendDown_clock (input : Nat) (f : Frame) (targets : List Nat) : (sendDown input f targets s).clock = s.clock := by
  unfold sendDown
  split
  · rfl
  · simp [apply_ite State.clock]
  · simp

@[simp] theorem sendControl_clock (vc sub t : Nat) (gen : BitVec 32) (datum survey : Int) (payload : Bytes) (targets : List Nat) :
    (sendControl vc sub t gen datum survey payload targets s).clock = s.clock := by
  simp [sendControl, apply_ite State.clock]

/-! ### Events (R310, R311, R313) -/

@[simp] theorem mdSend_clock (sub part port pair count offset space : Nat) (payload : Bytes) :
    (mdSend sub part port pair count offset space payload s).clock = s.clock := by
  unfold mdSend
  split
  · rfl
  · dsimp only
    split
    · split
      · simp
      · split
        · simp
        · split <;> simp
    · split <;> simp

@[simp] theorem putCompletion_clock (n : Nat) (c : Completion) : (putCompletion n c s).clock = s.clock := by
  simp [putCompletion, apply_ite State.clock]

@[simp] theorem eventTo_clock (n : Nat) (c : Completion) : (eventTo n c s).clock = s.clock := by
  simp [eventTo, apply_ite State.clock]

@[simp] theorem postEvent_clock (parcel kind status result : Nat) : (postEvent parcel kind status result s).clock = s.clock := by
  unfold postEvent
  split
  · rfl
  · split
    · split
      · rfl
      · dsimp only
        split <;> simp
    · split <;> simp

/-! ### Accumulators and slots freed (R68, R141, R284) -/

@[simp] theorem freeRange_clock (pair base len : Nat) : (freeRange pair base len s).clock = s.clock := by
  simp [freeRange, apply_ite State.clock]

@[simp] theorem freeAcc_clock (a : Acc) : (freeAcc a s).clock = s.clock := by
  simp [freeAcc]

@[simp] theorem setGen_clock (t : Nat) (g : BitVec 32) (f : Gen → Gen) : (s.setGen t g f).clock = s.clock := rfl

@[simp] theorem freeAccs_clock (t : Nat) (g : BitVec 32) : (freeAccs t g s).clock = s.clock := by
  unfold freeAccs
  split <;> simp

@[simp] theorem dropSlots_clock (t : Nat) (g : BitVec 32) : (dropSlots t g s).clock = s.clock := by
  refine forEach_clock (fun e s => ?_) _ s
  split <;> rfl

@[simp] theorem permuteUnload_clock (c : Ctx) : (permuteUnload c s).clock = s.clock := by
  unfold permuteUnload
  split <;> rfl

@[simp] theorem releaseLink_clock (c : Ctx) (g : BitVec 32) : (releaseLink c g s).clock = s.clock := by
  unfold releaseLink releaseKept
  split
  · split
    · rfl
    · split <;> simp
  · rfl

@[simp] theorem forgetKept_clock (t : Nat) (g : BitVec 32) (ch : Nat) : (forgetKept t g ch s).clock = s.clock := by
  unfold forgetKept
  split <;> simp

/-! ### A generation aborts (R65-R69) -/

theorem freeTraverse_clock (t : Nat) (s : State) : (freeTraverse t s).clock = s.clock := by
  unfold freeTraverse
  dsimp only
  split
  · exact (forEach_clock (fun _ _ => freeAcc_clock _) ..).trans (forEach_clock (fun _ _ => setRegion_clock) ..)
  · exact forEach_clock (fun _ _ => setRegion_clock) ..

@[simp] theorem settleTraverse_clock (t : Nat) : (settleTraverse t s).clock = s.clock := by
  simp only [settleTraverse]
  split
  · exact setTraverse_clock
  · simp [apply_ite State.clock, freeTraverse_clock]

@[simp] theorem reportVerdict_clock (c : Ctx) (status : Nat) (r : AbortRec) : (reportVerdict c status r s).clock = s.clock := by
  simp [reportVerdict, apply_ite State.clock]

@[simp] theorem releaseGen_clock (t status : Nat) (r : AbortRec) : (releaseGen t status r s).clock = s.clock := by
  unfold releaseGen
  split
  · rfl
  · simp [apply_ite State.clock]

@[simp] theorem notifyTally_clock (t : Nat) (c : Ctx) (status : Nat) (r : AbortRec) : (notifyTally t c status r s).clock = s.clock := by
  unfold notifyTally
  split
  · split <;> simp [apply_ite State.clock]
  · rfl

@[simp] theorem sendAbort_clock (t : Nat) (g : BitVec 32) (c : Ctx) (r : AbortRec) : (sendAbort t g c r s).clock = s.clock := by
  simp [sendAbort, apply_ite State.clock]

@[simp] theorem abortedHere_clock (t : Nat) (g : BitVec 32) (r : AbortRec) : (abortedHere t g r s).clock = s.clock := by
  unfold abortedHere
  split
  · rfl
  · simp [apply_ite State.clock]

@[simp] theorem finishAborted_clock (t : Nat) (g : BitVec 32) (port : Nat) (r : AbortRec) : (finishAborted t g port r s).clock = s.clock := by
  refine (forEach_clock (fun b s => ?_) _ _).trans (abortedHere_clock ..)
  split
  · simp [apply_ite State.clock]
  · rfl

@[simp] theorem abortGen_clock (t : Nat) (g : BitVec 32) (cause port chain : Nat) : (abortGen t g cause port chain s).clock = s.clock := by
  unfold abortGen
  split
  · rfl
  · split
    · rfl
    · simp [apply_ite State.clock]

/-! ### Spilled lines that move (R273, R283) -/

theorem moveLine_clock (stack line : Nat) (found : Option (List Nat)) (owner : Option (Nat × BitVec 32 × Nat)) :
    (moveLine stack line found owner s).clock = s.clock := by
  have hdropped (t : Nat) (g : BitVec 32) (ch : Nat) : (abortGen t g 9 0xFF ch (forgetKept t g ch s)).clock = s.clock :=
    (abortGen_clock ..).trans (forgetKept_clock ..)
  rcases owner with _ | ⟨t, g, ch⟩
  · rcases found with _ | _ | ⟨l, _ | _⟩ <;> rfl
  · rcases found with _ | _ | ⟨l, _ | _⟩
    · exact hdropped t g ch
    · exact hdropped t g ch
    · rfl
    · exact hdropped t g ch

theorem moveSpilled_clock (stack line : Nat) (s : State) : (moveSpilled stack line s).clock = s.clock := moveLine_clock ..

end

end Sys2Proof.Proofs
end

section
/-! Upkeep of the stacks (R266-R274, R372): a decode that finds nothing, scrub, map-out and zeroing, and O48, assembled from them. -/
namespace Sys2Proof.Proofs
open Sys2Proof.Machine Sys2Proof.Laws

/-! ### One stack changed, and the others -/

theorem stack_setStack_other {i j : Nat} (hj : j ≠ i) (f : Hbm → Hbm) (s : State) : (s.setStack i f).stack j = s.stack j :=
  (stack_setStack_cases i j f s).resolve_right fun h => hj h.1.symm

/-- A change that leaves a stack as it is leaves the part as it is. -/
theorem setStack_self {i : Nat} {f : Hbm → Hbm} {s : State} (h : f (s.stack i) = s.stack i) : s.setStack i f = s := by
  have hstacks : lmap i f s.hbmStacks = s.hbmStacks := by
    refine List.ext_getElem? fun j => ?_
    rw [lmap, List.getElem?_modify]
    split
    next hj =>
      subst hj
      rw [State.stack, List.getD_eq_getElem?_getD] at h
      cases hstack : s.hbmStacks[i]? with
      | none => rfl
      | some b => simpa [hstack] using h
    next => exact id_map _
  rw [State.setStack, hstacks]

section
variable {s : State} {i line : Nat}

/-! ### A decode that finds nothing (R267, R268, R271) -/

/-- A touch of the check cache changes no other part of a stack. -/
theorem stack_touched (first count : Nat) (dirty : Bool) :
    ∃ checks, (s.setStack i (touchChecks first count dirty)).stack i = { s.stack i with checks := checks } := by
  obtain h | ⟨-, h⟩ := stack_setStack_cases i i (touchChecks first count dirty) s
  · exact ⟨(s.stack i).checks, h⟩
  · exact ⟨_, h⟩

/-- What a decode finds is not in the check cache. -/
theorem decoded_touched (first count : Nat) (dirty : Bool) (a : Nat) :
    (s.setStack i (touchChecks first count dirty)).decoded i a = s.decoded i a := by
  obtain ⟨checks, h⟩ := stack_touched (s := s) (i := i) first count dirty
  unfold State.decoded State.lineChannel State.keptAt
  rw [h]
  rfl

theorem decodeCount_clean (h : s.decoded i line = .clean) (back : Bool) :
    decodeCount i line back s = s.setStack i (touchChecks line 1 false) := by
  unfold decodeCount
  simp only [decoded_touched, h]

theorem declareDue_of_no_failing (h : (s.stack i).failing = []) : declareDue i s = s := by
  rw [declareDue, h]
  exact setStack_self (by rw [← h])

theorem decodeLine_clean (h : s.decoded i line = .clean) (hfailing : (s.stack i).failing = []) :
    decodeLine i line s = s.setStack i (touchChecks line 1 false) := by
  obtain ⟨checks, htouched⟩ := stack_touched (s := s) (i := i) line 1 false
  unfold decodeLine
  dsimp only
  rw [decodeCount_clean h, if_neg (by simp [h])]
  exact declareDue_of_no_failing (by rw [htouched]; exact hfailing)

/-! ### The patrol scrub (R268) -/

section
variable {w : ArrayFaults} {u : State} (hi : i < 30) (hw : faultsExist w = true) (hworks : s.pairFailed i = false)
  (hu : u = s.setStack i (noteFaults w))
include hi hw hworks hu

theorem exec_patrolScrubLine_asleep (hdepth : 2 ≤ (s.group (groupOfDie i)).state.depth) : exec (.patrolScrubLine i w) s = .next u := by
  subst hu
  refine (guardUnit_of_exists (by simpa using ⟨hi, hw⟩)).trans (congrArg _ ?_)
  exact (if_neg (by simp [hworks])).trans (if_pos hdepth)

theorem exec_patrolScrubLine_decodes (hdepth : (s.group (groupOfDie i)).state.depth < 2) (hline : line = (u.stack i).scrub) :
    exec (.patrolScrubLine i w) s =
      .next (decodeLine i line (u.setStack i fun h => { h with scrub := (line + 1) % stackLines })) := by
  subst hu hline
  refine (guardUnit_of_exists (by simpa using ⟨hi, hw⟩)).trans (congrArg _ ?_)
  exact (if_neg (by simp [hworks])).trans (if_neg (Nat.not_le.2 hdepth))

end

/-! ### Map-out (R273, R274) -/

theorem exec_mapoutStart_due (hi : i < 30) (hdue : s.mapoutDue i = true) (hempty : s.blockReserved i = 0) :
    exec (.mapoutStart i) s =
      .next ((forEach ((s.stack i).spillLines.filter fun l => s.allocEnd i ≤ 2048 * l ∧ 2048 * l < s.allocTop i)
        (moveSpilled i) s).setStack i fun h => { h with mapout := .copying h.declared s.clock }) := by
  refine (guardUnit_of_exists (decide_eq_true hi)).trans (congrArg _ ?_)
  dsimp only
  rw [if_neg (by simp [hdue, hempty]), forEach_clock (moveSpilled_clock i)]

/-! ### Zeroing (R372) -/

/-- The part with a line of a stack zeroed. -/
def zeroed (i line : Nat) (s : State) : State :=
  (storeZeros i (2048 * line) 2048 s).setStack i fun h => { h with unzeroed := runsTake (line, 1) h.unzeroed }

theorem exec_zeroingLine_zeroes {n : Nat} {rest : List (Nat × Nat)} (hi : i < 30) (hruns : (s.stack i).unzeroed = (line, n) :: rest)
    (hworks : s.pairFailed i = false) : exec (.zeroingLine i) s = .next (zeroed i line s) := by
  refine (guardUnit_of_exists (decide_eq_true hi)).trans (congrArg _ ?_)
  simp only [hruns]
  exact if_neg (by simp [hworks])

theorem stack_zeroed_other {j : Nat} (hj : j ≠ i) : (zeroed i line s).stack j = s.stack j :=
  (stack_setStack_other hj _ _).trans (stack_setStack_other hj _ _)

section
variable (hi : i < s.hbmStacks.length)
include hi

theorem stack_zeroed_same : (zeroed i line s).stack i =
    { (storeZeros i (2048 * line) 2048 s).stack i with unzeroed := runsTake (line, 1) (s.stack i).unzeroed } := by
  have hlen : i < (storeZeros i (2048 * line) 2048 s).hbmStacks.length := by rwa [storeZeros, setStack_hbmStacks, lmap_length]
  rw [zeroed, stack_setStack hlen, storeZeros, stack_setStack hi]
  rfl

theorem read_zeroed (x : Nat) : Memory.read ((zeroed i line s).stack i).mem x =
    if 2048 * line ≤ x ∧ x < 2048 * line + 2048 then 0 else Memory.read (s.stack i).mem x := by
  rw [stack_zeroed_same hi, storeZeros, stack_setStack hi]
  exact Memory.read_zero

end

end

/-! ### O48 -/

/-- Settles O48: each clause is the lemma on its row, or on the decode of a clean line; a map-out that ends does the row's steps in their order. -/
theorem hbmMaintenanceCompletes : Obligations.HbmMaintenanceCompletes := by
  unfold Obligations.HbmMaintenanceCompletes
  refine ⟨?scrub, ?clean, ?start, ?done, ?zeroing⟩
  case scrub =>
    intro s i w u line hi hw hworks hu hline
    have hworks : s.pairFailed i = false := by simpa using hworks
    exact ⟨exec_patrolScrubLine_asleep hi hw hworks hu, fun hdepth => exec_patrolScrubLine_decodes hi hw hworks hu hdepth hline⟩
  case clean => exact fun s i line => decodeLine_clean
  case start => exact fun s i => exec_mapoutStart_due
  case done =>
    intro r i w s set since top moves u v hi hw hs hcopy htop hmoves hu hv
    refine (guardUnit_of_exists (by simpa using ⟨hi, hw⟩)).trans (congrArg _ ?_)
    simp only [← hs, hcopy]
    subst hv hu hmoves htop
    rfl
  case zeroing =>
    intro s i first n rest hi hlen hruns hworks
    have hstack : i < s.hbmStacks.length := hlen ▸ hi
    exact ⟨zeroed i first s, exec_zeroingLine_zeroes hi hruns (by simpa using hworks), read_zeroed hstack,
      congrArg Hbm.unzeroed (stack_zeroed_same hstack), fun j hj => stack_zeroed_other hj, rfl, rfl, rfl, rfl, rfl⟩

end Sys2Proof.Proofs
end

section
/-! FW_STAGE, FW_HANDOVER, DEBUG_OPEN and AUDIT_READ (R294, R364, R365, R374, R384): what the verdict of each makes of the command, and O18,
assembled from them. -/
namespace Sys2Proof.Proofs
open Sys2Proof.Machine Sys2Proof.Laws

/-! ### What these effects find as acceptance found it (R304) -/

theorem begun_boot (s : State) (c : Command) (a : Accepted) : (s.begun c a).boot = s.boot :=
  (congrArg State.boot (begun_unjournaled s c a) :)

theorem begun_dbg (s : State) (c : Command) (a : Accepted) : (s.begun c a).dbg = s.dbg :=
  (congrArg State.dbg (begun_unjournaled s c a) :)

theorem begun_xbar (s : State) (c : Command) (a : Accepted) : (s.begun c a).xbar = s.xbar :=
  (congrArg State.xbar (begun_unjournaled s c a) :)

theorem begun_parcel (s : State) (c : Command) (a : Accepted) (n : Nat) : (s.begun c a).parcel n = s.parcel n :=
  (congrArg (State.parcel · n) (begun_unjournaled s c a) :)

theorem begun_regionAt (s : State) (c : Command) (a : Accepted) (handle : Nat) : (s.begun c a).regionAt handle = s.regionAt handle :=
  (congrArg (State.regionAt · handle) (begun_unjournaled s c a) :)

/-! ### An audit that nothing keeps from starting (R294, R384) -/

theorem startPoolAudit_of_idle {s : State} (h : s.xbar.walk = none) (reclaim : Bool) (seq : Option Nat) (pair addr : Nat)
    (ring busOk : Bool) :
    startPoolAudit reclaim seq pair addr ring busOk s = some (s.setXbar fun x =>
      { x with walk := some { startedAt := s.clock, before := s.xbar.allocCount, reclaim, seq, pair, addr, ring, busOk } }) := by
  unfold startPoolAudit
  rw [h]
  rfl

/-- A region whose running mark is free can be audited. -/
theorem startLedgerAudit_isSome {s : State} {handle : Nat} {x : Nat × Region} (hx : s.regionAt handle = some x)
    (hfree : x.2.running = none) (seq : Option Nat) (pair addr : Nat) (ring busOk : Bool) :
    ∃ t, startLedgerAudit handle seq pair addr ring busOk s = some t := by
  unfold startLedgerAudit
  simp only [hx, hfree]
  exact ⟨_, rfl⟩

/-! ### What an accepted verdict does (Table 15.6) -/

theorem levelOf_eq_parcel : ∀ {n : Nat}, levelOf n = .parcel ↔ n = 2
  | 0 | 1 | 2 | _ + 3 => by simp [levelOf]

section
variable {c : Cmd} {s : State} {a : Accepted}

theorem fwStageVerdict_raises (h : fwStageVerdict c s = .accept a) (n : Nat) (u : State) :
    a.effect n u = { u with boot := u.boot.raiseSlot (c.flag 0) } := by
  cases (verdictOf_accept h).1
  rfl

/-- R365: the HANDOVER action is for the slot that does not run. -/
theorem handoverVerdict_creates (h : handoverVerdict c s = .accept a) (hf : c.flag 0 = false) (n : Nat) (u : State) :
    a.effect n u = addAction c.parcel c.trigger (.handover (bit (!s.boot.slotB)) n)
      { u with boot := u.boot.raiseSlot (!s.boot.slotB) } := by
  unfold handoverVerdict at h
  dsimp only at h
  rw [if_neg (by simp [hf])] at h
  cases (verdictOf_accept h).1
  rfl

theorem handoverVerdict_cancels (h : handoverVerdict c s = .accept a) (hf : c.flag 0 = true) (n : Nat) (u : State) :
    a.effect n u = dropAction (c.word 32) { u with boot := u.boot.raiseSlot (!s.boot.slotB) } := by
  unfold handoverVerdict at h
  dsimp only at h
  rw [if_pos hf] at h
  cases (verdictOf_accept h).1
  rfl

/-- R374: any level but PARCEL needs no subject, and ends a session that has one. -/
theorem debugVerdict_sets (h : debugVerdict c s = .accept a) (hl : c.arg 0 2 ≠ 2) (n : Nat) (u : State) :
    a.effect n u = { closeDebug u with dbg := { (closeDebug u).dbg with level := levelOf (c.arg 0 2) } } := by
  cases (verdictOf_accept h).1
  exact if_neg (by simpa [levelOf_eq_parcel] using hl)

theorem debugVerdict_consents (h : debugVerdict c s = .accept a) (hl : c.arg 0 2 = 2) (n : Nat) (u : State) :
    a.effect n u = { u with dbg := { u.dbg with
      level := .parcel, subject := c.arg 16 16, notAfter := bitsAt (leNat (c.buffer.take 128)) 192 64
      subjectVersion := ((u.parcel (c.arg 16 16)).map (·.version)).getD 0 } } := by
  cases (verdictOf_accept h).1
  rw [hl]
  rfl

/-- R294: an audit of the pool at acceptance finds no other running. -/
theorem auditVerdict_pool (h : auditVerdict c s = .accept a) (hl : c.flag 0 = false) (hs : c.flag 2 = false) :
    s.xbar.walk = none ∧
      ∀ n u, a.effect n u = (startPoolAudit (c.flag 1) (some n) c.pair c.addr c.ring c.dataOk u).getD u := by
  have hbusy := (verdictOf_accept h).2 (s.xbar.walk.isSome, Status.busy) (by simp [hl, hs])
  cases (verdictOf_accept h).1
  exact ⟨by simpa using hbusy, fun n u => by simp only [hl, hs, Bool.false_eq_true, if_false]⟩

/-- R384: an audit of a region at acceptance finds the region, and its running mark free. -/
theorem auditVerdict_ledger (h : auditVerdict c s = .accept a) (hl : c.flag 0 = true) (hs : c.flag 2 = false) :
    (∃ x, s.regionAt (c.arg 32 32) = some x ∧ x.2.running = none) ∧
      ∀ n u, a.effect n u = (startLedgerAudit (c.arg 32 32) (some n) c.pair c.addr c.ring c.dataOk u).getD u := by
  have hbad := (verdictOf_accept h).2 (((s.regionAt (c.arg 32 32)).map (·.2)).isNone || decide (c.len < 64), Status.badArg)
    (by simp [hl, hs])
  have hbusy := (verdictOf_accept h).2 (((s.regionAt (c.arg 32 32)).map (·.2)).any fun r => r.running.isSome, Status.busy)
    (by simp [hl, hs])
  cases (verdictOf_accept h).1
  refine ⟨?_, fun n u => by simp only [hl, hs, Bool.false_eq_true, if_false, if_true]⟩
  cases hx : s.regionAt (c.arg 32 32) with
  | none => simp [hx] at hbad
  | some x => exact ⟨x, rfl, by simpa [hx] using hbusy⟩

theorem auditVerdict_schedules (h : auditVerdict c s = .accept a) (hs : c.flag 2 = true) (n : Nat) (u : State) :
    a.effect n u = addAction c.parcel c.trigger
      (.audit (!c.flag 0) (c.flag 1) (c.arg 32 32) c.pair c.addr c.ring c.len) u := by
  cases (verdictOf_accept h).1
  exact if_pos hs

end

/-! ### O18 -/

/-- Settles O18: each clause is what the opcode's verdict makes of the command, in the state that has journaled it. -/
theorem firmwareDebugAuditCommandsComplete : Obligations.FirmwareDebugAuditCommandsComplete := by
  unfold Obligations.FirmwareDebugAuditCommandsComplete
  refine ⟨?stage, ?handover, ?cancel, ?level, ?subject, ?pool, ?ledger, ?scheduled⟩
  case stage =>
    exact fun c s a h => runCommand_of_effect h ((fwStageVerdict_raises (Accepts.own h) _ _).trans (by rw [begun_boot]))
  case handover =>
    exact fun c s a h => runCommand_of_effect h
      ((handoverVerdict_creates (Accepts.own h) (flag_clear_of_form h.form) _ _).trans (by rw [begun_boot]))
  case cancel =>
    exact fun c s a h => runCommand_of_effect h
      ((handoverVerdict_cancels (Accepts.own h) (flag_set_of_form h.form) _ _).trans (by rw [begun_boot]))
  case level => exact fun c s a h hl => runCommand_of_effect h (debugVerdict_sets (Accepts.own h) hl _ _)
  case subject =>
    exact fun c s a h hl => runCommand_of_effect h
      ((debugVerdict_consents (Accepts.own h) hl _ _).trans (by rw [begun_dbg, begun_parcel]))
  case pool =>
    intro c s a h
    obtain ⟨-, hl, hs⟩ := of_decide_eq_true h.form
    obtain ⟨hidle, he⟩ := auditVerdict_pool (Accepts.own h) (by simpa using hl) (by simpa using hs)
    refine runCommand_of_effect h ((he _ _).trans ?_)
    rw [startPoolAudit_of_idle (by rw [begun_xbar, hidle]), begun_clock, begun_xbar, Option.getD_some]
  case ledger =>
    intro c s a h
    obtain ⟨-, hl, hs⟩ := of_decide_eq_true h.form
    obtain ⟨⟨x, hx, hfree⟩, he⟩ := auditVerdict_ledger (Accepts.own h) hl (by simpa using hs)
    obtain ⟨t, ht⟩ := startLedgerAudit_isSome ((begun_regionAt s c a _).trans hx) hfree (some s.book.next) (s.loaded c).pair
      (s.loaded c).addr (s.loaded c).ring (s.loaded c).dataOk
    exact ⟨t, ht, runCommand_of_effect h ((he _ _).trans (by rw [ht, Option.getD_some]))⟩
  case scheduled =>
    exact fun c s a h => runCommand_of_effect h (auditVerdict_schedules (Accepts.own h) (flag_set_of_form h.form) _ _)

end Sys2Proof.Proofs
end

section
/-! The end of an audit: a pool audit's record (R294, R295) and the rows that end the audits (R294, R296, R323, R384). With them O50. -/
namespace Sys2Proof.Proofs
open Sys2Proof.Machine Sys2Proof.Laws

/-! ### The bytes of a pool audit (Tables 13.3, 13.4) -/

@[simp] theorem length_ownerEntry (s : State) (before kind index : Nat) (failed : Bool) (ids : List Nat) :
    (ownerEntry s before kind index failed ids).length = 16 := by
  unfold ownerEntry
  split
  · exact List.length_replicate
  · exact length_leBytes ..

/-- R295: the 159 output ports, 30 ledger-ingress and 32 egress resequencers have an entry each. -/
theorem length_ownerEntries (s : State) (before : Nat) : (ownerEntries s before).length = 16 * (159 + 30 + 32) := by
  simp [ownerEntries, List.length_flatMap]

/-- R294: the record is a header and the owner entries. -/
theorem poolAudit_record (w : PoolWalk) (s : State) : ∃ header, (poolAudit w s).2 = leBytes 64 header ++ ownerEntries s w.before :=
  ⟨_, rfl⟩

theorem length_poolAudit (w : PoolWalk) (s : State) : (poolAudit w s).2.length = 3600 := by
  obtain ⟨header, hrecord⟩ := poolAudit_record w s
  rw [hrecord, List.length_append, length_leBytes, length_ownerEntries]

/-! ### The rows -/

theorem exec_poolAuditDone_of_walk {s u : State} {w : PoolWalk} {record : Bytes} (hw : s.xbar.walk = some w)
    (hu : poolAudit w s = (u, record)) :
    exec .poolAuditDone s = .next (auditReady w.seq w.busOk
      (if w.busOk then writeHost w.pair w.addr w.ring record u else u).xbar.audits.toNat
      (if w.busOk then writeHost w.pair w.addr w.ring record u else u)) := by
  change execPoolAuditDone s = _
  unfold execPoolAuditDone
  simp only [hw, hu]

/-- R347, R384: the ledger audit in front ends once the groups of the region's pairs run. -/
theorem endLedgerWalk_of_front {s : State} {w : LedgerWalk} {rest : List LedgerWalk} {pairs : List Nat} (hw : s.ledgerWalks = w :: rest)
    (hpairs : pairs = ((s.regionAt w.handle).map fun r => s.regionPairs r.2).getD []) (hrun : s.pairsRun pairs = true) :
    endLedgerWalk s = ledgerAudit w (workPairs pairs { s with ledgerWalks := rest }) := by
  unfold endLedgerWalk
  simp only [hw, ← hpairs, hrun, if_true]

theorem ledgerAudit_of_gone {s : State} {w : LedgerWalk} (h : s.regionAt w.handle = none) :
    ledgerAudit w s = auditReady w.seq w.busOk 0 s := by
  unfold ledgerAudit
  rw [h]

/-! ### O50 -/

/-- Settles O50: each row's lemma, the length of the record, and the audit of a region that is gone. -/
theorem auditsComplete : Obligations.AuditsComplete := by
  unfold Obligations.AuditsComplete
  refine ⟨?pool, fun s w => length_poolAudit w s, ?ledger, fun s w => ledgerAudit_of_gone⟩
  case pool => exact fun s w u hw hu => exec_poolAuditDone_of_walk hw hu.symm
  case ledger =>
    rintro a fs s w rest hfaults rfl hw hrun
    exact (guardUnit_of_exists hfaults).trans (congrArg _ (endLedgerWalk_of_front hw rfl hrun))

end Sys2Proof.Proofs
end

section
/-! What every row and every step keeps (R307, R337, R356, R376): the queue, the invariant, the fuses and, by the row's kind, the quiet parts of the
state and the bytes of HBM. With them O1, O3, O4 and O7. -/
namespace Sys2Proof.Proofs
open Sys2Proof.Machine Sys2Proof.Laws

/-- A relation that asks for more asks for the least too. -/
theorem Evolves.weaken {qt bt : Bool} {a b : State} (h : Evolves qt bt a b) : Evolves false false a b :=
  ⟨h.pending, h.inv, h.fuses, nofun, nofun⟩

/-- Every row keeps the relation: the quiet parts where it is outside `stirs`, the bytes of HBM where it is outside `storesHbm`. -/
theorem exec_keeps (i : Instr) (s : State) : OutcomeKeeps (!i.stirs) (!i.storesHbm) s (exec i s) := by
  cases i with
  | query => exact execQuery_ev
  | fieldbookRead => exact execFieldbookRead_ev
  | parcelCreate => exact execParcelCreate_ev
  | setPlat => exact execSetPlat_ev
  | parcelRemove => exact execParcelRemove_ev
  | platSet => exact execPlatSet_ev
  | traverseOpen => exact execTraverseOpen_ev
  | traverseClose => exact execTraverseClose_ev
  | traverseCloseForce => exact execTraverseCloseForce_ev
  | genOpen => exact execGenOpen_ev
  | tallySet => exact execTallySet_ev
  | tallySetFree => exact execTallySetFree_ev
  | ledgerAllocCreate => exact execLedgerAllocCreate_ev
  | ledgerAllocChange => exact execLedgerAllocChange_ev
  | ledgerAllocFree => exact execLedgerAllocFree_ev
  | ledgerLoad => exact execLedgerLoad_ev
  | ledgerLoadZero => exact execLedgerLoadZero_ev
  | ledgerSave => exact execLedgerSave_ev
  | apply => exact execApply_ev
  | applyDiscard => exact execApplyDiscard_ev
  | normReadLocal => exact execNormReadLocal_ev
  | normReadRead => exact execNormReadRead_ev
  | serveArm => exact execServeArm_ev
  | serveDisarm => exact execServeDisarm_ev
  | basisLoad => exact execBasisLoad_ev
  | basisBind => exact execBasisBind_ev
  | mapSelectImmediate => exact execMapSelectImmediate_ev
  | mapSelectAction => exact execMapSelectAction_ev
  | mapSelectDelete => exact execMapSelectDelete_ev
  | routeStage => exact execRouteStage_ev
  | routeCommit => exact execRouteCommit_ev
  | mirrorSet => exact execMirrorSet_ev
  | mirrorSetPart => exact execMirrorSetPart_ev
  | budgetSet => exact execBudgetSet_ev
  | stationSource => exact execStationSource_ev
  | stationSourceOff => exact execStationSourceOff_ev
  | memberRemap => exact execMemberRemap_ev
  | admitRestartOnly => exact execAdmitRestartOnly_ev
  | admitWarm => exact execAdmitWarm_ev
  | easementGrant => exact execEasementGrant_ev
  | easementRevoke => exact execEasementRevoke_ev
  | fwStage => exact execFwStage_ev
  | fwHandover => exact execFwHandover_ev
  | fwHandoverCancel => exact execFwHandoverCancel_ev
  | debugOpen => exact execDebugOpen_ev
  | auditReadPool => exact execAuditReadPool_ev
  | auditReadLedger => exact execAuditReadLedger_ev
  | auditReadScheduled => exact execAuditReadScheduled_ev
  | commandEffectEnd => exact execCommandEffectEnd_ev
  | pairEnable => exact execPairEnable_ev
  | pairDisable => exact execPairDisable_ev
  | cmdDoorbell => exact execCmdDoorbell_ev
  | cmpDoorbell => exact execCmpDoorbell_ev
  | registerWrite => exact execRegisterWrite_ev
  | mgmtCommandFrame => exact execMgmtCommandFrame_ev
  | mgmtRegRead => exact execMgmtRegRead_ev
  | mgmtRegWrite => exact execMgmtRegWrite_ev
  | laneFrameIngress => exact execLaneFrameIngress_ev
  | allocRetry => exact execAllocRetry_ev
  | outputFrameStart => exact execOutputFrameStart_ev
  | outputFrameEnd => exact execOutputFrameEnd_ev
  | epochDrained => exact execEpochDrained_ev
  | sprayJoin => exact execSprayJoin_ev
  | descriptorAgeDrop => exact execDescriptorAgeDrop_ev
  | bufferThresholdUpdate => exact execBufferThresholdUpdate_ev
  | telemetryPeriod => exact execTelemetryPeriod_ev
  | reseqFrameArrival => exact execReseqFrameArrival_ev
  | holeSkip => exact execHoleSkip_ev
  | seqFlowRetire => exact execSeqFlowRetire_ev
  | egReseqFrameArrival => exact execEgReseqFrameArrival_ev
  | egHoleSkip => exact execEgHoleSkip_ev
  | ledgerFrameReceive => exact execLedgerFrameReceive_ev
  | surveyFrame => exact execSurveyFrame_ev
  | openFrame => exact execOpenFrame_ev
  | datumFrame => exact execDatumFrame_ev
  | doneFrame => exact execDoneFrame_ev
  | abortCommonFrame => exact execAbortCommonFrame_ev
  | abortReqFrame => exact execAbortReqFrame_ev
  | resultFrame => exact execResultFrame_ev
  | serveRequest => exact execServeRequest_ev
  | layerGenerationOpen => exact execLayerGenerationOpen_ev
  | verdictQueryFrame => exact execVerdictQueryFrame_ev
  | releaseQueryFrame => exact execReleaseQueryFrame_ev
  | genMemberTimeout => exact execGenMemberTimeout_ev
  | broadcastMemberTimeout => exact execBroadcastMemberTimeout_ev
  | verdictWaitTimeout => exact execVerdictWaitTimeout_ev
  | contextDrop => exact execContextDrop_ev
  | bindingPrevClear => exact execBindingPrevClear_ev
  | tallyArrival => exact execTallyArrival_ev
  | tallyRelease => exact execTallyRelease_ev
  | tallyMemberLate => exact execTallyMemberLate_ev
  | timeoutReqFrame => exact execTimeoutReqFrame_ev
  | stationMark => exact execStationMark_ev
  | stationInWord => exact execStationInWord_ev
  | handoverEnd => exact execHandoverEnd_ev
  | actionConfirm => exact execActionConfirm_ev
  | replicaSync => exact execReplicaSync_ev
  | stationTimeout => exact execStationTimeout_ev
  | spillStart => exact execSpillStart_ev
  | spillAck => exact execSpillAck_ev
  | fillDone => exact execFillDone_ev
  | scatterAdd => exact execScatterAdd_ev
  | patrolScrubLine => exact execPatrolScrubLine_ev
  | mapoutStart => exact execMapoutStart_ev
  | mapoutDone => exact execMapoutDone_ev
  | poolAuditDone => exact execPoolAuditDone_ev
  | ledgerAuditDone => exact execLedgerAuditDone_ev
  | basisReady => exact execBasisReady_ev
  | arraySelftestDone => exact execArraySelftestDone_ev
  | linkControlWord => exact execLinkControlWord_ev
  | rateRecovery => exact execRateRecovery_ev
  | goingIdleExpiry => exact execGoingIdleExpiry_ev
  | bringupIdleEnd => exact execBringupIdleEnd_ev
  | ckWindowSwitch => exact execCkWindowSwitch_ev
  | ckLock => exact execCkLock_ev
  | losCheckPass => exact execLosCheckPass_ev
  | trainingRow => exact execTrainingRow_ev
  | bringupStepTimeout => exact execBringupStepTimeout_ev
  | losAssert => exact execLosAssert_ev
  | losClear => exact execLosClear_ev
  | lossOfLock => exact execLossOfLock_ev
  | lockRegained => exact execLockRegained_ev
  | refclkInputLost => exact execRefclkInputLost_ev
  | xdHeartbeatMiss => exact execXdHeartbeatMiss_ev
  | ledgerHeartbeatMiss => exact execLedgerHeartbeatMiss_ev
  | mdHeartbeatMiss => exact execMdHeartbeatMiss_ev
  | mgmtWatchdogExpiry => exact execMgmtWatchdogExpiry_ev
  | seqWatchdogExpiry => exact execSeqWatchdogExpiry_ev
  | laneWatchdogExpiry => exact execLaneWatchdogExpiry_ev
  | timebaseWatchdogExpiry => exact execTimebaseWatchdogExpiry_ev
  | deadmanExpiry => exact execDeadmanExpiry_ev
  | supplyRailEvent => exact execSupplyRailEvent_ev
  | vddAonRise => exact execVddAonRise_ev
  | resetNAssert => exact execResetNAssert_ev
  | resetNRelease => exact execResetNRelease_ev
  | resetReleaseEffective => exact execResetReleaseEffective_ev
  | bootVerifyDone => exact execBootVerifyDone_ev
  | bootReady => exact execBootReady_ev
  | mpPerstAssert => exact execMpPerstAssert_ev
  | mpPerstRelease => exact execMpPerstRelease_ev
  | powerStateEntry => exact execPowerStateEntry_ev
  | powerExitDone => exact execPowerExitDone_ev
  | wakePoint => exact execWakePoint_ev
  | powerLoopTick => exact execPowerLoopTick_ev
  | hwThrottle => exact execHwThrottle_ev
  | thermtrip => exact execThermtrip_ev
  | extest => exact execExtest_ev
  | samplePreload => exact execSamplePreload_ev
  | idcode => exact execIdcode_ev
  | clamp => exact execClamp_ev
  | highz => exact execHighz_ev
  | bypass => exact execBypass_ev
  | supplyRec => exact execSupplyRec_ev
  | tdState => exact execTdState_ev
  | bootLog => exact execBootLog_ev
  | monumentRead => exact execMonumentRead_ev
  | attest => exact execAttest_ev
  | lcTransition => exact execLcTransition_ev
  | dbgTrace => exact execDbgTrace_ev
  | dbgMem => exact execDbgMem_ev
  | dbgCtrl => exact execDbgCtrl_ev
  | cellSlot => exact execCellSlot_ev
  | timebaseHeartbeatMiss => exact execTimebaseHeartbeatMiss_ev
  | refclkInputReturn => exact execRefclkInputReturn_ev
  | powerStateEntryDone => exact execPowerStateEntryDone_ev
  | zeroingLine => exact execZeroingLine_ev
  | ringMemoryWrite => exact execRingMemoryWrite_ev
  | pairAbandoned => exact execPairAbandoned_ev
  | tapReset => exact execTapReset_ev
  | mdFirmwareFault => exact execMdFirmwareFault_ev
/-- A step keeps the relation, and takes the front command off the queue. -/
theorem step_keeps {s t : State} (h : step s = .next t) :
    Evolves false false { s with pending := s.pending.tail } t := by
  unfold step at h
  split at h
  case h_1 hnil =>
    cases h
    rw [hnil]
    exact .update (.refl { s with pending := [] }) (.refl _) (.refl _) (.refl _) rfl rfl rfl rfl rfl rfl rfl nofun
  case h_2 c rest hcons =>
    rw [hcons]
    exact Evolves.weaken (exec_keeps c _ _ h)

/-! ### O3, O4, O1, O7 -/

/-- Settles O3: the invariant does not speak of the queue, and the rest of a step keeps it. -/
theorem everyStepKeepsTheInvariant : Obligations.EveryStepKeepsTheInvariant := by
  unfold Obligations.EveryStepKeepsTheInvariant
  exact fun s t hinv h => (step_keeps h).inv hinv

/-- Settles O4: every row's relation holds the fuses to going forward. -/
theorem fusesOnlyGain : Obligations.FusesOnlyGain := by
  unfold Obligations.FusesOnlyGain
  exact fun s t h => (step_keeps h).fuses

/-- Settles O7: the relation of a row with the flags that `stirs` and `storesHbm` leave set. -/
theorem rowsLeaveTheRest : Obligations.RowsLeaveTheRest := by
  unfold Obligations.RowsLeaveTheRest
  refine ⟨fun i s t hi h => (exec_keeps i s t h).quiet (by simp [hi]), fun i s t hi h die x => ?_⟩
  rw [(exec_keeps i s t h).bytes (by simp [hi]) die]

/-- Settles O1: a step is its case on the queue, and no row changes the queue of those behind it. -/
theorem stepRunsTheFrontCommand : Obligations.StepRunsTheFrontCommand := by
  unfold Obligations.StepRunsTheFrontCommand
  refine ⟨?front, ?empty, fun c s t h => (exec_keeps c s t h).pending, fun c s t h => (step_keeps h).pending⟩
  case front => intro c s rest hq; unfold step; rw [hq]
  case empty => intro s hq; unfold step; rw [hq]

end Sys2Proof.Proofs
end

section
/-! A row is a guard on its operands' units (Tables 0.1, 1.1, 1.2, 16.1; log 1), and O5. -/
namespace Sys2Proof.Proofs
open Sys2Proof.Machine Sys2Proof.Laws

theorem isSome_groupOfDieId (d : Nat) : (groupOfDieId d).isSome = groupedDieOk d := by
  rw [Bool.eq_iff_iff]
  unfold groupOfDieId groupedDieOk
  split_ifs <;> simp <;> omega

theorem isSome_throttleAtC (d : Nat) : (throttleAtC d).isSome = groupedDieOk d := by
  rw [← isSome_groupOfDieId, throttleAtC, Option.isSome_map, loopAtC]
  cases groupOfDieId d with
  | none => rfl
  | some g => simp only [Option.isNone_some, Bool.false_eq_true, if_false, Option.isSome_some]; split <;> rfl

theorem dieExists_eq (d : Nat) : dieExists d = dieIdOk d := by
  rw [dieExists, isSome_groupOfDieId, dieIdOk]

theorem throttleUnit_eq (d : Nat) : ((throttleAtC d).isSome || d == 0x81 || d == 0x82 || d == 0x83) = dieIdOk d := by
  rw [isSome_throttleAtC, dieIdOk]

/-- Tables 0.1, 1.1, 1.2, 16.1: every row stops by the fault on what its well-formedness refuses, and runs on all else. -/
theorem exec_eq_guardUnit (i : Instr) (s : State) : ∃ t, exec i s = guardUnit i.wf t := by
  cases i with
  | query => exact ⟨_, rfl⟩
  | fieldbookRead => exact ⟨_, rfl⟩
  | parcelCreate => exact ⟨_, rfl⟩
  | setPlat => exact ⟨_, rfl⟩
  | parcelRemove => exact ⟨_, rfl⟩
  | platSet => exact ⟨_, rfl⟩
  | traverseOpen => exact ⟨_, rfl⟩
  | traverseClose => exact ⟨_, rfl⟩
  | traverseCloseForce => exact ⟨_, rfl⟩
  | genOpen => exact ⟨_, rfl⟩
  | tallySet => exact ⟨_, rfl⟩
  | tallySetFree => exact ⟨_, rfl⟩
  | ledgerAllocCreate => exact ⟨_, rfl⟩
  | ledgerAllocChange => exact ⟨_, rfl⟩
  | ledgerAllocFree => exact ⟨_, rfl⟩
  | ledgerLoad => exact ⟨_, rfl⟩
  | ledgerLoadZero => exact ⟨_, rfl⟩
  | ledgerSave => exact ⟨_, rfl⟩
  | apply => exact ⟨_, rfl⟩
  | applyDiscard => exact ⟨_, rfl⟩
  | normReadLocal => exact ⟨_, rfl⟩
  | normReadRead => exact ⟨_, rfl⟩
  | serveArm => exact ⟨_, rfl⟩
  | serveDisarm => exact ⟨_, rfl⟩
  | basisLoad => exact ⟨_, rfl⟩
  | basisBind => exact ⟨_, rfl⟩
  | mapSelectImmediate => exact ⟨_, rfl⟩
  | mapSelectAction => exact ⟨_, rfl⟩
  | mapSelectDelete => exact ⟨_, rfl⟩
  | routeStage => exact ⟨_, rfl⟩
  | routeCommit => exact ⟨_, rfl⟩
  | mirrorSet => exact ⟨_, rfl⟩
  | mirrorSetPart => exact ⟨_, rfl⟩
  | budgetSet => exact ⟨_, rfl⟩
  | stationSource => exact ⟨_, rfl⟩
  | stationSourceOff => exact ⟨_, rfl⟩
  | memberRemap => exact ⟨_, rfl⟩
  | admitRestartOnly => exact ⟨_, rfl⟩
  | admitWarm => exact ⟨_, rfl⟩
  | easementGrant => exact ⟨_, rfl⟩
  | easementRevoke => exact ⟨_, rfl⟩
  | fwStage => exact ⟨_, rfl⟩
  | fwHandover => exact ⟨_, rfl⟩
  | fwHandoverCancel => exact ⟨_, rfl⟩
  | debugOpen => exact ⟨_, rfl⟩
  | auditReadPool => exact ⟨_, rfl⟩
  | auditReadLedger => exact ⟨_, rfl⟩
  | auditReadScheduled => exact ⟨_, rfl⟩
  | commandEffectEnd => exact ⟨_, rfl⟩
  | pairEnable => exact ⟨_, rfl⟩
  | pairDisable => exact ⟨_, rfl⟩
  | cmdDoorbell => exact ⟨_, rfl⟩
  | cmpDoorbell => exact ⟨_, rfl⟩
  | registerWrite => exact ⟨_, rfl⟩
  | mgmtCommandFrame => exact ⟨_, rfl⟩
  | mgmtRegRead => exact ⟨_, rfl⟩
  | mgmtRegWrite => exact ⟨_, rfl⟩
  | laneFrameIngress => exact ⟨_, rfl⟩
  | allocRetry => exact ⟨_, rfl⟩
  | outputFrameStart => exact ⟨_, rfl⟩
  | outputFrameEnd => exact ⟨_, rfl⟩
  | epochDrained => exact ⟨_, rfl⟩
  | sprayJoin => exact ⟨_, rfl⟩
  | descriptorAgeDrop => exact ⟨_, rfl⟩
  | bufferThresholdUpdate => exact ⟨_, rfl⟩
  | telemetryPeriod => exact ⟨_, rfl⟩
  | reseqFrameArrival => exact ⟨_, rfl⟩
  | holeSkip => exact ⟨_, rfl⟩
  | seqFlowRetire => exact ⟨_, rfl⟩
  | egReseqFrameArrival => exact ⟨_, rfl⟩
  | egHoleSkip => exact ⟨_, rfl⟩
  | ledgerFrameReceive => exact ⟨_, rfl⟩
  | surveyFrame => exact ⟨_, rfl⟩
  | openFrame => exact ⟨_, rfl⟩
  | datumFrame => exact ⟨_, rfl⟩
  | doneFrame => exact ⟨_, rfl⟩
  | abortCommonFrame => exact ⟨_, rfl⟩
  | abortReqFrame => exact ⟨_, rfl⟩
  | resultFrame => exact ⟨_, rfl⟩
  | serveRequest => exact ⟨_, rfl⟩
  | layerGenerationOpen => exact ⟨_, rfl⟩
  | verdictQueryFrame => exact ⟨_, rfl⟩
  | releaseQueryFrame => exact ⟨_, rfl⟩
  | genMemberTimeout => exact ⟨_, rfl⟩
  | broadcastMemberTimeout => exact ⟨_, rfl⟩
  | verdictWaitTimeout => exact ⟨_, rfl⟩
  | contextDrop => exact ⟨_, rfl⟩
  | bindingPrevClear => exact ⟨_, rfl⟩
  | tallyArrival => exact ⟨_, rfl⟩
  | tallyRelease => exact ⟨_, rfl⟩
  | tallyMemberLate => exact ⟨_, rfl⟩
  | timeoutReqFrame => exact ⟨_, rfl⟩
  | stationMark => exact ⟨_, rfl⟩
  | stationInWord => exact ⟨_, rfl⟩
  | handoverEnd outcome => cases outcome <;> exact ⟨_, rfl⟩
  | actionConfirm => exact ⟨_, rfl⟩
  | replicaSync => exact ⟨_, rfl⟩
  | stationTimeout => exact ⟨_, rfl⟩
  | spillStart => exact ⟨_, rfl⟩
  | spillAck => exact ⟨_, rfl⟩
  | fillDone => exact ⟨_, rfl⟩
  | scatterAdd => exact ⟨_, rfl⟩
  | patrolScrubLine => exact ⟨_, rfl⟩
  | mapoutStart => exact ⟨_, rfl⟩
  | mapoutDone => exact ⟨_, rfl⟩
  | poolAuditDone => exact ⟨_, rfl⟩
  | ledgerAuditDone => exact ⟨_, rfl⟩
  | basisReady => exact ⟨_, rfl⟩
  | arraySelftestDone => exact ⟨_, rfl⟩
  | linkControlWord => exact ⟨_, rfl⟩
  | rateRecovery => exact ⟨_, rfl⟩
  | goingIdleExpiry => exact ⟨_, rfl⟩
  | bringupIdleEnd => exact ⟨_, rfl⟩
  | ckWindowSwitch => exact ⟨_, rfl⟩
  | ckLock => exact ⟨_, rfl⟩
  | losCheckPass => exact ⟨_, rfl⟩
  | trainingRow => exact ⟨_, rfl⟩
  | bringupStepTimeout => exact ⟨_, rfl⟩
  | losAssert => exact ⟨_, rfl⟩
  | losClear => exact ⟨_, rfl⟩
  | lossOfLock => exact ⟨_, rfl⟩
  | lockRegained => exact ⟨_, rfl⟩
  | refclkInputLost => exact ⟨_, rfl⟩
  | xdHeartbeatMiss => exact ⟨_, rfl⟩
  | ledgerHeartbeatMiss => exact ⟨_, rfl⟩
  | mdHeartbeatMiss => exact ⟨_, rfl⟩
  | mgmtWatchdogExpiry => exact ⟨_, rfl⟩
  | seqWatchdogExpiry => exact ⟨_, rfl⟩
  | laneWatchdogExpiry => exact ⟨_, rfl⟩
  | timebaseWatchdogExpiry => exact ⟨_, rfl⟩
  | deadmanExpiry => exact ⟨_, rfl⟩
  | supplyRailEvent => exact ⟨_, rfl⟩
  | vddAonRise => exact ⟨_, rfl⟩
  | resetNAssert => exact ⟨_, rfl⟩
  | resetNRelease => exact ⟨_, rfl⟩
  | resetReleaseEffective => exact ⟨_, rfl⟩
  | bootVerifyDone => exact ⟨_, rfl⟩
  | bootReady => exact ⟨_, rfl⟩
  | mpPerstAssert => exact ⟨_, rfl⟩
  | mpPerstRelease => exact ⟨_, rfl⟩
  | powerStateEntry => exact ⟨_, rfl⟩
  | powerExitDone => exact ⟨_, rfl⟩
  | wakePoint => exact ⟨_, rfl⟩
  | powerLoopTick => exact ⟨_, rfl⟩
  | hwThrottle d => exact ⟨_, congrArg (guardUnit · _) (throttleUnit_eq d)⟩
  | thermtrip d => exact ⟨_, congrArg (guardUnit · _) (dieExists_eq d)⟩
  | extest => exact ⟨_, rfl⟩
  | samplePreload => exact ⟨_, rfl⟩
  | idcode => exact ⟨_, rfl⟩
  | clamp => exact ⟨_, rfl⟩
  | highz => exact ⟨_, rfl⟩
  | bypass => exact ⟨_, rfl⟩
  | supplyRec => exact ⟨_, rfl⟩
  | tdState => exact ⟨_, rfl⟩
  | bootLog => exact ⟨_, rfl⟩
  | monumentRead => exact ⟨_, rfl⟩
  | attest => exact ⟨_, rfl⟩
  | lcTransition => exact ⟨_, rfl⟩
  | dbgTrace d => exact ⟨_, congrArg (fun b => guardUnit (b && !(0x60 ≤ d && d < 0x7E)) _) (dieExists_eq d)⟩
  | dbgMem => exact ⟨_, rfl⟩
  | dbgCtrl => exact ⟨_, rfl⟩
  | cellSlot => exact ⟨_, rfl⟩
  | timebaseHeartbeatMiss => exact ⟨_, rfl⟩
  | refclkInputReturn => exact ⟨_, rfl⟩
  | powerStateEntryDone => exact ⟨_, rfl⟩
  | zeroingLine => exact ⟨_, rfl⟩
  | ringMemoryWrite => exact ⟨_, rfl⟩
  | pairAbandoned => exact ⟨_, rfl⟩
  | tapReset => exact ⟨_, rfl⟩
  | mdFirmwareFault => exact ⟨_, rfl⟩

/-! ### O5 -/

/-- Settles O5: a row is a guard on its well-formedness. -/
theorem wellFormedCommandsRun : Obligations.WellFormedCommandsRun := by
  unfold Obligations.WellFormedCommandsRun
  refine ⟨fun c s h => ?_, fun c s h => ?_⟩ <;> obtain ⟨t, ht⟩ := exec_eq_guardUnit c s
  · exact ⟨t, by rw [ht, h]; rfl⟩
  · rw [ht, h]; rfl

end Sys2Proof.Proofs
end

section
/-! The state right after reset (R298, R337, R343, R370), and O2. -/
namespace Sys2Proof.Proofs
open Sys2Proof.Machine Sys2Proof.Laws

/-- R298, R370 (Table 14.2): parcel 0 holds pairs 0, 1 and 63, and no register of a pair is set. -/
theorem reset_pair {n : Nat} (hn : n < 64) :
    State.reset.pair n = if n = 0 ∨ n = 1 ∨ n = 63 then { parcel := 0 } else {} := by
  simp [State.pair, State.reset, resetPairs, hn]

/-- R343 (Table 5.2): each timebase die starts with 64 streams of the default record. -/
theorem reset_streamAt {tb n : Nat} (htb : tb < 2) (hn : n < 64) : State.reset.streamAt tb n = {} := by
  have htimebase : State.reset.timebases.getD tb {} = { streams := List.replicate 64 {} } := List.getD_replicate _ htb
  rw [State.streamAt, htimebase]
  exact List.getD_replicate _ hn

theorem reset_inv : State.reset.inv = true := by
  rw [inv_iff]
  simp [State.reset, resetPairs, Memory.wf, Memory.wfFrom, Trust.inBounds]

/-- Settles O2: the reset state's fields, its pairs and its streams. -/
theorem resetLeavesAnEmptyPart : Obligations.ResetLeavesAnEmptyPart := by
  unfold Obligations.ResetLeavesAnEmptyPart
  refine ⟨reset_inv, rfl, rfl, rfl, rfl, rfl, rfl, rfl, rfl, rfl, rfl, rfl, rfl, rfl, by simp [State.reset, resetPairs], by simp [State.reset], ?pairs, ?streams⟩
  case pairs =>
    intro n hn
    rw [reset_pair hn]
    split <;> simp [*]
  case streams =>
    intro tb n htb hn
    rw [reset_streamAt htb hn]

end Sys2Proof.Proofs
end

section
/-! Writes of a pair's registers and of ring memory (R297, R299-R301, R309, R310): who is discarded, what each register's write does. With them O19,
O20 and O21. -/
namespace Sys2Proof.Proofs
open Sys2Proof.Machine Sys2Proof.Laws

variable {a : Access} {who : Owner} {n r : Nat} {v : BitVec 32} {s : State}

/-! ### The rows as writes of a register (Table 14.1) -/

theorem pairRegister_at (hn : n < 64) (hr : r < 8) : pairRegister (0x1000 + 32 * n + 4 * r) = some (n, r) := by
  unfold pairRegister
  rw [if_pos (by omega)]
  simp only [Option.some.injEq, Prod.mk.injEq]
  omega

/-- R300, R341: an access that its endpoint delivers writes the register. -/
theorem pairWrite_reachable (hreach : s.reachable a = true) :
    pairWrite a n r v s = writeRegister (whoOf a) (0x1000 + 32 * n + 4 * r) v s := if_pos hreach

theorem unit_of_access (hok : accessOk a = true) (hn : n < 64) : (accessOk a && decide (n < 64)) = true := by simp [hok, hn]

theorem exec_pairEnable (hok : accessOk a = true) (hn : n < 64) (hreach : s.reachable a = true) (hv : v.getLsbD 0 = true) :
    exec (.pairEnable a n v) s = .next (writeRegister (whoOf a) (0x1000 + 32 * n + 4 * 0) v s) :=
  (guardUnit_of_exists (unit_of_access hok hn)).trans (by rw [if_pos hv, pairWrite_reachable hreach])

theorem exec_pairDisable (hok : accessOk a = true) (hn : n < 64) (hreach : s.reachable a = true) (hv : v.getLsbD 0 = false) :
    exec (.pairDisable a n v) s = .next (writeRegister (whoOf a) (0x1000 + 32 * n + 4 * 0) v s) :=
  (guardUnit_of_exists (unit_of_access hok hn)).trans (by rw [if_neg (ne_true_of_eq_false hv), pairWrite_reachable hreach])

theorem exec_cmdDoorbell (hok : accessOk a = true) (hn : n < 64) (hreach : s.reachable a = true) :
    exec (.cmdDoorbell a n v) s = .next (writeRegister (whoOf a) (0x1000 + 32 * n + 4 * 6) v s) :=
  (guardUnit_of_exists (unit_of_access hok hn)).trans (congrArg _ (pairWrite_reachable hreach))

theorem exec_cmpDoorbell (hok : accessOk a = true) (hn : n < 64) (hreach : s.reachable a = true) :
    exec (.cmpDoorbell a n v) s = .next (writeRegister (whoOf a) (0x1000 + 32 * n + 4 * 7) v s) :=
  (guardUnit_of_exists (unit_of_access hok hn)).trans (congrArg _ (pairWrite_reachable hreach))

theorem exec_registerWrite (hok : accessOk a = true) (hn : n < 64) (hr : r < 8) (hreach : s.reachable a = true) :
    exec (.registerWrite a (0x1000 + 32 * n + 4 * r) v) s = .next (writeRegister (whoOf a) (0x1000 + 32 * n + 4 * r) v s) :=
  (guardUnit_of_exists (by simp [hok]; omega)).trans (congrArg _ (if_pos hreach))

/-! ### What an access of pair 0's owner notes (R301) -/

@[simp] theorem touchZero_pair (m : Nat) : (touchZero who s).pair m = s.pair m := by
  unfold touchZero
  split <;> rfl

@[simp] theorem touchZero_pairs : (touchZero who s).mailbox.pairs = s.mailbox.pairs := by
  unfold touchZero
  split <;> rfl

@[simp] theorem touchZero_ring : (touchZero who s).mailbox.ring = s.mailbox.ring := by
  unfold touchZero
  split <;> rfl

@[simp] theorem touchZero_failed : (touchZero who s).mailbox.failed = s.mailbox.failed := by
  unfold touchZero
  split <;> rfl

@[simp] theorem touchZero_requesters : (touchZero who s).mailbox.requesters = s.mailbox.requesters := by
  unfold touchZero
  split <;> rfl

@[simp] theorem touchZero_seventeenth (x : Owner) : (touchZero who s).seventeenth x = s.seventeenth x := by
  cases x <;> simp [State.seventeenth]

@[simp] theorem touchZero_owns (x : Owner) (m : Nat) : (touchZero who s).owns x m = s.owns x m := by
  simp [State.owns]

@[simp] theorem touchZero_ownsZero (x : Owner) : (touchZero who s).ownsZero x = s.ownsZero x := by
  cases x <;> simp [State.ownsZero]

@[simp] theorem touchZero_ringForeign (x : Owner) (off len : Nat) : (touchZero who s).ringForeign x off len = s.ringForeign x off len := by
  simp [State.ringForeign]

theorem touchZero_of_other (h : s.owns who 0 = false) : touchZero who s = s := if_neg (by simp [h])

/-! ### Discarded, abandoned, taken (R300, R301) -/

/-- What a write that is not discarded does to register `r` of pair `n` (Table 14.1). -/
def writePairRegister (n r : Nat) (who : Owner) (v : BitVec 32) (s : State) : State :=
  match r with
  | 0 => writeCtl n who v s
  | 2 => writePlain n (fun p => { p with cmdBase := bitsAt v.toNat 0 13, cmdSizeLog2 := bitsAt v.toNat 16 4 }) s
  | 3 => writePlain n (fun p => { p with cmpBase := bitsAt v.toNat 0 13, cmpSizeLog2 := bitsAt v.toNat 16 4 }) s
  | 5 => writePlain n (fun p => { p with ibPart := bitsAt v.toNat 0 16, ibPort := bitsAt v.toNat 16 8 }) s
  | 6 => writeCmdDoorbell n v s
  | 7 => writeCmpDoorbell n v s
  | _ => s

/-- The writer may not write the pair: it is a 17th requester, or the pair is another's (R300). -/
def discards (who : Owner) (n : Nat) (s : State) : Prop :=
  s.seventeenth who = true ∨ ((s.pair n).active = true ∧ (!s.owns who n) = true ∧ (!s.ownsZero who) = true)

/-- A write of a pair's register: it stops an abandoned pair 0, is discarded, or is taken (R300, R301). -/
theorem writeRegister_cases (hn : n < 64) (hr : r < 8) :
    (r = 0 ∧ n = 0 ∧ (touchZero who s).mailbox.pair0Abandoned = true ∧ (!v.getLsbD 0) = true ∧
      writeRegister who (0x1000 + 32 * n + 4 * r) v s = disablePair 0 (touchZero who s)) ∨
    ¬(r = 0 ∧ n = 0 ∧ (touchZero who s).mailbox.pair0Abandoned = true ∧ (!v.getLsbD 0) = true) ∧
      ((discards who n s ∧ writeRegister who (0x1000 + 32 * n + 4 * r) v s = foreignWrite (touchZero who s)) ∨
       (¬discards who n s ∧ writeRegister who (0x1000 + 32 * n + 4 * r) v s = writePairRegister n r who v (touchZero who s))) := by
  unfold writeRegister
  simp only [pairRegister_at hn hr, touchZero_seventeenth, touchZero_pair, touchZero_owns, touchZero_ownsZero]
  split
  case isTrue h => exact .inl ⟨h.1, h.2.1, h.2.2.1, h.2.2.2, rfl⟩
  case isFalse h =>
    refine .inr ⟨h, ?_⟩
    split
    case isTrue hd => exact .inl ⟨hd, rfl⟩
    case isFalse hd => exact .inr ⟨hd, rfl⟩

theorem writeRegister_discarded (hn : n < 64) (hr : r < 8) (hd : discards who n s) (h0 : n ≠ 0) :
    writeRegister who (0x1000 + 32 * n + 4 * r) v s = foreignWrite (touchZero who s) := by
  rcases writeRegister_cases (who := who) (v := v) (s := s) hn hr with ⟨-, hz, -⟩ | ⟨-, ⟨-, h⟩ | ⟨hnot, -⟩⟩
  · exact absurd hz h0
  · exact h
  · exact absurd hd hnot

theorem writeRegister_taken (hn : n < 64) (hr : r < 8) (hd : ¬discards who n s) (h0 : r = 0 → n = 0 → v.getLsbD 0 = true) :
    writeRegister who (0x1000 + 32 * n + 4 * r) v s = writePairRegister n r who v (touchZero who s) := by
  rcases writeRegister_cases (who := who) (v := v) (s := s) hn hr with ⟨hr0, hn0, -, hv, -⟩ | ⟨-, ⟨hdis, -⟩ | ⟨-, h⟩⟩
  · rw [h0 hr0 hn0] at hv; cases hv
  · exact absurd hdis hd
  · exact h

theorem exec_registerWrite_taken (hok : accessOk a = true) (hn : n < 64) (hr : r < 8) (hreach : s.reachable a = true)
    (hd : ¬discards (whoOf a) n s) (h0 : r ≠ 0) :
    exec (.registerWrite a (0x1000 + 32 * n + 4 * r) v) s = .next (writePairRegister n r (whoOf a) v (touchZero (whoOf a) s)) :=
  (exec_registerWrite hok hn hr hreach).trans (congrArg _ (writeRegister_taken hn hr hd fun h => absurd h h0))

/-- An inactive pair takes the write of any of the 16 requesters. -/
theorem not_discards_of_inactive (h17 : s.seventeenth who = false) (hact : (s.pair n).active = false) : ¬discards who n s := by
  simp [discards, h17, hact]

/-- A pair takes its owner's write. -/
theorem not_discards_of_owns (h17 : s.seventeenth who = false) (hown : s.owns who n = true) : ¬discards who n s := by
  simp [discards, h17, hown]

/-- Another requester's active pair takes no write of one that does not own pair 0. -/
theorem discards_of_foreign (hact : (s.pair n).active = true) (hown : s.owns (whoOf a) n = false) (hzero : s.owns (whoOf a) 0 = false) :
    discards (whoOf a) n s :=
  .inr ⟨hact, by simp [hown], by simp [State.ownsZero, whoOf]; exact hzero⟩

theorem active_of_owns (h : s.owns who n = true) : (s.pair n).active = true := by
  simp only [State.owns, Bool.and_eq_true] at h
  exact h.1

/-! ### The registers -/

theorem writePlain_disabled {f : Pair → Pair} (h : (s.pair n).enable = false) : writePlain n f s = s.setPair n f := if_neg (by simp [h])

theorem writePlain_enabled {f : Pair → Pair} (h : (s.pair n).enable = true) : writePlain n f s = foreignWrite s := if_pos h

/-- R299: ENABLE = 1 on a disabled pair, IN_BAND written first on a pair that has it. -/
theorem writeCtl_enables (hv : v.getLsbD 0 = true) (hen : (s.pair n).enable = false) {w : State}
    (hw : w = if 48 ≤ n ∧ v.getLsbD 1 ≠ (s.pair n).inBand then s.setPair n (fun p => { p with inBand := v.getLsbD 1 }) else s)
    (hok : w.enableOk n = true) : writeCtl n who v s = activatePair n who w := by
  have henables : enablePair n who w = activatePair n who w := if_pos hok
  rw [← henables, hw]
  simp [writeCtl, hv, hen]

/-- R309: ENABLE = 0 on an enabled pair whose IN_BAND the write leaves clear. -/
theorem writeCtl_disables (h0 : n ≠ 0) (hen : (s.pair n).enable = true) (hib : (s.pair n).inBand = false) :
    writeCtl n who 0 s = stopPair n s := by
  simp [writeCtl, hen, hib, disablePair, h0]

theorem writeCmdDoorbell_moves (hact : (s.pair n).active = true) (hmd : s.mailbox.failed = false)
    (hfit : ((v.setWidth 16 : BitVec 16) - (s.pair n).cmdHead).toNat ≤ (s.pair n).cmdSlots) :
    writeCmdDoorbell n v s = s.setPair n fun p => { p with cmdTail := v.setWidth 16 } := by
  unfold writeCmdDoorbell
  rw [if_neg (by simp [hact, hmd])]
  exact if_neg (Nat.not_lt.mpr hfit)

theorem writeCmpDoorbell_moves (hact : (s.pair n).active = true) (hmd : s.mailbox.failed = false) :
    writeCmpDoorbell n v s = s.setPair n fun p => { p with cmpHead := v.setWidth 16 } :=
  if_neg (by simp [hact, hmd])

/-! ### Ring memory (R297, R300) -/

variable {off : Nat} {bs : Bytes}

theorem exec_ringMemoryWrite (hok : accessOk a = true) (hfit : off + bs.length ≤ ringMemory) (hreach : s.reachable a = true) :
    exec (.ringMemoryWrite a off bs) s = .next (writeRing (whoOf a) off bs s) :=
  (guardUnit_of_exists (by simp [hok, hfit])).trans (congrArg _ (if_pos hreach))

theorem writeRing_discarded (h : s.ringForeign who off bs.length = true) : writeRing who off bs s = foreignWrite (touchZero who s) := by
  simp [writeRing, h]

theorem writeRing_taken (h17 : s.seventeenth who = false) (h : s.ringForeign who off bs.length = false) :
    writeRing who off bs s = (touchZero who s).setMailbox fun m => { m with ring := Memory.write off bs m.ring } := by
  simp [writeRing, h17, h]

/-! ### O19, O20, O21 -/

/-- Settles O19: each clause is the row as a write that is taken, and the lemma on its register. -/
theorem registerWritesComplete : Obligations.RegisterWritesComplete := by
  unfold Obligations.RegisterWritesComplete
  simp only [Bool.not_eq_true']
  refine ⟨?enable, ?disable, ?cmd, ?cmp, ?ring⟩
  case enable =>
    rintro a n v s u w hok hn hv hreach h17 hact hen rfl hw henok
    rw [exec_pairEnable hok hn hreach hv,
      writeRegister_taken hn (by omega) (not_discards_of_inactive h17 hact) fun _ _ => hv]
    exact congrArg _ (writeCtl_enables hv (by simpa using hen) (by simpa using hw) henok)
  case disable =>
    rintro a n v s hok h0 hn rfl hreach h17 hown hen hib hzero
    rw [exec_pairDisable hok hn hreach (by simp),
      writeRegister_taken hn (by omega) (not_discards_of_owns h17 hown) (by omega), touchZero_of_other hzero]
    exact congrArg _ (writeCtl_disables (who := whoOf a) (by omega) hen hib)
  case cmd =>
    intro a n v s hok hn hreach h17 hown hmd hfit
    rw [exec_cmdDoorbell hok hn hreach, writeRegister_taken hn (by omega) (not_discards_of_owns h17 hown) (by omega)]
    exact congrArg _ (writeCmdDoorbell_moves (by simpa using active_of_owns hown) (by simpa using hmd) (by simpa using hfit))
  case cmp =>
    intro a n v s hok hn hreach h17 hown hmd
    rw [exec_cmpDoorbell hok hn hreach, writeRegister_taken hn (by omega) (not_discards_of_owns h17 hown) (by omega)]
    exact congrArg _ (writeCmpDoorbell_moves (by simpa using active_of_owns hown) (by simpa using hmd))
  case ring =>
    intro a n v s hok hn hreach h17 hact hen
    have hplain {f : Pair → Pair} : writePlain n f (touchZero (whoOf a) s) = (touchZero (whoOf a) s).setPair n f :=
      writePlain_disabled (by simpa using hen)
    have hwrite {r : Nat} (hr : r < 8) (h0 : r ≠ 0) :=
      exec_registerWrite_taken (v := v) hok hn hr hreach (not_discards_of_inactive h17 hact) h0
    exact ⟨(hwrite (r := 2) (by omega) (by omega)).trans (congrArg _ hplain), (hwrite (r := 3) (by omega) (by omega)).trans (congrArg _ hplain),
      (hwrite (r := 5) (by omega) (by omega)).trans (congrArg _ hplain)⟩

/-- Settles O20: each clause is the row as a write that is discarded, or as the bytes it writes. -/
theorem ringAndForeignWrites : Obligations.RingAndForeignWrites := by
  unfold Obligations.RingAndForeignWrites
  simp only [Bool.not_eq_true']
  refine ⟨⟨?foreign, ?enabled, ?ring⟩, ?bytes⟩
  case foreign =>
    intro a n v s hok hn hreach hact hown hzero h0
    have hdis {r : Nat} (hr : r < 8) : writeRegister (whoOf a) (0x1000 + 32 * n + 4 * r) v s = foreignWrite s := by
      rw [writeRegister_discarded hn hr (discards_of_foreign hact hown hzero) h0, touchZero_of_other hzero]
    exact ⟨(exec_cmdDoorbell hok hn hreach).trans (congrArg _ (hdis (by omega))),
      (exec_cmpDoorbell hok hn hreach).trans (congrArg _ (hdis (by omega))),
      fun hv => (exec_pairEnable hok hn hreach hv).trans (congrArg _ (hdis (by omega))),
      fun hv => (exec_pairDisable hok hn hreach hv).trans (congrArg _ (hdis (by omega))),
      fun r hr => (exec_registerWrite hok hn hr hreach).trans (congrArg _ (hdis hr))⟩
  case enabled =>
    intro a n v s hok hn hreach h17 hown hen
    have hplain {f : Pair → Pair} : writePlain n f (touchZero (whoOf a) s) = foreignWrite (touchZero (whoOf a) s) :=
      writePlain_enabled (by simpa using hen)
    have hwrite {r : Nat} (hr : r < 8) (h0 : r ≠ 0) :=
      exec_registerWrite_taken (v := v) hok hn hr hreach (not_discards_of_owns h17 hown) h0
    exact ⟨(hwrite (r := 2) (by omega) (by omega)).trans (congrArg _ hplain), (hwrite (r := 3) (by omega) (by omega)).trans (congrArg _ hplain)⟩
  case ring =>
    intro a off bs s hok hfit hreach hforeign
    exact (exec_ringMemoryWrite hok hfit hreach).trans (congrArg _ (writeRing_discarded hforeign))
  case bytes =>
    intro a off bs s hok hfit hreach h17 hforeign
    have hring : ((touchZero (whoOf a) s).setMailbox fun m => { m with ring := Memory.write off bs m.ring }).mailbox.ring =
        Memory.write off bs s.mailbox.ring := congrArg (Memory.write off bs) touchZero_ring
    refine ⟨_, (exec_ringMemoryWrite hok hfit hreach).trans (congrArg _ (writeRing_taken h17 hforeign)), fun i hi => ?_, fun b hb => ?_, rfl⟩
    · rw [hring, Memory.read_write_same hi, List.getD_eq_getElem _ _ hi]
    · rw [hring, Memory.read_write_other hb]

/-- Settles O21: the row of the abandonment, and the write that meets an abandoned pair 0. -/
theorem pairZeroAbandonment : Obligations.PairZeroAbandonment := by
  unfold Obligations.PairZeroAbandonment
  refine ⟨fun s hact habandoned => ?_, fun a v s hok hreach hv hzero habandoned => ?_⟩
  · change Host.Outcome.next (if _ then _ else _) = _
    rw [if_neg (by simp [hact, habandoned])]
  · rw [exec_pairDisable hok (by omega) hreach hv]
    rcases writeRegister_cases (who := whoOf a) (v := v) (s := s) (n := 0) (r := 0) (by omega) (by omega) with ⟨-, -, -, -, h⟩ | ⟨hnot, -⟩
    · rw [h, touchZero_of_other hzero]
      rfl
    · exact absurd ⟨rfl, rfl, by rw [touchZero_of_other hzero, habandoned], by rw [hv]; rfl⟩ hnot

end Sys2Proof.Proofs
end

section
/-! The MANAGEMENT frames MD takes (R312, R313), the two reads (R318, R327) and the end of a running command's effect (R304, R148, R150). With them
O22, O40 and O41. -/
namespace Sys2Proof.Proofs
open Sys2Proof.Machine Sys2Proof.Laws

/-! ### MANAGEMENT frames (R312) -/

section
variable {s u : State} {rx : Rx}

/-- MD takes a good frame of the row's kind: it acts in the state that has passed it and owes its echo (R237). -/
theorem mdTake_of_good {p : Frame → Bool} {effect : Rx → State → State} (hhead : s.mdReseq.inbox.head? = some rx) (hp : p rx.frame = true)
    (hu : u = oweEcho rx.frame rx.port { s with mdReseq := { s.mdReseq with inbox := s.mdReseq.inbox.drop 1 } })
    (hmd : u.mailbox.failed = false) (htaint : rx.frame.taint = false) (hcrc : Frame.crcOk rx.frame = true)
    (hreserved : reservedOk rx.frame = true) : mdTake p effect s = effect rx u := by
  unfold mdTake
  simp only [hhead, ← hu]
  simp [hp, hmd, htaint, hcrc, hreserved]

/-- A COMMAND frame of the pair's in-band source, with room in the ring, is placed at CMD_TAIL and its buffer is kept. -/
theorem takeCommandFrame_places {n : Nat} {p : Pair} (htype : rx.frame.type = 9) (hsub : rx.frame.sub8 = 1)
    (hlen : 256 ≤ rx.frame.payload.length) (hn : n = rx.frame.field 104 6) (hp : p = u.pair n) (hactive : p.active = true)
    (hinBand : p.inBand = true) (hpart : rx.frame.srcPart = p.ibPart) (hport : rx.frame.srcPort = p.ibPort)
    (hroom : (p.cmdTail - p.cmdHead).toNat < p.cmdSlots) :
    takeCommandFrame rx u = ((noteInBandPort rx u).setMailbox fun m => { m with
      ring := Memory.write (ringAt p.cmdBase + 256 * (p.cmdTail.toNat % p.cmdSlots)) (rx.frame.payload.take 256) m.ring
      inBuffers := m.inBuffers.filter (fun e => e.1 != (n, p.cmdTail.toNat)) ++ [((n, p.cmdTail.toNat), rx.frame.payload.drop 256)] }).setPair n
        fun p => { p with cmdTail := p.cmdTail + 1 } := by
  subst hn hp
  unfold takeCommandFrame
  rw [if_neg (by simp [htype, hsub, hlen, hactive, hinBand, hpart, hport]), if_neg (Nat.not_le.mpr hroom)]

theorem not_isReg_of_sub (h : rx.frame.sub8 = 1) : (!isReg 3 rx.frame && !isReg 4 rx.frame) = true := by simp [isReg, h]

end

/-- Settles O22: the frame is taken, and each kind's effect is the lemma on it. -/
theorem managementFramesComplete : Obligations.ManagementFramesComplete := by
  unfold Obligations.ManagementFramesComplete
  simp only [Bool.not_eq_true']
  refine ⟨?command, ?read, ?write⟩
  case command =>
    intro s rx u n p hhead hu hmd htaint hcrc hreserved htype hsub hlen hn hp hactive hinBand hpart hport hroom
    exact congrArg Host.Outcome.next ((mdTake_of_good hhead (not_isReg_of_sub hsub) hu hmd htaint hcrc hreserved).trans
      (takeCommandFrame_places htype hsub hlen hn hp hactive hinBand hpart hport hroom))
  case read =>
    rintro s rx u v hhead hsub hu hmd htaint hcrc hreserved hok rfl
    exact congrArg Host.Outcome.next ((mdTake_of_good hhead hsub hu hmd htaint hcrc hreserved).trans (if_neg (by simp [hok])))
  case write =>
    intro s rx u hhead hsub hu hmd htaint hcrc hreserved hok hlen
    exact congrArg Host.Outcome.next ((mdTake_of_good hhead hsub hu hmd htaint hcrc hreserved).trans (if_neg (by simp [hok, hlen])))

/-! ### The two reads (R318, R327) -/

theorem verdictOf_of_passed {l : List (Bool × Nat)} {v : CmdVerdict} (h : ∀ x ∈ l, x.1 = false) : verdictOf l v = v := by
  induction l with
  | nil => rfl
  | cons x xs ih =>
    rw [verdictOf, h x (List.mem_cons_self ..), ih fun y hy => h y (List.mem_cons_of_mem _ hy)]
    rfl

/-- R325: a read that passes its checks completes at once, in the state its write leaves. -/
theorem runCommand_reads {form : Cmd → Bool} {own : Cmd → State → CmdVerdict} {c : Command} {s : State} {status result : Nat}
    {version : BitVec 32} {write : State → State} (hp : c.pair < 64) (ht : s.takes c = true) (hf : form (s.loaded c) = true)
    (hcommon : ∀ x ∈ commonChecks (s.loaded c) s, x.1 = false) (hown : own (s.loaded c) s = .read status result version write) :
    runCommand form own c s = .next (completeAtOnce (s.loaded c) (s.pair c.pair).cmdHead status result version
      (write (takeCommand c.pair s))) := by
  rw [runCommand_taken hp ht hf, verdictOf_of_passed hcommon, hown]
  rfl

theorem queryVerdict_answers {d : Cmd} {s : State} {x : Answer} (hfirst : ∀ y ∈ firstChecks d 0 s, y.1 = false)
    (hanswer : answer s d.parcel (d.arg 0 8) (d.arg 32 32) (d.arg 64 32) = some x) (hlen : x.bytes.length ≤ d.len) (hallowed : x.allowed = true)
    (hversion : (x.version.map d.staleUse).getD false = false) :
    queryVerdict d s = .read (if d.dataOk then Status.ok else Status.closure)
      (packFields [(0, 32, if d.dataOk then x.bytes.length else 0), (32, 32, (x.version.getD 0).toNat)]) (x.version.getD 0) (putHost d x.bytes) := by
  unfold queryVerdict
  rw [verdictOf_of_passed hfirst, hanswer]
  exact verdictOf_of_passed (by simp [hlen, hallowed, hversion])

theorem fieldbookVerdict_answers {d : Cmd} {s : State} {es : List Bytes} (hfirst : ∀ y ∈ firstChecks d 0 s, y.1 = false) (hn : 0 < d.arg 64 13)
    (hmax : d.arg 64 13 ≤ 4096) (hlen : 1024 * d.arg 64 13 ≤ d.len) (hkept : s.book.kept = true) (hold : s.book.oldest ≤ d.arg 0 64)
    (hes : es = s.bookRun (d.arg 0 64) (d.arg 64 13)) :
    fieldbookVerdict d s = .read
      (if !d.dataOk then Status.closure else if es.length < d.arg 64 13 ∧ d.arg 0 64 + es.length < s.book.next then Status.lost else Status.ok)
      (packFields [(0, 32, if d.dataOk then es.length else 0), (64, 64, s.book.oldest)]) 0
      fun s' => putHost d (es.flatMap (shownEntry d.parcel)) (forEach ((s'.book.entries.filter fun e => d.arg 0 64 ≤ e.seq).take (d.arg 64 13)) (fun e u =>
        match u.bookCopies with
        | x :: _ => decodeCount x.2 (bookAt e.seq / 2048) false u
        | [] => u) s') := by
  subst hes
  have hrange : ¬(d.arg 64 13 = 0 ∨ d.arg 64 13 > 4096 ∨ d.len < 1024 * d.arg 64 13) := by omega
  have hpassed : ∀ y ∈ firstChecks d 0 s ++ [(decide (d.arg 64 13 = 0 ∨ d.arg 64 13 > 4096 ∨ d.len < 1024 * d.arg 64 13), Status.badArg)],
      y.1 = false := by
    simp only [List.mem_append, List.mem_singleton]
    rintro y (hy | rfl)
    · exact hfirst y hy
    · exact decide_eq_false hrange
  unfold fieldbookVerdict
  dsimp only
  rw [verdictOf_of_passed hpassed]
  exact if_neg (by simp [hkept, hold])

/-- Settles O40: the command is taken and passes, and its opcode's verdict is a read. -/
theorem readCommandsComplete : Obligations.ReadCommandsComplete := by
  unfold Obligations.ReadCommandsComplete
  refine ⟨?query, ?book⟩
  case query =>
    rintro c s d x hp ht rfl hop hchecks hanswer hlen hallowed hversion
    change execQuery c s = _
    unfold execQuery
    exact runCommand_reads hp ht (decide_eq_true (.inl hop)) (fun y hy => hchecks y (List.mem_append_left _ hy))
      (queryVerdict_answers (fun y hy => hchecks y (List.mem_append_right _ hy)) hanswer hlen hallowed hversion)
  case book =>
    rintro c s d es hp ht rfl hop hchecks hn hmax hlen hkept hold hes
    change execFieldbookRead c s = _
    unfold execFieldbookRead
    exact runCommand_reads hp ht (decide_eq_true hop) (fun y hy => hchecks y (List.mem_append_left _ hy))
      (fieldbookVerdict_answers (fun y hy => hchecks y (List.mem_append_right _ hy)) hn hmax hlen hkept hold hes)

/-! ### The end of a command's effect (R304) -/

section
variable {s : State} {seq : Nat} {r : Running}

theorem exec_commandEffectEnd_of_found (hr : s.mailbox.running.find? (fun r => r.seq = seq ∧ r.ready ∧ s.mayEnd r) = some r) :
    exec (.commandEffectEnd seq) s = .next (if r.ending.isApply then
      emitAll (completeRunning r (performEnding r s).2 (releaseRegion seq (performEnding r s).1))
      else completeRunning r (performEnding r s).2 (releaseRegion seq (performEnding r s).1)) := by
  change execCommandEffectEnd seq s = _
  unfold execCommandEffectEnd
  rw [hr]
  cases h : r.ending <;> simp only [h, Ending.isApply] <;> rfl

/-- R148, R150: an APPLY that may end is the first accepted of those that run, and no generation that opened before it still reads its region. -/
theorem mayEnd_apply {h : Nat} {g sr a b c d : BitVec 32} {before : List (Nat × BitVec 32)} (hr : r.ending = .apply h g sr a b c d before)
    (hmay : s.mayEnd r = true) :
    (∀ o ∈ s.mailbox.running, o.seq < r.seq → (!o.ending.isApply) = true) ∧
      ∀ x ∈ s.traverses, ∀ y ∈ x.2.gens, before.contains (x.1, y.gen) = true → (!s.readsOwed (h % 65536) x.2 y) = true := by
  simp only [State.mayEnd, hr, Bool.and_eq_true, List.all_eq_true] at hmay
  obtain ⟨-, hfirst, hread⟩ := hmay
  refine ⟨fun o ho hlt => ?_, fun x hx y hy hc => ?_⟩
  · simpa [Nat.not_le.mpr hlt] using hfirst o ho
  · simpa [List.contains_iff_mem.mp hc] using hread x hx y hy

end

/-- Settles O41: the row ends the command found, `performEnding` by its ending, and `mayEnd` holds of it. -/
theorem commandEffectEndCompletes : Obligations.CommandEffectEndCompletes := by
  unfold Obligations.CommandEffectEndCompletes
  rintro s seq r u hr rfl
  have hfound := exec_commandEffectEnd_of_found hr
  have hmay : s.mayEnd r = true := by
    have := List.find?_some hr
    simp only [decide_eq_true_eq] at this
    exact this.2.2
  refine ⟨fun h => ?other, fun h => ?apply, fun h => ?plain, fun _ _ _ _ _ _ _ ok h => ?save, fun _ _ _ _ _ _ _ _ h => ?load,
    fun _ _ _ _ _ _ _ _ h => ⟨?region, mayEnd_apply h hmay⟩, fun _ _ _ _ h => ?stage⟩
  case other => rw [hfound, if_neg (by simpa using h)]
  case apply => rw [hfound, if_pos h]
  case save => unfold performEnding; rw [h]; cases ok <;> rfl
  case plain | load | region | stage => unfold performEnding; rw [h]

end Sys2Proof.Proofs
end

section
/-! Power states of the die groups, the power and thermal loops and the hardware throttle (R24, R345-R347, R351-R354). With them O31. -/
namespace Sys2Proof.Proofs
open Sys2Proof.Machine Sys2Proof.Laws

section
variable {s u : State} {g : Nat} {st : PState}

/-! ### Entering and leaving a state (R346, R347, R351, Table 16.6) -/

/-- R346: the deepest state whose idle time has passed is entered now. -/
theorem exec_powerStateEntry_due (hg : g < 20) (hbusy : s.groupBusy g = false) (hentering : (s.group g).entering = none)
    (hexiting : (s.group g).exiting = none)
    (hdue : ((s.enterable g s.clock).filter fun st => decide ((s.group g).workAt + st.idleNs ≤ s.clock)).getLast? = some st) :
    exec (.powerStateEntry g) s = .next (s.setGroup g fun x => { x with entering := some (st, s.clock) }) := by
  refine (guardUnit_of_exists (decide_eq_true hg)).trans (congrArg _ ?_)
  rw [if_neg (by simp [hbusy, hentering, hexiting])]
  simp only [hdue]

/-- R346, R351: where no idle time has passed, the next state that may be entered is, at its time. -/
theorem exec_powerStateEntry_next (hg : g < 20) (hbusy : s.groupBusy g = false) (hentering : (s.group g).entering = none)
    (hexiting : (s.group g).exiting = none)
    (hnone : ((s.enterable g s.clock).filter fun st => decide ((s.group g).workAt + st.idleNs ≤ s.clock)) = [])
    (hnext : ((allowedStates g).find? fun st => (s.enterable g ((s.group g).workAt + st.idleNs)).contains st) = some st)
    (hu : u = s.reach ((s.group g).workAt + st.idleNs)) :
    exec (.powerStateEntry g) s = .next (u.setGroup g fun x => { x with entering := some (st, u.clock) }) := by
  subst hu
  refine (guardUnit_of_exists (decide_eq_true hg)).trans (congrArg _ ?_)
  rw [if_neg (by simp [hbusy, hentering, hexiting])]
  simp only [hnone, hnext, List.getLast?_nil]

theorem exec_powerStateEntryDone_entering {at_ : Nat} (hg : g < 20) (hentering : (s.group g).entering = some (st, at_)) :
    exec (.powerStateEntryDone g) s =
      .next (applyState g st ((s.reach (at_ + st.entryNs)).setGroup g fun x => { x with state := st, entering := none })) := by
  refine (guardUnit_of_exists (decide_eq_true hg)).trans (congrArg _ ?_)
  simp only [hentering]

theorem exec_powerExitDone_exiting {at_ : Nat} (hg : g < 20) (hexiting : (s.group g).exiting = some (st, at_))
    (hu : u = s.reach (at_ + st.exitNs)) :
    exec (.powerExitDone g) s =
      .next (emitAll (applyState g .l0 (u.setGroup g fun x => { x with state := .l0, exiting := none, workAt := u.clock }))) := by
  subst hu
  refine (guardUnit_of_exists (decide_eq_true hg)).trans (congrArg _ ?_)
  simp only [hexiting]

/-- R351: at the wake point a group deeper than its budget permits starts its exit. -/
theorem exec_wakePoint_deep {w : Nat} (hg : g < 20) (hdeep : (s.group g).state ≠ .l0)
    (hbudget : s.budgetAllows g (s.group g).state = false) (hw : s.wakePoint g (s.group g).state = some w) :
    exec (.wakePoint g) s = .next (wakeGroup g (s.reach w)) := by
  refine (guardUnit_of_exists (decide_eq_true hg)).trans (congrArg _ ?_)
  rw [if_neg (by simp [hdeep, hbudget])]
  simp only [hw, startExit]

end

/-! ### The loops and the hardware throttle (R24, R353, R354) -/

section
variable {s u : State} {ws : List Nat} {cs : List (Nat × Int)}

theorem exec_powerLoopTick_runs {new : List (Nat × Int)} {log : List (List Nat)} (hws : ws.length = 31) (hmd : s.mailbox.failed = false)
    (hready : s.boot.stage = .ready) (hcore : s.isHalted 0x80 3 = false) (hnew : new = mergeTemps s.supply.celsius cs)
    (hlog : log = (ws :: s.supply.powerLog).take 10)
    (hu : u = { s with clock := max s.clock (s.supply.loopAt + 100000)
                       supply := { s.supply with celsius := new, loopAt := max s.clock (s.supply.loopAt + 100000), powerLog := log } }) :
    exec (.powerLoopTick ws cs) s = .next (coolThrottles cs (forEach (List.range 20) (fun g => thermalStep g s.supply.celsius new)
      (forEach (List.range 20) (powerStep log) u))) := by
  subst hnew hlog hu
  refine (guardUnit_of_exists (by rw [hws]; rfl)).trans (congrArg _ ?_)
  rw [if_neg (by simp [hmd, hready, hcore])]
  rfl

theorem exec_powerLoopTick_rests (hws : ws.length = 31) (h : s.mailbox.failed = true ∨ s.boot.stage ≠ .ready ∨ s.isHalted 0x80 3 = true) :
    exec (.powerLoopTick ws cs) s =
      .next (coolThrottles cs { s with supply := { s.supply with celsius := mergeTemps s.supply.celsius cs } }) :=
  (guardUnit_of_exists (by rw [hws]; rfl)).trans (congrArg _ (if_pos h))

/-- R24: a group is throttled above a ceiling, and below it for as long as its issue rate still is. -/
theorem powerStep_throttled {log : List (List Nat)} {g : Nat} (hg : g < s.groups.length) :
    ((powerStep log g s).group g).throttled =
      ((packageOver log || (List.range 31).any fun l => groupOfLoad l == some g && loadOver s log l) ||
        ((s.group g).issueThrottled && (s.group g).throttled)) := by
  have hgroup {f : Group → Group} : (s.setGroup g f).group g = f (s.group g) := (getD_lmap hg).trans (if_pos rfl)
  rw [powerStep, hgroup]
  change (if (packageOver log || (List.range 31).any fun l => groupOfLoad l == some g && loadOver s log l) = true then _ else _ : Group).throttled = _
  split
  · simp [*]
  · split <;> simp [*]

theorem exec_hwThrottle_new {d : Nat} (hd : (throttleAtC d).isSome = true) (hnew : s.supply.hotDies.contains d = false) :
    exec (.hwThrottle d) s = .next { s with
      supply := { s.supply with hotDies := s.supply.hotDies ++ [d] }
      hbmStacks := if 0x60 ≤ d ∧ d < 0x7E then s.hbmStacks.modify (d - 0x60) fun h => { h with throttled := true } else s.hbmStacks } := by
  refine (guardUnit_of_exists (by simp [hd])).trans (congrArg _ ?_)
  rw [if_neg (by rw [hnew]; simpa [Option.isSome_iff_ne_none] using hd)]
  split <;> rfl

end

/-! ### O31 -/

/-- Settles O31: each clause is the lemma on its row, or on the power loop's step. -/
theorem powerAndThermalLoopsComplete : Obligations.PowerAndThermalLoopsComplete := by
  unfold Obligations.PowerAndThermalLoopsComplete
  simp only [Bool.not_eq_true']
  exact ⟨⟨fun _ _ _ hg hb he hx hd => exec_powerStateEntry_due hg hb he hx hd,
      fun _ _ _ _ hg hb he hx hn hf hu => exec_powerStateEntry_next hg hb he hx hn hf hu,
      fun _ _ _ _ hg he => exec_powerStateEntryDone_entering hg he, fun _ _ _ _ _ hg he hu => exec_powerExitDone_exiting hg he hu,
      fun _ _ _ hg hd hb hw => exec_wakePoint_deep hg hd hb hw⟩,
    fun _ _ _ _ _ _ hws hmd hr hc hn hl hu => exec_powerLoopTick_runs hws hmd hr hc hn hl hu,
    fun _ _ _ hws h => exec_powerLoopTick_rests hws h, fun _ _ _ hg hlen => powerStep_throttled (by omega),
    fun _ _ hd hnew => exec_hwThrottle_new hd hnew⟩

end Sys2Proof.Proofs
end

section
/-! Supply rails (R332-R336): a rail that moves in order, a rail out of order, and the rise of VDD_AON. With them O32. -/
namespace Sys2Proof.Proofs
open Sys2Proof.Machine Sys2Proof.Laws

variable {s : State} {r : Nat}

/-! ### One rail's level -/

theorem setRail_rail_other {f : Rail → Rail} {q : Nat} (h : q ≠ r) : (s.setRail r f).rail q = s.rail q := by
  change (s.supply.rails.modify r f).getD q {} = s.supply.rails.getD q {}
  simp [List.getD_eq_getElem?_getD, Ne.symm h]

/-- Only VDD_AON is of the first stage (Table 16.1). -/
theorem railStage_ne_one (h : 0 < r) : railStage r ≠ 1 := by
  unfold railStage
  rw [if_neg (by omega)]
  split_ifs <;> omega

/-- R336: once VDD_AON has risen the trust die judges the event and settles whether the rails are good. -/
theorem exec_supplyRailEvent_watched (hr : r < 47) (haon : (s.rail 0).above10 = true) (e : RailEvent) :
    exec (.supplyRailEvent r e) s = .next (settleRails (match e with
      | .rise10 => riseTen r s
      | .rise90 => riseNinety r s
      | .fall90 => fallNinety r s
      | .fall10 => fallTen r s
      | .below8 => outside .undervolt r s
      | .above8 => outside .overvolt r s
      | .back => if (s.rail r).above90 then s.setRail r fun x => { x with inTol := true } else s)) := by
  refine (guardUnit_of_exists (decide_eq_true hr)).trans (congrArg _ ((if_neg (by simp [haon])).trans ?_))
  cases e <;> rfl

/-! ### In order (R332, R333) -/

section
variable (h0 : 0 < r) (hbelow : (s.rail r).above10 = false)
include h0 hbelow

/-- R332: the stages under a rail's are complete, and have been for 100 µs. -/
theorem riseTen_inOrder (hstages : ((List.range (railStage r - 1)).all fun j => s.stageUp (j + 1)) = true) (htol : (s.rail 0).inTol = true)
    (hapart : ((stageRails (railStage r - 1)).foldl (fun m q => max m (s.rail q).at90) 0) + 100000 ≤ s.clock) :
    riseTen r s = s.setRail r fun x => { x with above10 := true, at10 := s.clock } := by
  simp [riseTen, hbelow, railStage_ne_one h0, hstages, htol, Nat.not_lt.mpr hapart]

/-- R334: a stage under the rail's is not complete. -/
theorem riseTen_order (hstages : ((List.range (railStage r - 1)).any fun j => !s.stageUp (j + 1)) = true) :
    riseTen r s = enterFault .order r (s.setRail r fun x => { x with above10 := true, at10 := s.clock }) := by
  have hnot : ((List.range (railStage r - 1)).all fun j => s.stageUp (j + 1)) = false := by simpa using hstages
  simp [riseTen, hbelow, railStage_ne_one h0, hnot]

/-- R334: the stages under the rail's are complete, but have not been for 100 µs. -/
theorem riseTen_separation (hstages : ((List.range (railStage r - 1)).all fun j => s.stageUp (j + 1)) = true) (htol : (s.rail 0).inTol = true)
    (hclose : s.clock < ((stageRails (railStage r - 1)).foldl (fun m q => max m (s.rail q).at90) 0) + 100000) :
    riseTen r s = enterFault .separation r (s.setRail r fun x => { x with above10 := true, at10 := s.clock }) := by
  simp [riseTen, hbelow, railStage_ne_one h0, hstages, htol, hclose]

end

theorem riseNinety_inTime (hup : (s.rail r).above10 = true) (hbelow : (s.rail r).above90 = false) (htime : s.clock ≤ (s.rail r).at10 + 20000000) :
    riseNinety r s = s.setRail r fun x => { x with above90 := true, at90 := s.clock } := by
  simp [riseNinety, hup, hbelow, Nat.not_lt.mpr htime]

theorem riseNinety_slow (hup : (s.rail r).above10 = true) (hbelow : (s.rail r).above90 = false) (htime : (s.rail r).at10 + 20000000 < s.clock) :
    riseNinety r s = enterFault .rampSlow r (s.setRail r fun x => { x with above90 := true, at90 := s.clock }) := by
  simp [riseNinety, hup, hbelow, htime]

theorem fallNinety_inOrder (hup : (s.rail r).above90 = true) (hlast : ∀ q, q < 47 → railStage r < railStage q → (s.rail q).above10 = false) :
    fallNinety r s = s.setRail r fun x => { x with above90 := false, inTol := false } := by
  have hnone : ((List.range Config.rails).any fun q => railStage r < railStage q && (s.rail q).above10) = false := by
    simp only [List.any_eq_false, List.mem_range, Bool.and_eq_true, decide_eq_true_eq, not_and, Bool.not_eq_true]
    exact hlast
  simp [fallNinety, hup, hnone]

theorem fallNinety_downOrder {q : Nat} (hup : (s.rail r).above90 = true) (hq : q < 47) (hstage : railStage r < railStage q)
    (hlater : (s.rail q).above10 = true) :
    fallNinety r s = enterFault .downOrder r (s.setRail r fun x => { x with above90 := false, inTol := false }) := by
  have hsome : ((List.range Config.rails).any fun q => railStage r < railStage q && (s.rail q).above10) = true :=
    List.any_eq_true.mpr ⟨q, List.mem_range.mpr hq, by simp [hstage, hlater]⟩
  simp [fallNinety, hup, hsome]

/-- Another rail is still above 10%: the power-down goes on. -/
theorem fallTen_notLast {q : Nat} (h0 : 0 < r) (hq0 : 0 < q) (hq : q < 47) (hqr : q ≠ r) (hup : (s.rail r).above10 = true)
    (hother : (s.rail q).above10 = true) : fallTen r s = s.setRail r fun x => { x with above10 := false, above90 := false, inTol := false } := by
  have hmem : q ∈ (List.range Config.rails).drop 1 := by
    have : (List.range Config.rails).drop 1 = List.range' 1 46 := by decide
    rw [this, List.mem_range'_1]
    omega
  unfold fallTen
  dsimp only
  rw [if_neg (by simp [hup]), if_neg (by omega), if_neg]
  intro hall
  have hdown := List.all_eq_true.mp hall q hmem
  rw [setRail_rail_other hqr, hother] at hdown
  cases hdown

theorem outside_beforeStart (kind : SupplyKind) (h : s.supply.started = false) :
    outside kind r s = s.setRail r fun x => { x with inTol := false } := if_neg (by simpa [State.setRail] using h)

theorem outside_afterStart (kind : SupplyKind) (h : s.supply.started = true) :
    outside kind r s = enterFault kind r (s.setRail r fun x => { x with inTol := false }) := if_pos (by simpa [State.setRail] using h)

/-! ### Out of order (R334, Table 16.2) -/

/-- A part without a fault enters one: the record names it, and the part is held. -/
theorem enterFault_enters (kind : SupplyKind) (rail : Nat) (h : s.supply.fault = .none) :
    ∃ record : SupplyRec, record.kind = kind ∧ record.rail = rail ∧ record.faults = min 0xFFFF (s.supply.record.faults + 1) ∧
      enterFault kind rail s = clearPart { s with supply := { s.supply with fault := kind, record := record } } :=
  ⟨_, rfl, rfl, rfl, if_neg (by simp [h])⟩

/-- Settling the rails writes the supply alone: the rails, the record, RESET_COUNT and the reset stay, and the fault while a rail is out of tolerance. -/
theorem settleRails_writes (s : State) : ∃ v : Supply, settleRails s = { s with supply := v } ∧ v.rails = s.supply.rails ∧
    v.record = s.supply.record ∧ v.inReset = s.supply.inReset ∧
    (s.railsGood = false → v.fault = s.supply.fault ∧ v.faultN = s.supply.faultN) := by
  unfold settleRails
  split
  case isTrue h =>
    dsimp only
    split <;> exact ⟨_, rfl, rfl, rfl, rfl, fun hbad => by simp [h] at hbad⟩
  case isFalse => exact ⟨_, rfl, rfl, rfl, rfl, fun _ => ⟨rfl, rfl⟩⟩

/-- What a fault leaves: the record names it, FAULT_N is asserted while it is in force, the part is held, and what it held is gone. -/
theorem settleRails_enterFault {kind : SupplyKind} (hkind : kind ≠ .none) (h : s.supply.fault = .none) (f : Rail → Rail) :
    let t := settleRails (enterFault kind r (s.setRail r f))
    ((!t.railsGood) = true → t.supply.fault = kind) ∧ t.supply.record.kind = kind ∧ t.supply.record.rail = r ∧
      t.supply.record.faults = min 0xFFFF (s.supply.record.faults + 1) ∧ t.supply.inReset = true ∧
      ((!t.railsGood) = true → t.supply.faultN = true) ∧ t.book.entries = [] ∧ t.regions = [] ∧ t.traverses = [] ∧ t.mailbox.ring = [] ∧
      t.boot.stage = .reset ∧ t.sent = s.sent ∧ t.hostOut = s.hostOut := by
  obtain ⟨record, hk, hrail, hfaults, hfault⟩ := enterFault_enters (s := s.setRail r f) kind r h
  obtain ⟨v, hv, hrails, hrecord, hreset, hbad⟩ := settleRails_writes (enterFault kind r (s.setRail r f))
  intro t
  have ht : t = { enterFault kind r (s.setRail r f) with supply := v } := hv
  rw [ht]
  have hgood : ({ enterFault kind r (s.setRail r f) with supply := v } : State).railsGood = (enterFault kind r (s.setRail r f)).railsGood :=
    congrArg (fun l : List Rail => l.all (·.inTol)) hrails
  rw [hfault] at hrecord hreset hbad hgood ⊢
  rw [hgood]
  refine ⟨fun hn => (hbad (by simpa using hn)).1, (congrArg _ hrecord).trans hk, (congrArg _ hrecord).trans hrail,
    (congrArg _ hrecord).trans hfaults, hreset, fun hn => (hbad (by simpa using hn)).2.trans ?_, rfl, rfl, rfl, rfl, rfl, rfl, rfl⟩
  simp [clearPart, hkind]

/-! ### VDD_AON (R335, R339) -/

/-- The part as VDD_AON has risen: the always-on domain is as after its loss, and RESET_N tied high is held as an early release. -/
def aonRisen (s : State) : State :=
  State.setRail 0 (fun _ => { at10 := s.clock, at90 := s.clock })
    { loseAon s with supply := { (loseAon s).supply with aonAt := s.clock, goodSince := none, held := s.supply.resetN } }

theorem exec_vddAonRise_alone (haon : (s.rail 0).above10 = false)
    (h : (((List.range Config.rails).drop 1).find? fun q => ((aonRisen s).rail q).above10) = none) :
    exec .vddAonRise s = .next (aonRisen s) := by
  refine congrArg Host.Outcome.next (Eq.trans (if_neg (by simp [haon])) ?_)
  change (match ((List.range Config.rails).drop 1).find? fun q => ((aonRisen s).rail q).above10 with
    | some q => enterFault .order q (aonRisen s)
    | none => aonRisen s) = _
  rw [h]

theorem exec_vddAonRise_late {q : Nat} (haon : (s.rail 0).above10 = false)
    (h : (((List.range Config.rails).drop 1).find? fun q => ((aonRisen s).rail q).above10) = some q) :
    exec .vddAonRise s = .next (enterFault .order q (aonRisen s)) := by
  refine congrArg Host.Outcome.next (Eq.trans (if_neg (by simp [haon])) ?_)
  change (match ((List.range Config.rails).drop 1).find? fun q => ((aonRisen s).rail q).above10 with
    | some q => enterFault .order q (aonRisen s)
    | none => aonRisen s) = _
  rw [h]

/-! ### O32 -/

/-- Settles O32: each rail in its order, each fault by its cause, and VDD_AON with and without a rail that came before it. -/
theorem suppliesComplete : Obligations.SuppliesComplete := by
  unfold Obligations.SuppliesComplete
  refine ⟨?inOrder, ?faults, ?aon⟩
  case inOrder =>
    intro s r hr haon
    have hexec := exec_supplyRailEvent_watched hr haon
    simp only [Bool.not_eq_true']
    refine ⟨fun h0 hb hs ht ha => ?_, fun hu hb ht => ?_, fun hu hl => ?_, fun q h0 hq0 hq hqr hu ho => ?_, fun hu => ?_, fun hs => ⟨?_, ?_⟩⟩ <;>
      rw [hexec] <;> refine congrArg Host.Outcome.next (congrArg settleRails ?_)
    · exact riseTen_inOrder h0 hb hs ht ha
    · exact riseNinety_inTime hu hb ht
    · exact fallNinety_inOrder hu hl
    · exact fallTen_notLast h0 hq0 hq hqr hu ho
    · exact if_pos hu
    · exact outside_beforeStart _ hs
    · exact outside_beforeStart _ hs
  case faults =>
    intro s r e k hr haon hnone hcause
    have hexec := exec_supplyRailEvent_watched hr haon e
    simp only [Bool.not_eq_true'] at hcause
    rcases hcause with ⟨rfl, rfl, h0, hb, hs⟩ | ⟨rfl, rfl, h0, hb, hs, ht, hc⟩ | ⟨rfl, rfl, hu, hb, ht⟩ | ⟨rfl, rfl, hu, q, hq, hst, hl⟩ |
      ⟨rfl, rfl, hs⟩ | ⟨rfl, rfl, hs⟩
    · exact ⟨_, hexec.trans (congrArg (fun u => Host.Outcome.next (settleRails u)) (riseTen_order h0 hb hs)), settleRails_enterFault (by decide) hnone _⟩
    · exact ⟨_, hexec.trans (congrArg (fun u => Host.Outcome.next (settleRails u)) (riseTen_separation h0 hb hs ht hc)), settleRails_enterFault (by decide) hnone _⟩
    · exact ⟨_, hexec.trans (congrArg (fun u => Host.Outcome.next (settleRails u)) (riseNinety_slow hu hb ht)), settleRails_enterFault (by decide) hnone _⟩
    · exact ⟨_, hexec.trans (congrArg (fun u => Host.Outcome.next (settleRails u)) (fallNinety_downOrder hu hq hst hl)), settleRails_enterFault (by decide) hnone _⟩
    · exact ⟨_, hexec.trans (congrArg (fun u => Host.Outcome.next (settleRails u)) (outside_afterStart _ hs)), settleRails_enterFault (by decide) hnone _⟩
    · exact ⟨_, hexec.trans (congrArg (fun u => Host.Outcome.next (settleRails u)) (outside_afterStart _ hs)), settleRails_enterFault (by decide) hnone _⟩
  case aon =>
    intro s haon
    simp only [Bool.not_eq_true'] at haon ⊢
    cases hfind : ((List.range Config.rails).drop 1).find? fun q => ((aonRisen s).rail q).above10 with
    | none =>
      exact ⟨_, exec_vddAonRise_alone haon hfind, rfl, rfl, rfl, rfl, rfl, rfl, fun _ => ⟨rfl, rfl, rfl⟩⟩
    | some q =>
      obtain ⟨record, -, -, -, hfault⟩ := enterFault_enters (s := aonRisen s) .order q rfl
      refine ⟨_, exec_vddAonRise_late haon hfind, ?_⟩
      rw [hfault]
      refine ⟨rfl, rfl, rfl, rfl, rfl, rfl, fun hdown => ?_⟩
      have hmem : 0 < q ∧ q < 47 := by
        have hrange : (List.range Config.rails).drop 1 = List.range' 1 46 := by decide
        have := List.mem_of_find?_eq_some hfind
        rw [hrange, List.mem_range'_1] at this
        omega
      have hup := List.find?_some hfind
      have hsame : (aonRisen s).rail q = s.rail q := setRail_rail_other (by omega)
      rw [hsame, hdown q hmem.1 hmem.2] at hup
      cases hup

end Sys2Proof.Proofs
end

section
/-! RESET_N (R336, R337, R339, R340), the endpoints' resets (R341) and the trip of a die (R354). With them O33 and O35. -/
namespace Sys2Proof.Proofs
open Sys2Proof.Machine Sys2Proof.Laws

variable {s : State}

/-! ### Links changed one by one (R259) -/

theorem setLink_link_other {p q : Nat} {f : Link → Link} (h : p ≠ q) : (s.setLink q f).link p = s.link p := by
  change (s.links.modify q f).getD p {} = s.links.getD p {}
  simp [List.getD_eq_getElem?_getD, Ne.symm h]

theorem forEach_setLink_other {f : Nat → Link → Link} {p : Nat} {ps : List Nat} (h : p ∉ ps) :
    ∀ s : State, (forEach ps (fun q => State.setLink q (f q)) s).link p = s.link p := by
  induction ps with
  | nil => exact fun _ => rfl
  | cons q qs ih =>
    intro s
    obtain ⟨hq, hqs⟩ := not_or.mp (mt List.mem_cons.mpr h)
    exact (ih hqs _).trans (setLink_link_other hq)

theorem forEach_setLink_same {f : Nat → Link → Link} {p : Nat} {ps : List Nat} (hnodup : ps.Nodup) (hp : p ∈ ps) :
    ∀ s : State, p < s.links.length → (forEach ps (fun q => State.setLink q (f q)) s).link p = f p (s.link p) := by
  induction ps with
  | nil => cases hp
  | cons q qs ih =>
    intro s hlen
    obtain ⟨hq, hqs⟩ := List.nodup_cons.mp hnodup
    change (forEach qs _ (s.setLink q (f q))).link p = _
    rcases List.mem_cons.mp hp with rfl | hp
    · rw [forEach_setLink_other hq, link_setLink hlen]
    · have hne : p ≠ q := fun h => hq (h ▸ hp)
      rw [ih hqs hp _ (by rw [setLink_links, lmap_length]; exact hlen), setLink_link_other hne]

/-! ### A low of RESET_N (R259, R337) -/

/-- A state without its links. -/
def unlinked (s : State) : State := { s with links := [] }

/-- The announcements of idle write the links alone. -/
theorem announceIdle_writes (before s : State) : announceIdle before s = { s with links := (announceIdle before s).links } := by
  have hrest : unlinked (announceIdle before s) = unlinked s := by
    unfold announceIdle
    refine forEach_keeps unlinked (fun p u => ?_) _ s
    rfl
  exact congrArg (fun u : State => { u with links := (announceIdle before s).links }) hrest

/-- The part with RESET_N low for `n` ns. -/
def lowFor (n : Nat) (s : State) : State := { s with clock := s.clock + n, freeCount := s.freeCount + 1 }

/-- The part as a low of `n` ns leaves it. -/
def resetBy (n : Nat) (s : State) : State :=
  let u := announceIdle (lowFor n s) (clearPart (lowFor n s))
  { u with supply := { u.supply with resetN := false, lowAt := s.clock } }

theorem exec_resetNAssert_long {n : Nat} (hhigh : s.supply.resetN = true) (haon : (s.rail 0).above10 = true) (hn : 1000 ≤ n) :
    exec (.resetNAssert n) s = .next (resetBy n s) := by
  refine congrArg Host.Outcome.next (Eq.trans (if_neg (by simp [hhigh, haon])) (if_neg ?_))
  simp [State.resetQualifies, hn]

theorem exec_resetNAssert_short {n : Nat} (hhigh : s.supply.resetN = true) (haon : (s.rail 0).above10 = true) (hn : n < 500) :
    exec (.resetNAssert n) s = .next (lowFor n s) := by
  refine congrArg Host.Outcome.next (Eq.trans (if_neg (by simp [hhigh, haon])) (if_pos ?_))
  simp [State.resetQualifies]
  omega

/-- Of a part in reset, a link is that of reset but where its port was UP: there GOING_IDLE runs on. -/
theorem resetBy_link (n p : Nat) : (resetBy n s).link p = if p < 128 ∧ s.portUp p = true then
    { State.reset.link p with goingIdleRows := 64, rowCnt := (s.link p).rowCnt, txScr := (s.link p).txScr } else State.reset.link p := by
  have hmem : p ∈ (List.range 128).filter (lowFor n s).portUp ↔ p < 128 ∧ s.portUp p = true := by
    rw [List.mem_filter, List.mem_range]
    rfl
  split
  case isTrue h => exact forEach_setLink_same (List.nodup_range.filter _) (hmem.mpr h) (clearPart (lowFor n s)) (by simpa [clearPart, State.reset] using h.1)
  case isFalse h => exact forEach_setLink_other (fun hp => h (hmem.mp hp)) (clearPart (lowFor n s))

/-! ### A release of RESET_N (R336, R339) -/

section
variable (hlow : s.supply.resetN = false) (href : s.refclk.present.all (!·) = false)
include hlow href

theorem exec_resetNRelease_leaves (hleaves : s.leaves = true) :
    exec .resetNRelease s = .next { s with supply := { s.supply with
      resetN := true, fault := .none, thermtrip := false, faultN := false, held := true } } := by
  refine congrArg Host.Outcome.next (Eq.trans (if_neg (by simp [hlow])) ?_)
  dsimp only
  rw [if_neg (ne_true_of_eq_false href)]
  exact if_pos hleaves

theorem exec_resetNRelease_holds (hleaves : s.leaves = false) :
    exec .resetNRelease s = .next { s with supply := { s.supply with resetN := true } } := by
  refine congrArg Host.Outcome.next (Eq.trans (if_neg (by simp [hlow])) ?_)
  dsimp only
  rw [if_neg (ne_true_of_eq_false href)]
  exact if_neg (ne_true_of_eq_false hleaves)

end

/-! ### A release that takes effect (R339, R340) -/

/-- The part as its release takes effect, 1 ms after rails and REFCLK are valid: lifecycle, telemetry counter and groups start anew. -/
def released (g v : Nat) (s : State) : State :=
  let u := s.reach (max (g + 1000000) (v + 1000000))
  { u with
    supply := { u.supply with inReset := false, held := false, resetCount := u.supply.resetCount + 1, releasedAt := u.clock
                              loopAt := u.clock }
    refclk := { u.refclk with inUse := if u.refclk.present.getD u.refclk.inUse false then u.refclk.inUse else 1 - u.refclk.inUse }
    groups := u.groups.map fun _ => { workAt := u.clock }
    trust := { u.trust with lifecycle := u.trust.fusedLifecycle } }

/-- ROM starts, with the debug level the lifecycle gives. -/
def romStarts (s : State) : State := { s with dbg := { s.dbg with level := releaseLevel s.trust }, boot := { s.boot with stage := .rom } }

theorem exec_resetReleaseEffective_held {g v : Nat} {r : ResetTests} (hg : s.supply.goodSince = some g) (hv : s.refclkSince = some v)
    (hheld : s.supply.held = true) (hhigh : s.supply.resetN = true) (hin : s.supply.inReset = true) (hfault : s.supply.fault = .none)
    (htrip : s.supply.thermtrip = false) (hwipe : s.trust.wiping = false) :
    exec (.resetReleaseEffective r) s = .next (applyTests r (romStarts (giveIdentity (released g v s)))) := by
  have hwiped : finishWipe (released g v s) = (released g v s, true) := if_pos (by simp [released, State.reach, hwipe])
  change execResetReleaseEffective r s = _
  unfold execResetReleaseEffective
  simp only [hg, hv]
  rw [if_neg (by simp [hheld, hhigh, hin, hfault, htrip])]
  change Host.Outcome.next (if (!(finishWipe (released g v s)).2) = true then _ else
    applyTests r (romStarts (giveIdentity (finishWipe (released g v s)).1))) = _
  rw [hwiped]
  rfl

/-- R357: a fresh identity key and the draw for it are all that is written. -/
theorem giveIdentity_writes (s : State) :
    giveIdentity s = { s with freeCount := (giveIdentity s).freeCount, trust := { s.trust with identityKey := (giveIdentity s).trust.identityKey } } := by
  unfold giveIdentity
  split <;> rfl

/-- A state without the parts the reset tests write beside the placement. -/
def untested (s : State) : State := { s with xbar := {}, dies := [], hbmStacks := [] }

/-- R388: the tests settle the placement, and write beside it the crossbar, the stacks and the ledger dies. -/
theorem applyTests_writes (r : ResetTests) (s : State) :
    applyTests r s = { s with
      placement := { usable := usablePairs s.trust r, journal0 := (usablePairs s.trust r).getD 0 Config.pairs
                     journal1 := (usablePairs s.trust r).getD 1 Config.pairs }
      xbar := (applyTests r s).xbar, dies := (applyTests r s).dies, hbmStacks := (applyTests r s).hbmStacks } := by
  have hrest : untested (applyTests r s) = untested { s with
      placement := { usable := usablePairs s.trust r, journal0 := (usablePairs s.trust r).getD 0 Config.pairs
                     journal1 := (usablePairs s.trust r).getD 1 Config.pairs } } := by
    unfold applyTests
    refine (forEach_keeps untested (fun i u => ?_) _ _).trans ((forEach_keeps untested (fun i u => ?_) _ _).trans ?_) <;> rfl
  exact congrArg (fun u : State => { u with
    xbar := (applyTests r s).xbar, dies := (applyTests r s).dies, hbmStacks := (applyTests r s).hbmStacks }) hrest

/-! ### O33 -/

/-- Settles O33: the row of each case, and what the cleared part, the announcements, the identity and the tests write. -/
theorem resetsComplete : Obligations.ResetsComplete := by
  unfold Obligations.ResetsComplete
  simp only [Bool.not_eq_true']
  refine ⟨⟨?long, fun s n hhigh haon hn => exec_resetNAssert_short hhigh haon hn⟩, fun s hlow href hl => exec_resetNRelease_leaves hlow href hl,
    fun s hlow href hl => exec_resetNRelease_holds hlow href hl, ?effective⟩
  case long =>
    intro s n hhigh haon hn
    have hlink := resetBy_link (s := s) n
    refine ⟨_, exec_resetNAssert_long hhigh haon hn, ?_⟩
    have hlinks : (∀ p, s.portUp p = false ∨ 128 ≤ p → (resetBy n s).link p = State.reset.link p) ∧
        ∀ p, p < 128 → s.portUp p = true → (resetBy n s).link p =
          { State.reset.link p with goingIdleRows := 64, rowCnt := (s.link p).rowCnt, txScr := (s.link p).txScr } := by
      refine ⟨fun p hp => (hlink p).trans (if_neg ?_), fun p hp hup => (hlink p).trans (if_pos ⟨hp, hup⟩)⟩
      rintro ⟨hlt, hup⟩
      rcases hp with hdown | hge
      · rw [hdown] at hup; cases hup
      · omega
    have hrest : resetBy n s = { clearPart (lowFor n s) with
        links := (announceIdle (lowFor n s) (clearPart (lowFor n s))).links
        supply := { (clearPart (lowFor n s)).supply with resetN := false, lowAt := s.clock } } := by
      unfold resetBy
      rw [announceIdle_writes]
    rw [hrest] at hlinks ⊢
    exact ⟨rfl, rfl, rfl, rfl, rfl, rfl, rfl, rfl, rfl, rfl, rfl, rfl, rfl, rfl, rfl, rfl, rfl, rfl, rfl, rfl, rfl, hlinks.1, hlinks.2, rfl, rfl, rfl, rfl,
      rfl, rfl, rfl, rfl, rfl, rfl, rfl, rfl, rfl, rfl⟩
  case effective =>
    intro s g v r hg hv hheld hhigh hin hfault htrip hwipe
    refine ⟨_, exec_resetReleaseEffective_held hg hv hheld hhigh hin hfault htrip hwipe, ?_⟩
    rw [applyTests_writes, giveIdentity_writes]
    exact ⟨rfl, rfl, rfl, rfl, rfl, rfl, rfl, rfl, rfl, rfl⟩

/-! ### O35 -/

/-- R354: the die that trips is held at its trip temperature at least, and the part is cleared. -/
theorem exec_thermtrip {d : Nat} (hd : dieExists d = true) :
    exec (.thermtrip d) s = .next (clearPart { s with supply := { s.supply with
      thermtrip := true
      celsius := tset d (max (tripAtC d) ((tget d s.supply.celsius).getD (tripAtC d))) s.supply.celsius } }) := guardUnit_of_exists hd

/-- Settles O35: the two rows of an endpoint, and what the cleared part keeps of the trip. -/
theorem perstAndThermtripComplete : Obligations.PerstAndThermtripComplete := by
  unfold Obligations.PerstAndThermtripComplete
  refine ⟨fun s e he => ⟨guardUnit_of_exists (decide_eq_true he), guardUnit_of_exists (decide_eq_true he)⟩, fun s d hd => ?_⟩
  refine ⟨_, exec_thermtrip hd, rfl, ?_, rfl, rfl, rfl, rfl, rfl, rfl, rfl, ?_⟩
  · simp [clearPart]
  · change tripAtC d ≤ (tget d (tset d (max (tripAtC d) ((tget d s.supply.celsius).getD (tripAtC d))) s.supply.celsius)).getD 0
    rw [tget_tset_same]
    exact le_max_left ..

end Sys2Proof.Proofs
end

section
/-! Boot (R340, R341, R359-R361, R302, R317): ROM's choice of a slot, and the start that ends in READY. With them O34. -/
namespace Sys2Proof.Proofs
open Sys2Proof.Machine Sys2Proof.Laws

variable {s v : State} {p : Bool}

/-! ### ROM (R340, R361, Table 17.6) -/

section
variable (hrom : s.boot.stage = .rom) (hp : p = s.boot.slotState.2.1) (hv : v = { s with boot := { s.boot with preferredB := p } })
include hrom hp hv

theorem exec_bootVerifyDone_preferred (hc : slotCode v p = 0) :
    exec (.bootVerifyDone true true) s = .next (startFirmware p (noteCode p 0 v)) := by
  subst hp hv
  refine congrArg Host.Outcome.next (Eq.trans (if_neg (not_not.mpr hrom)) ?_)
  simp [hc]

theorem exec_bootVerifyDone_other (hc : slotCode v p ≠ 0) (hd : slotCode (noteCode p (slotCode v p) v) (!p) = 0) :
    exec (.bootVerifyDone true true) s = .next (startFirmware (!p) (noteCode (!p) 0 (noteCode p (slotCode v p) v))) := by
  subst hp hv
  refine congrArg Host.Outcome.next (Eq.trans (if_neg (not_not.mpr hrom)) ?_)
  simp [hc, hd]

theorem exec_bootVerifyDone_neither {d : Nat} (hc : slotCode v p ≠ 0) (hd : d = slotCode (noteCode p (slotCode v p) v) (!p)) (hd0 : d ≠ 0) :
    exec (.bootVerifyDone true true) s = .next (bootFails d (noteCode (!p) d (noteCode p (slotCode v p) v))) := by
  subst hp hv hd
  refine congrArg Host.Outcome.next (Eq.trans (if_neg (not_not.mpr hrom)) ?_)
  simp [hc, hd0]

theorem exec_bootVerifyDone_noFlash :
    exec (.bootVerifyDone false true) s = .next (bootFails 0x01 (noteCode p 0x01 (noteCode (!p) 0x01 v))) := by
  subst hp hv
  exact congrArg Host.Outcome.next (if_neg (not_not.mpr hrom))

end

theorem noteCode_mailbox (code : Nat) : (noteCode p code s).mailbox = s.mailbox := by
  cases p <;> rfl

theorem bootFails_mailbox (code : Nat) : (bootFails code s).mailbox = s.mailbox := rfl

/-! ### The journal leaves the boot and the declared pseudo-channels (R271, R316) -/

/-- The pseudo-channels declared failing, stack by stack. -/
def declaredOf (s : State) : List (List Nat) := s.hbmStacks.map (·.declared)

theorem stack_declared (i : Nat) : (s.stack i).declared = (declaredOf s).getD i [] := by
  unfold State.stack declaredOf
  rw [List.getD_eq_getElem?_getD, List.getD_eq_getElem?_getD, List.getElem?_map]
  cases s.hbmStacks[i]? <;> rfl

theorem setStack_declared {f : Hbm → Hbm} (hf : ∀ h, (f h).declared = h.declared) (i : Nat) (s : State) :
    declaredOf (s.setStack i f) = declaredOf s := by
  unfold declaredOf
  refine List.ext_getElem? fun j => ?_
  change ((s.hbmStacks.modify i f).map (·.declared))[j]? = _
  rw [List.getElem?_map, List.getElem?_map, List.getElem?_modify]
  cases s.hbmStacks[j]? with
  | none => rfl
  | some h =>
    by_cases hij : i = j
    · simp [hij, hf]
    · simp [hij]

theorem findFailing_declared (pch cause : Nat) (h : Hbm) : (findFailing pch cause h).declared = h.declared := by
  unfold findFailing
  split <;> rfl

theorem countCorrected_declared (pair pch symbols : Nat) (s : State) : declaredOf (countCorrected pair pch symbols s) = declaredOf s := by
  refine setStack_declared (fun h => ?_) pair _
  dsimp only
  split
  · exact findFailing_declared ..
  · rfl

theorem countLost_declared (pair pch : Nat) (s : State) : declaredOf (countLost pair pch s) = declaredOf s := by
  refine setStack_declared (fun h => ?_) pair _
  dsimp only
  split
  · exact findFailing_declared ..
  · rfl

theorem touchChecks_declared (first count : Nat) (dirty : Bool) (i : Nat) (s : State) :
    declaredOf (s.setStack i (touchChecks first count dirty)) = declaredOf s := by
  refine setStack_declared (fun h => ?_) i s
  rfl

theorem decodeCount_declared (pair a : Nat) (back : Bool) (s : State) : declaredOf (decodeCount pair a back s) = declaredOf s := by
  unfold decodeCount
  dsimp only
  split
  case h_1 => exact touchChecks_declared ..
  case h_2 =>
    split
    · refine (setStack_declared (fun h => ?_) _ _).trans ((countCorrected_declared ..).trans (touchChecks_declared ..))
      rfl
    · exact (countCorrected_declared ..).trans (touchChecks_declared ..)
  case h_3 => exact (countLost_declared ..).trans (touchChecks_declared ..)

theorem workGroup_declared (g : Nat) (s : State) : declaredOf (workGroup g s) = declaredOf s := by
  unfold workGroup wakeGroup
  split
  · rfl
  · split <;> rfl

theorem writeBookLine_declared (seq : Nat) (s : State) : declaredOf (writeBookLine seq s) = declaredOf s := by
  refine forEach_keeps declaredOf (fun c s => ?_) _ s
  dsimp only
  split
  · exact decodeCount_declared ..
  · exact (touchChecks_declared ..).trans (decodeCount_declared ..)

theorem appendEntry_declared (e : FbEntry) (s : State) : declaredOf (appendEntry e s) = declaredOf s :=
  (writeBookLine_declared _ _).trans (forEach_keeps declaredOf workGroup_declared _ _)

theorem appendEntry_unjournaled (e : FbEntry) (s : State) : unjournaled (appendEntry e s) = unjournaled s :=
  (writeBookLine_unjournaled _ _).trans (workPairs_unjournaled _ _)

theorem journalEvent_declared (code parcel : Nat) (detail : List (Nat × Nat × Nat)) (s : State) :
    declaredOf (journalEvent code parcel detail s) = declaredOf s := by
  unfold journalEvent
  split
  · rfl
  · exact appendEntry_declared ..

theorem journalEvent_unjournaled (code parcel : Nat) (detail : List (Nat × Nat × Nat)) (s : State) :
    unjournaled (journalEvent code parcel detail s) = unjournaled s := by
  unfold journalEvent
  split
  · rfl
  · exact appendEntry_unjournaled ..

theorem journalEvent_boot (code parcel : Nat) (detail : List (Nat × Nat × Nat)) (s : State) :
    (journalEvent code parcel detail s).boot = s.boot :=
  (congrArg State.boot (journalEvent_unjournaled code parcel detail s) :)

/-! ### READY (R340, R302, R372) -/

theorem forEach_zeroSoon_boot (us : List Nat) (s : State) : (forEach us zeroSoon s).boot = s.boot := by
  refine forEach_keeps State.boot (fun i u => ?_) us s
  rfl

theorem forEach_zeroSoon_declared (us : List Nat) (s : State) : declaredOf (forEach us zeroSoon s) = declaredOf s := by
  refine forEach_keeps declaredOf (fun i u => setStack_declared (fun h => ?_) i u) us s
  rfl

theorem forEach_of_fixed {α : Type} {f : α → State → State} {xs : List α} (h : ∀ x ∈ xs, f x s = s) : forEach xs f s = s := by
  induction xs with
  | nil => rfl
  | cons x xs ih =>
    change forEach xs f (f x s) = s
    rw [h x (List.mem_cons_self ..)]
    exact ih fun y hy => h y (List.mem_cons_of_mem _ hy)

/-- R271, R317: the pseudo-channels that the reset test declared are journaled. -/
def journalDeclared (us : List Nat) (s : State) : State :=
  forEach us (fun i s => forEach (s.stack i).declared (fun c => journalEvent 0x06 0xFFFF [(64, 1, 0x60 + i), (65, 1, c), (66, 1, 1)]) s) s

theorem journalDeclared_none {us : List Nat} (h : ∀ i ∈ us, (s.stack i).declared = []) : journalDeclared us s = s :=
  forEach_of_fixed fun i hi => by rw [h i hi]; rfl

/-- R302: pair 63 starts for the in-band source that the running image names. -/
def startSource (s : State) : State :=
  match s.inBandSource with
  | some (part, port) => startInBand part port s
  | none => s

theorem startSource_none (h : imageField s.boot.runningImage 28 1 ≠ 1) : startSource s = s := by
  have hnone : s.inBandSource = none := if_neg fun hs => h hs.2
  rw [startSource, hnone]

/-- The part at the end of its start: READY, the book kept by the journal pairs there are, the image committed, every stack to be zeroed. -/
def readied (s : State) : State :=
  forEach s.placement.usable zeroSoon { s with
    boot := { s.boot with stage := .ready, bootMs := s.sinceRelease }
    book := { s.book with copy0 := decide (1 ≤ s.placement.usable.length), copy1 := decide (2 ≤ s.placement.usable.length) }
    trust := commitImage s.boot.runningImage s.trust }

theorem readied_boot : (readied s).boot = { s.boot with stage := .ready, bootMs := s.sinceRelease } := forEach_zeroSoon_boot _ _

theorem readied_declared (i : Nat) : ((readied s).stack i).declared = (s.stack i).declared := by
  rw [stack_declared, stack_declared]
  exact congrArg (List.getD · i []) (forEach_zeroSoon_declared _ _)

theorem exec_bootReady_plain (hstart : s.boot.stage = .fwStart) (hdeclared : ∀ i ∈ s.placement.usable, (s.stack i).declared = [])
    (hsource : imageField s.boot.runningImage 28 1 ≠ 1) :
    exec .bootReady s = .next (postFirmware 1 (journalEvent 0x01 0xFFFF
      [(64, 1, bit s.boot.slotB), (68, 4, s.boot.fwInstance.toNat)] (readied s))) := by
  refine congrArg Host.Outcome.next (Eq.trans (if_neg (not_not.mpr hstart)) (congrArg (postFirmware 1) ?_))
  have hevent : [(64, 1, bit (readied s).boot.slotB), (68, 4, (readied s).boot.fwInstance.toNat)] =
      [(64, 1, bit s.boot.slotB), (68, 4, s.boot.fwInstance.toNat)] := by rw [readied_boot]
  have hnone : ∀ i ∈ s.placement.usable, ((journalEvent 0x01 0xFFFF
      [(64, 1, bit s.boot.slotB), (68, 4, s.boot.fwInstance.toNat)] (readied s)).stack i).declared = [] := by
    intro i hi
    rw [stack_declared, journalEvent_declared, ← stack_declared, readied_declared, hdeclared i hi]
  have himage : imageField (journalEvent 0x01 0xFFFF
      [(64, 1, bit s.boot.slotB), (68, 4, s.boot.fwInstance.toNat)] (readied s)).boot.runningImage 28 1 ≠ 1 := by
    rw [journalEvent_boot, readied_boot]
    exact hsource
  change startSource (journalDeclared s.placement.usable (journalEvent 0x01 0xFFFF
    [(64, 1, bit (readied s).boot.slotB), (68, 4, (readied s).boot.fwInstance.toNat)] (readied s))) = _
  rw [hevent, journalDeclared_none hnone, startSource_none himage]

/-! ### O34 -/

/-- Settles O34: ROM's row by the codes of the two slots, and the row of READY. -/
theorem bootCompletes : Obligations.BootCompletes := by
  unfold Obligations.BootCompletes
  refine ⟨fun s p hrom hp => ⟨fun hc => ?preferred, ?other, ?neither, ?noFlash⟩, ?ready⟩
  case preferred => exact ⟨_, rfl, exec_bootVerifyDone_preferred hrom hp rfl hc⟩
  case other =>
    rintro c d v hv rfl hc rfl hd
    exact exec_bootVerifyDone_other hrom hp hv hc hd
  case neither =>
    rintro c d v hv rfl hc hd hd0
    exact ⟨_, exec_bootVerifyDone_neither hrom hp hv hc hd hd0, rfl, rfl,
      by rw [bootFails_mailbox, noteCode_mailbox, noteCode_mailbox, hv]⟩
  case noFlash => exact ⟨_, exec_bootVerifyDone_noFlash hrom hp rfl, rfl, rfl⟩
  case ready =>
    rintro s u hstart hdeclared hsource rfl
    exact exec_bootReady_plain hstart (fun i hi => by simpa using List.all_eq_true.mp hdeclared i hi) hsource

end Sys2Proof.Proofs
end

section
/-! Heartbeats and watchdogs (R319, R362, R386, R389), the deadman (R363) and the end of a hand-over (R366, R368). With them O28, O29, O30 and O45. -/
namespace Sys2Proof.Proofs
open Sys2Proof.Machine Sys2Proof.Laws

variable {s u v : State}

/-! ### Ledger pairs and MD (R319, R386, R389) -/

theorem exec_ledgerHeartbeatMiss_used {p : Nat} {stackSilent : Bool} (hp : p < 30) (hreset : s.supply.inReset = false)
    (hused : s.placement.usable.contains p = true) :
    exec (.ledgerHeartbeatMiss p stackSilent) s = .next (failPair p (if stackSilent then 4 else 1) s) :=
  (guardUnit_of_exists (decide_eq_true hp)).trans (congrArg _ (if_neg (by simp [hreset, List.contains_iff_mem.mp hused])))

theorem exec_mdHeartbeatMiss_runs (h : s.mdRuns = true) : exec .mdHeartbeatMiss s = .next (failMd s) := congrArg _ (if_pos h)

theorem exec_mdFirmwareFault_runs (h : s.mdRuns = true) : exec .mdFirmwareFault s = .next (restartMd s) := congrArg _ (if_pos h)

@[simp] theorem spoilHandover_clock (die : Nat) : (spoilHandover die s).clock = s.clock := by
  unfold spoilHandover
  split <;> rfl

@[simp] theorem spoilHandover_mailbox (die : Nat) : (spoilHandover die s).mailbox = s.mailbox := by
  unfold spoilHandover
  split <;> rfl

/-- R319: the first restart within 1 s mends the book, writes the missing completions and takes the next firmware number. -/
theorem restartMd_first (hnone : (s.mailbox.restarts.filter fun t => s.clock < t + 1000000000) = []) (hu : u = spoilHandover 0x80 s)
    (hv : v = rewriteCompletions (mendBook (u.setMailbox fun m => { m with restarts := [s.clock] }))) :
    restartMd s = postFirmware 2 (journalEvent 0x03 0xFFFF
      [(64, 4, (v.boot.fwInstance + 1).toNat), (68, 4, v.mailbox.running.length), (72, 4, 0)]
      { v with boot := { v.boot with fwInstance := v.boot.fwInstance + 1 } }) := by
  subst hu hv
  unfold restartMd
  dsimp only
  rw [if_neg (by rw [show secondNs = 1000000000 from rfl, hnone]; decide), spoilHandover_clock]

/-- R362: a second restart within 1 s fails MD. -/
theorem restartMd_again (hsome : (s.mailbox.restarts.filter fun t => s.clock < t + 1000000000) ≠ []) :
    restartMd s = failMd (spoilHandover 0x80 s) := by
  have hcond : (!(s.mailbox.restarts.filter fun t => s.clock < t + secondNs).isEmpty) = true := by
    rw [Bool.not_eq_true', List.isEmpty_eq_false_iff]
    exact hsome
  exact if_pos hcond

theorem exec_mgmtWatchdogExpiry_runs {core : Nat} (hcore : core < 4) (hruns : s.mdRuns = true) (hhalted : s.isHalted 0x80 core = false) :
    exec (.mgmtWatchdogExpiry core) s = .next (restartMd { s with trust := { s.trust with wdogMgmt := min 0xFF (s.trust.wdogMgmt + 1) } }) :=
  (guardUnit_of_exists (decide_eq_true hcore)).trans (congrArg _ (if_neg (by simp [hruns, hhalted])))

/-- Settles O28: each row, and a restart by the restarts of the last second. -/
theorem ledgerAndManagementFailures : Obligations.LedgerAndManagementFailures := by
  unfold Obligations.LedgerAndManagementFailures
  simp only [Bool.not_eq_true']
  refine ⟨fun s p b hp hreset hused => exec_ledgerHeartbeatMiss_used hp hreset hused, fun s h => exec_mdHeartbeatMiss_runs h,
    fun s h hnone => ?first, fun s h hsome => ?again, fun s c hc h hhalted => ?watchdog⟩
  case first => exact ⟨_, _, rfl, rfl, (exec_mdFirmwareFault_runs h).trans (congrArg _ (restartMd_first hnone rfl rfl))⟩
  case again =>
    refine ⟨_, rfl, (exec_mdFirmwareFault_runs h).trans (congrArg _ ((restartMd_again hsome).trans ?_))⟩
    rw [failMd, spoilHandover_mailbox]
  case watchdog =>
    rw [exec_mgmtWatchdogExpiry_runs hc h hhalted]
    exact (exec_mdFirmwareFault_runs (s := { s with trust := { s.trust with wdogMgmt := min 0xFF (s.trust.wdogMgmt + 1) } }) h).symm

/-! ### The other watchdogs (R122, R362, R386) -/

section
variable {l : List Nat}

theorem exec_seqWatchdogExpiry_counts {d : Nat} (hd : d < 30) (hreset : s.supply.inReset = false) (hstarted : s.boot.stage.started = true)
    (hfailed : s.pairFailed d = false) (hused : s.placement.usable.contains d = true) (hwatched : s.watched (groupOfDie d) = true)
    (hhalted : s.isHalted (0x40 + d) 0 = false)
    (hl : l = ((s.die d).expiries.filter fun t => s.clock < t + 1000000000) ++ [s.clock])
    (hu : u = spoilHandover (0x40 + d) { s with trust := { s.trust with wdogSeq := min 0xFF (s.trust.wdogSeq + 1) }
                                                dies := s.dies.modify d fun x => { x with expiries := l } }) :
    exec (.seqWatchdogExpiry d) s = .next (if 3 ≤ l.length then failPair d 2 u else u) := by
  subst hl hu
  exact (guardUnit_of_exists (decide_eq_true hd)).trans (congrArg _ (if_neg (by
    simp [hreset, hstarted, hfailed, List.contains_iff_mem.mp hused, hwatched, hhalted])))

theorem exec_laneWatchdogExpiry_counts {c : Nat} {ps : List Nat} (hc : c < 32) (hreset : s.supply.inReset = false)
    (hstarted : s.boot.stage.started = true) (hwatched : s.watched (c / 4) = true) (hhalted : s.isHalted c 0 = false)
    (hl : l = ((s.chiplets.getD c {}).expiries.filter fun t => s.clock < t + 1000000000) ++ [s.clock])
    (hps : ps = [4 * c, 4 * c + 1, 4 * c + 2, 4 * c + 3])
    (hu : u = spoilHandover c { s with trust := { s.trust with wdogLane := min 0xFF (s.trust.wdogLane + 1) }
                                       chiplets := s.chiplets.modify c fun x => { x with expiries := l } }) :
    exec (.laneWatchdogExpiry c) s = .next (if 8 ≤ l.length
      then forEach ps (fun p s => (idlePort p s).setPort p fun x => { x with heldIdle := true }) u
      else forEach ps (fun p s => if (s.port p).state = .training then enterIdle p s else s) u) := by
  subst hl hu hps
  exact (guardUnit_of_exists (decide_eq_true hc)).trans (congrArg _ (if_neg (by simp [hreset, hstarted, hwatched, hhalted])))

theorem exec_timebaseWatchdogExpiry_counts {t : Nat} (ht : t < 2) (hreset : s.supply.inReset = false)
    (hstarted : s.boot.stage.started = true) (hstopped : (s.timebases.getD t {}).stopped = false) (hhalted : s.isHalted (0x82 + t) 0 = false)
    (hl : l = ((s.timebases.getD t {}).expiries.filter fun x => s.clock < x + 1000000000) ++ [s.clock])
    (hu : u = passActive t (spoilHandover (0x82 + t) { s with trust := { s.trust with wdogTb := min 0xFF (s.trust.wdogTb + 1) }
                                                              timebases := s.timebases.modify t fun b => { b with expiries := l } })) :
    exec (.timebaseWatchdogExpiry t) s = .next (if 3 ≤ l.length then
      { u with timebases := u.timebases.modify t fun b => { b with stopped := true, marks := [] } } else u) := by
  subst hl hu
  refine (guardUnit_of_exists (decide_eq_true ht)).trans (congrArg _ (if_neg ?_))
  rw [hreset, hstarted, hstopped, hhalted]
  decide

theorem exec_timebaseHeartbeatMiss_runs {t : Nat} (ht : t < 2) (hreset : s.supply.inReset = false)
    (hstopped : (s.timebases.getD t {}).stopped = false) :
    exec (.timebaseHeartbeatMiss t) s = .next (stopTimebase t (passActive t s)) := by
  refine (guardUnit_of_exists (decide_eq_true ht)).trans (congrArg _ (if_neg ?_))
  rw [hreset, hstopped]
  decide

end

/-- Settles O29: each clause is the lemma on its watchdog. -/
theorem watchdogExpiriesComplete : Obligations.WatchdogExpiriesComplete := by
  unfold Obligations.WatchdogExpiriesComplete
  simp only [Bool.not_eq_true']
  exact ⟨fun _ _ _ _ hd hr hs hf hp hw hh hl hu => exec_seqWatchdogExpiry_counts hd hr hs hf hp hw hh hl hu,
    fun _ _ _ _ _ hc hr hs hw hh hl hps hu => exec_laneWatchdogExpiry_counts hc hr hs hw hh hl hps hu,
    fun _ _ _ _ ht hr hs hst hh hl hu => exec_timebaseWatchdogExpiry_counts ht hr hs hst hh hl hu,
    fun _ _ ht hr hst => exec_timebaseHeartbeatMiss_runs ht hr hst⟩

/-! ### The deadman (R363) -/

/-- The part as the deadman leaves it. -/
def deadmanExpired (s : State) : State :=
  { failClosed 0x0B s with trust := { (failClosed 0x0B s).trust with deadman := true }, supply := { (failClosed 0x0B s).supply with faultN := true } }

theorem exec_deadmanExpiry_first (haon : (s.rail 0).above10 = true) (hfirst : s.trust.deadman = false) :
    exec .deadmanExpiry s = .next (deadmanExpired s) := congrArg _ (if_neg (by simp [haon, hfirst]))

theorem resetPairs_inactive : resetPairs.all (fun p => !p.active) = true := by decide

/-- Settles O30: the fields of the part that has failed closed. -/
theorem deadmanFailsClosed : Obligations.DeadmanFailsClosed := by
  unfold Obligations.DeadmanFailsClosed
  intro s haon hfirst
  exact ⟨_, exec_deadmanExpiry_first haon (by simpa using hfirst), rfl, rfl, rfl, rfl, rfl, rfl, rfl, rfl, rfl, rfl, rfl, resetPairs_inactive, rfl,
    rfl, rfl, rfl, rfl, rfl, rfl, rfl, rfl, rfl, rfl⟩

/-! ### The end of a hand-over (R366, R368) -/

section
variable {since seq slot : Nat} {c : Coord}

theorem exec_handoverEnd_done (h : s.boot.handover = some (since, seq, c, slot)) :
    exec (.handoverEnd .done) s = .next (endHandover since seq slot s.boot.rollbackDie s) := by
  refine (guardUnit_of_exists rfl).trans (congrArg _ ?_)
  simp only [h]
  cases s.boot.rollbackDie <;> rfl

theorem exec_handoverEnd_rolledBack {d : Nat} (hd : handoverDie d = true) (h : s.boot.handover = some (since, seq, c, slot)) :
    exec (.handoverEnd (.rolledBack d)) s = .next (endHandover since seq slot (some (s.boot.rollbackDie.getD d)) s) := by
  refine (guardUnit_of_exists hd).trans (congrArg _ ?_)
  simp only [h]
  cases s.boot.rollbackDie <;> rfl

/-- What the end of a hand-over does, from the state in which the slot is settled. -/
theorem endHandover_settles {die : Option Nat} (hv : v = if die = none then switchSlot (slot == 1) (passActive s.refclk.active s) else s)
    (hu : u = { v with boot := { v.boot with fwInstance := v.boot.fwInstance + 1, handover := none, rollbackDie := none, queuedEvents := [] } }) :
    endHandover since seq slot die s = forEach v.boot.queuedEvents (fun q => postEvent q.1 q.2.1 q.2.2.1 q.2.2.2)
      (postFirmware 3 (journalEvent 0x02 0xFFFF [(64, 1, if die = none then 1 else 2), (65, 1, bit u.boot.slotB), (68, 4, u.boot.fwInstance.toNat),
        (72, 8, seq), (80, 4, (v.clock - since) / 1000), (84, 1, die.getD 0xFF)] u)) := by
  subst hu hv
  cases die <;> rfl

end

/-- Settles O45: the die that rolls the hand-over back, and what its end does. -/
theorem handoverEndCompletes : Obligations.HandoverEndCompletes := by
  unfold Obligations.HandoverEndCompletes
  rintro s since seq c slot outcome die h houtcome
  refine ⟨_, _, rfl, rfl, Eq.trans ?_ (congrArg Host.Outcome.next (endHandover_settles rfl rfl))⟩
  rcases houtcome with ⟨rfl, rfl⟩ | ⟨d, rfl, hd, rfl⟩
  · exact exec_handoverEnd_done h
  · exact exec_handoverEnd_rolledBack hd h

end Sys2Proof.Proofs
end

section
/-! The test access port (R342, R373): what its instructions leave at TDO and at the pins (R335, R358, R361), lifecycle transitions (R356) and debug
(R375-R377). With them O23, O24, O25 and O26. -/
namespace Sys2Proof.Proofs
open Sys2Proof.Machine Sys2Proof.Laws

variable {s t u : State}

/-- R342: with VDD_AON up an instruction does its work, with itself selected. -/
theorem withTap_of_aon (h : (s.rail 0).above10 = true) (ir : Tap) (work : State → State) :
    withTap ir work s = work { s with trust := { s.trust with ir := ir } } := if_pos h

/-! ### Reading instructions -/

theorem withTap_gives (h : (s.rail 0).above10 = true) (ir : Tap) (bits : State → Nat) (value : State → Nat) :
    withTap ir (fun s => shiftOut (bits s) (value s) (letGo s)) s =
      s.tapGives ir (bits { s with trust := { s.trust with ir := ir } }) (value { s with trust := { s.trust with ir := ir } }) :=
  withTap_of_aon h ir _

theorem exec_bypass_unlisted (h : (s.rail 0).above10 = true) {code : BitVec 8} (b : Bool) (hcode : listedCode code.toNat = false) :
    exec (.bypass code b) s = .next (s.tapGives .bypass 2 (2 * bit b)) :=
  congrArg Host.Outcome.next ((if_neg (by simp [hcode])).trans (withTap_gives h .bypass (fun _ => 2) fun _ => 2 * bit b))

/-- Settles O23: each register is read in the state that has the instruction selected. -/
theorem tapReadingsComplete : Obligations.TapReadingsComplete := by
  unfold Obligations.TapReadingsComplete
  intro s h
  refine ⟨?idcode, ?supplyRec, ?tdState, ?bootLog, ?monument, fun nonce => ?attest, ?reset, fun code b hcode => ?bypass⟩
  case idcode => exact congrArg Host.Outcome.next (withTap_gives h _ (fun _ => 32) fun s => idcodeOf s.trust)
  case supplyRec => exact congrArg Host.Outcome.next (withTap_gives h _ (fun _ => 128) fun s => s.supply.record.word)
  case tdState => exact congrArg Host.Outcome.next (withTap_gives h _ (fun _ => 128) State.tdState)
  case bootLog => exact congrArg Host.Outcome.next (withTap_of_aon h ..)
  case monument =>
    exact congrArg Host.Outcome.next (withTap_gives h _ (fun s => 8 * s.trust.monumentBytes.length) fun s => leNat s.trust.monumentBytes)
  case attest => exact congrArg Host.Outcome.next (withTap_gives h _ (fun _ => 1664) fun s => leNat (s.report nonce ++ s.attestation nonce))
  case reset => exact congrArg Host.Outcome.next (withTap_gives h _ (fun _ => 0) fun _ => 0)
  case bypass => exact exec_bypass_unlisted h b (by simpa [listedCode] using hcode)

/-! ### Boundary scan -/

/-- Settles O24: each instruction works in the state that has it selected. -/
theorem boundaryScanCompletes : Obligations.BoundaryScanCompletes := by
  unfold Obligations.BoundaryScanCompletes
  intro s h
  exact ⟨fun l => congrArg Host.Outcome.next (withTap_of_aon h ..), fun pins l => congrArg Host.Outcome.next (withTap_of_aon h ..),
    congrArg Host.Outcome.next (withTap_of_aon h ..), congrArg Host.Outcome.next (withTap_of_aon h ..)⟩

/-! ### Lifecycle transitions (R356) -/

section
variable {r : Transition} {record : Bytes}

/-- The key that signs a return: the owner's where OWNER_DIGEST is fused, else a vendor's (Table 17.2). -/
def returnKey (t : Trust) (key : Bytes) : Bool := match t.ownerDigest with
  | some d => beNat (sha384 key) == d
  | none => t.vendorKey key

/-- The part after a transition to PROVISIONED. -/
def toProvisioned (r : Transition) (s : State) : State :=
  { s with trust := { s.trust with fusedLifecycle := .provisioned, monument := r.payload, monumentDigest := some (beNat (sha384 r.payload)) } }

/-- The part after a transition to DEPLOYED. -/
def toDeployed (r : Transition) (s : State) : State :=
  { s with trust := { s.trust with fusedLifecycle := .deployed, ownerDigest := if beNat r.payload = 0 then none else some (beNat r.payload) } }

/-- A return asks for the record's key and an empty payload, from whatever lifecycle it starts. -/
theorem transit_return (h : (if (r.serial == s.trust.serial.toNat && verifies r.key r.signature r.signed && returnKey s.trust r.key &&
      r.payload.isEmpty) = true then some (beginWipe s) else none) = some t) :
    (r.serial = s.trust.serial.toNat ∧ verifies r.key r.signature r.signed = true) ∧ returnKey s.trust r.key = true ∧ t = beginWipe s := by
  obtain ⟨hok, ht⟩ := Option.ite_none_right_eq_some.mp h
  simp only [Bool.and_eq_true, beq_iff_eq] at hok
  obtain ⟨⟨hgood, hkey⟩, -⟩ := hok
  exact ⟨hgood, hkey, (Option.some.inj ht).symm⟩

/-- R356: an accepted record is the part's own, its signature verifies, and it makes one of Table 17.2's transitions. -/
theorem transit_cases (h : transit r s = some t) :
    (r.serial = s.trust.serial.toNat ∧ verifies r.key r.signature r.signed = true) ∧
    ((s.trust.fusedLifecycle = .blank ∧ r.target = 1 ∧ s.trust.vendorKey r.key = true ∧ t = toProvisioned r s) ∨
     (s.trust.fusedLifecycle = .provisioned ∧ r.target = 2 ∧ s.trust.vendorKey r.key = true ∧ t = toDeployed r s) ∨
     ((s.trust.fusedLifecycle = .provisioned ∨ s.trust.fusedLifecycle = .deployed) ∧ r.target = 3 ∧ returnKey s.trust r.key = true ∧
      t = beginWipe s)) := by
  unfold transit at h
  dsimp only at h
  split at h
  case h_1 hl htarget =>
    obtain ⟨hok, ht⟩ := Option.ite_none_right_eq_some.mp h
    simp only [Bool.and_eq_true, beq_iff_eq] at hok
    obtain ⟨⟨hgood, hkey⟩, -⟩ := hok
    exact ⟨hgood, .inl ⟨hl, htarget, hkey, (Option.some.inj ht).symm⟩⟩
  case h_2 hl htarget =>
    obtain ⟨hok, ht⟩ := Option.ite_none_right_eq_some.mp h
    simp only [Bool.and_eq_true, beq_iff_eq] at hok
    obtain ⟨⟨hgood, hkey⟩, -⟩ := hok
    exact ⟨hgood, .inr (.inl ⟨hl, htarget, hkey, (Option.some.inj ht).symm⟩)⟩
  case h_3 hl htarget =>
    obtain ⟨hgood, hkey, ht⟩ := transit_return h
    exact ⟨hgood, .inr (.inr ⟨.inl hl, htarget, hkey, ht⟩)⟩
  case h_4 hl htarget =>
    obtain ⟨hgood, hkey, ht⟩ := transit_return h
    exact ⟨hgood, .inr (.inr ⟨.inr hl, htarget, hkey, ht⟩)⟩
  case h_5 => cases h

theorem finishWipe_fused (s : State) : (finishWipe s).1.trust.fusedLifecycle = s.trust.fusedLifecycle := by
  unfold finishWipe
  dsimp only
  split_ifs <;> rfl

theorem finishWipe_lifecycle (s : State) : (finishWipe s).1.trust.lifecycle = s.trust.lifecycle := by
  unfold finishWipe
  dsimp only
  split_ifs <;> rfl

/-- R356: with RESET_N low the record is judged. -/
theorem exec_lcTransition_low (haon : (s.rail 0).above10 = true) (hlow : s.supply.resetN = false) (hu : u = s.tapGives .lcTransition 0 0) :
    exec (.lcTransition record) s = .next (match (transitionOf record).bind fun r => transit r u with
      | some t => t
      | none => { u with trust := { u.trust with lcErr := min 15 (u.trust.lcErr + 1) } }) := by
  subst hu
  exact congrArg Host.Outcome.next ((withTap_of_aon haon _ _).trans (if_neg (by simp [shiftOut, letGo, hlow])))

theorem exec_lcTransition_high (haon : (s.rail 0).above10 = true) (hhigh : s.supply.resetN = true) :
    exec (.lcTransition record) s = .next (s.tapGives .lcTransition 0 0) :=
  congrArg Host.Outcome.next ((withTap_of_aon haon _ _).trans (if_pos hhigh))

/-- Settles O25: the level of RESET_N and the verdict on the record decide; `transit_cases` says what an accepted record is. -/
theorem lifecycleTransitionsComplete : Obligations.LifecycleTransitionsComplete := by
  unfold Obligations.LifecycleTransitionsComplete
  simp only [Bool.not_eq_true']
  refine ⟨?row, fun s r t h => ?record⟩
  case row =>
    intro s u record haon hu
    refine ⟨fun hhigh => ?_, fun hlow r t hr ht => ?_, fun hlow hnone => ?_⟩
    · rw [hu, exec_lcTransition_high haon hhigh]
    · rw [exec_lcTransition_low haon hlow hu, hr, Option.bind_some, ht]
    · rw [exec_lcTransition_low haon hlow hu, hnone, hu]
      rfl
  case record =>
    obtain ⟨⟨hserial, hsigned⟩, hcase⟩ := transit_cases h
    rcases hcase with ⟨hl, htarget, hkey, rfl⟩ | ⟨hl, htarget, hkey, rfl⟩ | ⟨hl, htarget, hkey, rfl⟩
    · exact ⟨.inl ⟨hl, rfl, htarget⟩, hserial, hsigned, fun _ => hkey, fun _ h3 => absurd (htarget.symm.trans h3) (by decide), rfl⟩
    · exact ⟨.inr (.inl ⟨hl, rfl, htarget⟩), hserial, hsigned, fun _ => hkey, fun _ h3 => absurd (htarget.symm.trans h3) (by decide), rfl⟩
    · refine ⟨.inr (.inr ⟨hl, finishWipe_fused _, htarget⟩), hserial, hsigned, ?_, fun d _ hd => ?_, finishWipe_lifecycle _⟩
      · rintro (h3 | hnone)
        · exact absurd h3 (by omega)
        · simpa [returnKey, hnone] using hkey
      · simpa [returnKey, hd] using hkey

end

/-! ### Entering a session (R375) -/

/-- Debug closes a session that has ended, and touches nothing else. -/
theorem enterDebug_session (s : State) : enterDebug s = { s with dbg := (enterDebug s).dbg } := by
  unfold enterDebug settleDebug closeDebug
  dsimp only
  split_ifs <;> rfl

/-- The state with other contents in the port and the scan cells. -/
def withTapPort (tr : Trust) (sc : Scan) (s : State) : State := { s with trust := tr, scan := sc }

theorem settleDebug_withTapPort (tr : Trust) (sc : Scan) (s : State) : settleDebug (withTapPort tr sc s) = withTapPort tr sc (settleDebug s) := by
  rw [settleDebug, settleDebug, apply_ite (withTapPort tr sc)]
  rfl

/-- Whether a session has ended does not depend on the port or the scan cells. -/
theorem enterDebug_withTapPort (tr : Trust) (sc : Scan) (s : State) : enterDebug (withTapPort tr sc s) = withTapPort tr sc (enterDebug s) := by
  rw [enterDebug, enterDebug, settleDebug_withTapPort, apply_ite (withTapPort tr sc)]
  rfl

/-- The part once a debug instruction is selected and its session settled. -/
def debugEntered (ir : Tap) (s : State) : State := shiftOut 0 0 (enterDebug (letGo { s with trust := { s.trust with ir := ir } }))

theorem debugEntered_eq (ir : Tap) (s : State) :
    debugEntered ir s = { s with
      trust := { s.trust with ir := ir, tdo := 0, tdoBits := 0 }
      scan := { s.scan with driven := false, floating := false }, dbg := (enterDebug s).dbg } := by
  have hport := enterDebug_withTapPort { s.trust with ir := ir } { s.scan with driven := false, floating := false } s
  rw [enterDebug_session s] at hport
  exact congrArg (shiftOut 0 0) hport

theorem debugEntered_dbg (ir : Tap) (s : State) : (debugEntered ir s).dbg = (enterDebug s).dbg := by rw [debugEntered_eq]

/-! ### What an access does (R376, R377) -/

section
variable {d a n : Nat} {sp : DebugSpace} {w : Option Byte} {act : DebugAction}

/-- R347: an access to a running group's die does its work there. -/
theorem onDieId_of_running (h : ∀ g, groupOfDieId d = some g → s.running g = true) (work : State → State) :
    onDieId d work s = work (s.reached d) := by
  unfold onDieId State.reached
  cases hg : groupOfDieId d with
  | none => rfl
  | some g => exact onGroup_of_running (h g hg) work

/-- Table 17.15: what DBG_MEM does once its level reaches. -/
def debugAccess (sp : DebugSpace) (a : Nat) (w : Option Byte) (s : State) : State := match w with
  | some b => debugWrite sp a b s
  | none => match s.debugRead sp a with
    | some v => State.draw 1 (shiftOut 8 v s)
    | none => s

theorem exec_dbgTrace_entered (haon : (s.rail 0).above10 = true) (hd : dieExists d = true) (hstack : (0x60 ≤ d && decide (d < 0x7E)) = false)
    (hu : u = enterDebug (letGo { s with trust := { s.trust with ir := .dbgTrace } })) :
    exec (.dbgTrace d) s = .next (
      if u.dbg.level = .none ∨ (u.isHeld ∧ !(u.dbg.level = .full ∧ d = 0x81)) then shiftOut 0 0 u
      else if u.dieState d = .l3 then shiftOut 1 1 u
      else State.draw 1 { u with trust := { u.trust with tdo := 2 * Config.debugWord d u.freeCount, tdoBits := 0 } }) := by
  subst hu
  exact (guardUnit_of_exists (by rw [hd, hstack]; rfl)).trans (congrArg Host.Outcome.next (withTap_of_aon haon ..))

theorem exec_dbgMem_entered (haon : (s.rail 0).above10 = true) (hsp : spaceHas a sp = true) (hu : u = debugEntered .dbgMem s) :
    exec (.dbgMem sp a w) s = .next (
      if u.isHeld ∨ !(u.dbg.level = .full ∨ (u.dbg.level = .parcel ∧ w.isNone)) then u
      else onDieId (spaceDie sp) (debugAccess sp a w) u) := by
  subst hu
  exact (guardUnit_of_exists hsp).trans (congrArg Host.Outcome.next (withTap_of_aon haon ..))

theorem exec_dbgCtrl_entered (haon : (s.rail 0).above10 = true) (hn : processorExists d n = true) (hu : u = debugEntered .dbgCtrl s) :
    exec (.dbgCtrl d n act) s = .next (
      if u.isHeld ∨ u.dbg.level ≠ .full ∨ d = 0x81 then u else onDieId d (debugControl d n act) u) := by
  subst hu
  exact (guardUnit_of_exists hn).trans (congrArg Host.Outcome.next (withTap_of_aon haon ..))

/-- DBG_MEM with a level that reaches, on a die whose group runs. -/
theorem exec_dbgMem_reaches (haon : (s.rail 0).above10 = true) (hsp : spaceHas a sp = true) (hu : u = debugEntered .dbgMem s)
    (hlevel : u.dbg.level = .full ∨ (u.dbg.level = .parcel ∧ w.isNone = true)) (hheld : u.isHeld = false)
    (hrun : ∀ g, groupOfDieId (spaceDie sp) = some g → u.running g = true) :
    exec (.dbgMem sp a w) s = .next (debugAccess sp a w (u.reached (spaceDie sp))) := by
  rw [exec_dbgMem_entered haon hsp hu, if_neg (not_or.mpr ⟨by simp [hheld], ?_⟩), onDieId_of_running hrun]
  simpa only [Bool.not_eq_true', Bool.not_eq_false, decide_eq_true_eq] using hlevel

/-! ### O26 -/

/-- What an access that is not let through leaves (R376): the port, the scan cells and the session alone may have moved, and nothing
stands at TDO. -/
def portOnly (s t : State) : Prop :=
  t = { s with trust := t.trust, scan := t.scan, dbg := (enterDebug s).dbg } ∧
    t.trust = { s.trust with ir := t.trust.ir, tdo := 0, tdoBits := 0 }

theorem portOnly_debugEntered (ir : Tap) (s : State) : portOnly s (debugEntered ir s) := by
  rw [debugEntered_eq]
  exact ⟨rfl, rfl⟩

/-- A row whose unit exists gives its work's state. -/
theorem of_guardUnit_next {ok : Bool} (h : guardUnit ok u = .next t) : ok = true ∧ u = t := by
  cases ok
  · cases h
  · exact ⟨rfl, Host.Outcome.next.inj h⟩

theorem dbgTrace_refused (haon : (s.rail 0).above10 = true) (hnone : (enterDebug s).dbg.level = .none)
    (h : exec (.dbgTrace d) s = .next t) : portOnly s t := by
  obtain ⟨-, rfl⟩ := of_guardUnit_next h
  rw [withTap_of_aon haon]
  dsimp only
  rw [if_pos (.inl ((congrArg Debug.level (debugEntered_dbg .dbgTrace s)).trans hnone))]
  exact portOnly_debugEntered ..

theorem dbgMem_refused (haon : (s.rail 0).above10 = true) (hlevel : (enterDebug s).dbg.level = .none ∨ (enterDebug s).dbg.level = .telemetry ∨
      ((enterDebug s).dbg.level = .parcel ∧ w ≠ none)) (h : exec (.dbgMem sp a w) s = .next t) : portOnly s t := by
  have hsp := (of_guardUnit_next h).1
  have hno : ¬ ((enterDebug s).dbg.level = .full ∨ ((enterDebug s).dbg.level = .parcel ∧ w.isNone = true)) := by
    rcases hlevel with hl | hl | ⟨hl, hw⟩ <;> rw [hl]
    · simp
    · simp
    · simpa using hw
  rw [exec_dbgMem_entered haon hsp rfl, if_pos (.inr (by simpa only [Bool.not_eq_true', decide_eq_false_iff_not, debugEntered_dbg] using hno))] at h
  cases h
  exact portOnly_debugEntered ..

theorem dbgCtrl_refused (haon : (s.rail 0).above10 = true) (hlevel : (enterDebug s).dbg.level ≠ .full ∨ d = 0x81)
    (h : exec (.dbgCtrl d n act) s = .next t) : portOnly s t := by
  have hn := (of_guardUnit_next h).1
  rw [exec_dbgCtrl_entered haon hn rfl, if_pos (.inr (by rwa [debugEntered_dbg]))] at h
  cases h
  exact portOnly_debugEntered ..

end

/-- Settles O26: the accesses that reach, and those that are refused. -/
theorem debugAccessesFollowTheirLevel : Obligations.DebugAccessesFollowTheirLevel := by
  unfold Obligations.DebugAccessesFollowTheirLevel
  simp only [Bool.not_eq_true']
  refine ⟨⟨?trace, ?read, ?write, ?control⟩, ?refused⟩
  case trace =>
    intro s u d haon hd hstack hu hlevel hheld hl3
    rw [exec_dbgTrace_entered haon hd hstack hu, if_neg (by simp [hlevel, hheld]), if_neg hl3]
    rfl
  case read =>
    intro s u sp a v haon hsp hu hlevel hheld hrun hread
    rw [exec_dbgMem_reaches haon hsp hu (hlevel.imp_right fun hp => ⟨hp, rfl⟩) hheld hrun, debugAccess]
    simp only [hread]
  case write =>
    exact fun s u sp a b haon hsp hu hlevel hheld hrun => exec_dbgMem_reaches haon hsp hu (.inl hlevel) hheld hrun
  case control =>
    intro s u d n act haon hn hd hu hlevel hheld hrun
    rw [exec_dbgCtrl_entered haon hn hu, if_neg (by simp [hheld, hlevel, hd]), onDieId_of_running hrun]
  case refused =>
    rintro s t haon (⟨d, hnone, h⟩ | ⟨sp, a, w, hlevel, h⟩ | ⟨d, n, act, hlevel, h⟩)
    · exact dbgTrace_refused haon hnone h
    · exact dbgMem_refused haon hlevel h
    · exact dbgCtrl_refused haon hlevel h

end Sys2Proof.Proofs
end

section
/-! Commands on parcels, phase plats and their selection (R190, R193, R370, R371): what an accepted command begins. With them O13. -/
namespace Sys2Proof.Proofs
open Sys2Proof.Machine Sys2Proof.Laws

theorem begun_parcels (s : State) (c : Command) (a : Accepted) : (s.begun c a).parcels = s.parcels :=
  (congrArg State.parcels (begun_unjournaled s c a) :)

section
variable {c : Cmd} {s : State} {a : Accepted}

/-! ### PARCEL_CREATE (R370, R371) -/

/-- R370: the reserved OP is a bad argument. -/
theorem parcelVerdict_op (h : parcelVerdict c s = .accept a) : c.arg 0 2 ≠ 3 := by
  have hbad := (verdictOf_accept h).2 (decide (c.arg 0 2 = 3 ∨ c.target = 0 ∨ c.target = 0xFFFF) || (c.arg 0 2 < 2 && !platOk c.buffer) ||
    (c.arg 0 2 ≠ 0 && (s.parcel c.target).isNone), Status.badArg)
    (List.mem_append_left _ (List.mem_append_right _ (List.mem_cons_self ..)))
  simp only [Bool.or_eq_false_iff, decide_eq_false_iff_not] at hbad
  exact fun h3 => hbad.1.1 (.inl h3)

theorem parcelVerdict_creates (h : parcelVerdict c s = .accept a) (hop : c.arg 0 2 = 0) (n : Nat) (u : State) :
    a.effect n u = grantPairs c.target c.pairMask { u with parcels := tset c.target { plat := platOf c.buffer } u.parcels } := by
  cases (verdictOf_accept h).1
  exact if_pos hop

theorem parcelVerdict_setsPlat (h : parcelVerdict c s = .accept a) (hop : c.arg 0 2 = 1) (n : Nat) (u : State) :
    a.effect n u = settleDebug (grantPairs c.target c.pairMask
      (u.setParcel c.target fun p => { p with plat := platOf c.buffer, version := p.version + 1 })) := by
  cases (verdictOf_accept h).1
  exact (if_neg (by omega)).trans (if_pos hop)

theorem parcelVerdict_removes (h : parcelVerdict c s = .accept a) (hop : c.arg 0 2 = 2) (n : Nat) (u : State) :
    a.effect n u = settleDebug { grantPairs c.target 0 u with parcels := tdel c.target (grantPairs c.target 0 u).parcels } := by
  cases (verdictOf_accept h).1
  exact (if_neg (by omega)).trans (if_neg (by omega))

/-! ### PLAT_SET (R190) -/

theorem phaseVerdict_writes {x : PhasePlat} (h : phaseVerdict c s = .accept a)
    (hx : x = (((s.parcel c.parcel).getD {}).phases).getD (c.arg 0 2) {}) (n : Nat) (u : State) :
    a.effect n u = u.setParcel c.parcel fun p =>
      { p with phases := p.phases.set (c.arg 0 2) { bearings := bearingsOf c.buffer, version := x.version + 1, selects := x.selects } } := by
  subst hx
  cases (verdictOf_accept h).1
  rfl

/-! ### MAP_SELECT (R193) -/

/-- What an accepted MAP_SELECT begins that deletes no action. -/
theorem selectVerdict_selects (h : selectVerdict c s = .accept a) (hform : c.arg 0 2 ≠ 2) (n : Nat) (u : State) :
    a.effect n u = if c.arg 0 2 = 1 then addAction c.parcel c.trigger (.plat c.parcel (c.arg 4 2)) u
      else selectPlat c.parcel (c.arg 4 2) u := by
  unfold selectVerdict at h
  dsimp only at h
  rw [if_neg hform] at h
  cases (verdictOf_accept h).1
  rfl

theorem selectVerdict_deletes (h : selectVerdict c s = .accept a) (hform : c.arg 0 2 = 2) (n : Nat) (u : State) :
    ∃ x, s.action (c.word 32) = some x ∧ a.effect n u = dropAction x.ordinal u := by
  unfold selectVerdict at h
  dsimp only at h
  rw [if_pos hform] at h
  cases hx : s.action (c.word 32) with
  | none =>
    rw [hx] at h
    cases (verdictOf_accept h).1
  | some x =>
    rw [hx] at h
    cases (verdictOf_accept h).1
    exact ⟨x, rfl, rfl⟩

end

/-! ### O13 -/

/-- Settles O13: each clause is what the opcode's verdict makes of the command, in the state that has journaled it. -/
theorem parcelCommandsComplete : Obligations.ParcelCommandsComplete := by
  unfold Obligations.ParcelCommandsComplete
  refine ⟨?create, ?setPlat, ?remove, ?phase, ?immediate, ?action, ?delete⟩
  case create =>
    intro c s a h
    have hop : (s.loaded c).arg 0 2 = 0 := (of_decide_eq_true h.form).2.resolve_right (parcelVerdict_op (Accepts.own h))
    exact runCommand_of_effect h ((parcelVerdict_creates (Accepts.own h) hop _ _).trans (by rw [begun_parcels]))
  case setPlat =>
    exact fun c s a h => runCommand_of_effect h (parcelVerdict_setsPlat (Accepts.own h) (of_decide_eq_true h.form).2 _ _)
  case remove =>
    exact fun c s a h => ⟨_, rfl, runCommand_of_effect h (parcelVerdict_removes (Accepts.own h) (of_decide_eq_true h.form).2 _ _)⟩
  case phase => exact fun c s a h => ⟨_, rfl, runCommand_of_effect h (phaseVerdict_writes (Accepts.own h) rfl _ _)⟩
  case immediate =>
    intro c s a h
    have hform := (of_decide_eq_true h.form).2
    exact runCommand_of_effect h ((selectVerdict_selects (Accepts.own h) (by omega) _ _).trans (if_neg (by omega)))
  case action =>
    intro c s a h
    have hform := (of_decide_eq_true h.form).2
    exact runCommand_of_effect h ((selectVerdict_selects (Accepts.own h) (by omega) _ _).trans (if_pos hform))
  case delete =>
    intro c s a h
    obtain ⟨x, hx, he⟩ := selectVerdict_deletes (Accepts.own h) (of_decide_eq_true h.form).2 s.book.next (s.begun c a)
    exact ⟨x, hx, runCommand_of_effect h he⟩

end Sys2Proof.Proofs
end
